-- ==== Sys2Proof/Word.lean ====
section
/-!
DEFINITION. The words of the machine, the plain containers the state is built from (spec/00_scope.md R1-R3,
spec/02_encoding.md R61), and what peers of the module send to it.
-/

namespace Sys2Proof

/-- One byte of memory. -/
abbrev Byte := BitVec 8

/-- A 32-bit word: a scalar register, a CSR, a local address, a code word (R2, R61). -/
abbrev Word := BitVec 32

/-- One vector operand: 16 lanes of 32 bits (R56). -/
abbrev Vec := Vector Word 16

/-- A finite map from natural numbers, as a list of pairs with rising keys; a key that is not listed has a default
value that the reader of the map names. -/
abbrev FMap (α : Type) := List (Nat × α)

/-- One clove of a bulb: a 32-bit value and its 16-bit weight (spec/07_bulb.md R198). -/
structure Clove where
  val : Word
  wt  : BitVec 16
  deriving DecidableEq, Repr

/-- A bulb register: 16 lanes of eight cloves, and a tag (R198). -/
structure Bulb where
  lanes : Vector (Vector Clove 8) 16
  tag   : BitVec 16
  deriving DecidableEq, Repr

/-! ## What comes from peers -/

/-- What an owner outside the module does with a request (spec/09_pull.md R254, R262, R278). -/
inductive PeerAnswer where
  /-- Served: the bytes, the stamp of the line, and whether a discarded byte was among them. -/
  | line (data : List Byte) (stamp : Nat) (disc : Bool)
  /-- Refused, or failed, with a STATE. -/
  | refused (state : Nat)
  /-- An uncorrectable data error. -/
  | error
  /-- An answer of a chip to a request that is no longer outstanding. -/
  | late (chip : Nat)
  deriving DecidableEq, Repr

/-- What a peer reads for: LDG and PULL, PULLD, an acquire, an acquiring PULLD, the TAKE of a migration, with the coherence
domain of its page where the read acquires, and the offset and length of the whole source of a TAKE (spec/13_fabric.md R358, R359;
spec/14_host.md R396). -/
inductive PeerRead where
  | plain
  | digest
  | acquire (cdom : Nat)
  | digestAcquire (cdom : Nat)
  | take (cdom first size : Nat)
  deriving DecidableEq, Repr

/-- A request of a peer that UALink has a form for (spec/13_fabric.md R356, R362). -/
inductive PeerRequest where
  | read (kind : PeerRead) (len : Nat)
  | write
  | atomic
  deriving DecidableEq, Repr

/-- A request of a peer that travels as an Oxgor command (spec/13_fabric.md R357): the placement or refresh of a watch by
watching cluster and watch number, a consuming pull, a send with its number and its header pod address (R367). -/
inductive PeerCommand where
  | watch (gc id : Nat) (thr : Word) (once : Bool) (cdom : Nat)
  | consume (gc gen len : Nat)
  | send (num header gen : Nat) (vector : Bool) (payload : List Byte)
  deriving DecidableEq, Repr

/-- What every request of a peer carries (spec/13_fabric.md R356, R363, R368): its chip, the port of the module at which it
arrives, its request identifier, the requester's slot number or accelerator identifier, the pod time in us at which it left
its port, the key, the offset, and bits [56:54] of its address. -/
structure PeerHeader where
  chip : Nat
  port : Nat
  rid : Nat
  who : Nat
  sent : Nat
  key : Nat
  off : Nat
  high : Nat
  deriving DecidableEq, Repr

/-- What a state of bring-up works on (spec/15_taproot.md R407, R408, R415): an image with its header; the slack readings in ps,
by die, clock mode and path-delay monitor; pod time in ns and the chip number, once locked and assigned; other work done; a
failure. -/
inductive BootWork where
  | image (bytes : List Byte)
  | readings (slack : List (List (List Int)))
  | locked (chip ns : Nat)
  | done
  | failed
  deriving DecidableEq, Repr

end Sys2Proof
end

