-- ==== Sys2Proof/Machine/Float.lean ====
section
/-!
DEFINITION. The floating-point formats, exact values, rounding and conversions (spec/03_numbers.md R81-R91, R98-R99,
spec/00_scope.md R8-R9). Values are exact until one of the rounding functions is named (R7).
-/

namespace Sys2Proof.Machine

/-- The sticky flags an operation raises, in the order of STATUS [4:0]: SA NX UF OF NV (R85, R108). -/
abbrev Flags := BitVec 5

/-- The flag NV. -/
def flagNV : Flags := 1
/-- The flag OF. -/
def flagOF : Flags := 2
/-- The flag UF. -/
def flagUF : Flags := 4
/-- The flag NX. -/
def flagNX : Flags := 8
/-- The flag SA. -/
def flagSA : Flags := 16

/-- A floating-point format (R82): the widths of exponent and fraction, and whether it has infinities (R83). -/
structure Fmt where
  ebits : Nat
  fbits : Nat
  hasInf : Bool
  deriving DecidableEq, Repr

def fmtF32 : Fmt := ⟨8, 23, true⟩
def fmtBF16 : Fmt := ⟨8, 7, true⟩
def fmtF16 : Fmt := ⟨5, 10, true⟩
def fmtE4M3 : Fmt := ⟨4, 3, false⟩
def fmtE5M2 : Fmt := ⟨5, 2, true⟩
/-- The binary64 format of the bulb extractions (spec/07_bulb.md R216). -/
def fmtF64 : Fmt := ⟨11, 52, true⟩

/-- The exponent bias of a format. -/
def Fmt.bias (f : Fmt) : Nat := 2 ^ (f.ebits - 1) - 1

/-- The exponent of the smallest normal of a format. -/
def Fmt.emin (f : Fmt) : Int := 1 - (f.bias : Int)

/-- The bits of the largest finite magnitude (R82). -/
def Fmt.maxBits (f : Fmt) : Nat :=
  if f.hasInf then (2 ^ f.ebits - 1) * 2 ^ f.fbits - 1 else 2 ^ (f.ebits + f.fbits) - 2

/-- The bits of +infinity in a format that has one. -/
def Fmt.infBits (f : Fmt) : Nat := (2 ^ f.ebits - 1) * 2 ^ f.fbits

/-- The sign bit's weight. -/
def Fmt.signBit (f : Fmt) : Nat := 2 ^ (f.ebits + f.fbits)

/-- An exact value: a NaN with its sign and its payload aligned to the FP32 fraction, an infinity, or
(-1)^s * m * 2^e with the sign kept for a zero. -/
inductive FVal where
  | nan (s : Bool) (payload : Nat)
  | inf (s : Bool)
  | fin (s : Bool) (m : Nat) (e : Int)
  deriving DecidableEq, Repr

/-- The value of the bits of a format (R82, R83). -/
def Fmt.decode (f : Fmt) (x : Nat) : FVal :=
  let s := x / f.signBit % 2 == 1
  let ex := x / 2 ^ f.fbits % 2 ^ f.ebits
  let fr := x % 2 ^ f.fbits
  if ex = 2 ^ f.ebits - 1 ∧ f.hasInf then
    if fr = 0 then .inf s
    else .nan s (if f.fbits ≤ 23 then fr * 2 ^ (23 - f.fbits) else fr / 2 ^ (f.fbits - 23))
  else if ¬ f.hasInf ∧ x % f.signBit = f.signBit - 1 then .nan s 0
  else if ex = 0 then .fin s fr (f.emin - f.fbits)
  else .fin s (2 ^ f.fbits + fr) (f.emin + (ex - 1 : Nat) - f.fbits)

/-- The FP32 value of a word. -/
def f32 (x : Word) : FVal := fmtF32.decode x.toNat

/-- Is the value a NaN? -/
def FVal.isNaN : FVal → Bool
  | .nan _ _ => true
  | _ => false

/-- Is the value an infinity? -/
def FVal.isInf : FVal → Bool
  | .inf _ => true
  | _ => false

/-- Is the value a zero? -/
def FVal.isZero : FVal → Bool
  | .fin _ m _ => m == 0
  | _ => false

/-- The sign of a value. -/
def FVal.sign : FVal → Bool
  | .nan s _ => s
  | .inf s => s
  | .fin s _ _ => s

/-- A value with its sign inverted. -/
def FVal.neg : FVal → FVal
  | .nan s p => .nan (!s) p
  | .inf s => .inf (!s)
  | .fin s m e => .fin (!s) m e

/-- A value's magnitude. -/
def FVal.abs : FVal → FVal
  | .nan _ p => .nan false p
  | .inf _ => .inf false
  | .fin _ m e => .fin false m e

/-- The signed significand of a value at the exponent `e0`, at most its own. -/
def scaled (s : Bool) (m : Nat) (e e0 : Int) : Int :=
  let k := m * 2 ^ (e - e0).toNat
  if s then -(k : Int) else k

/-- The exact sum of two finite values; the sum is negative zero only if both operands are negative zeros (R177). -/
def addFin (s1 : Bool) (m1 : Nat) (e1 : Int) (s2 : Bool) (m2 : Nat) (e2 : Int) : FVal :=
  let e := min e1 e2
  let i := scaled s1 m1 e1 e + scaled s2 m2 e2 e
  if i = 0 then .fin (s1 && s2) 0 e else .fin (i < 0) i.natAbs e

/-- Number of significant bits of a number: floor(log2 m) + 1, and 0 for 0. -/
def bitLength (m : Nat) : Nat := if m = 0 then 0 else Nat.log2 m + 1

/-- `n / 2^k` rounded to nearest, ties to even, with whether a bit was lost. -/
def shiftRne (n k : Nat) : Nat × Bool :=
  let q := n / 2 ^ k
  let r := n % 2 ^ k
  let up := 2 ^ k < 2 * r ∨ (2 * r = 2 ^ k ∧ q % 2 = 1)
  (if up then q + 1 else q, r != 0)

/-- The bits of a NaN in a format: sign and high payload bits kept, quiet bit set (R9 step 1). -/
def Fmt.nanBits (f : Fmt) (s : Bool) (payload : Nat) : Nat :=
  (if s then f.signBit else 0) +
    (if f.hasInf then
      let fr := if f.fbits ≤ 23 then payload / 2 ^ (23 - f.fbits) else payload * 2 ^ (f.fbits - 23)
      f.infBits + (fr ||| 2 ^ (f.fbits - 1))
    else f.signBit - 1)

/-- RNE_fmt: an exact value rounded to the bits of a format, with the flags of R85 (R9). -/
def Fmt.round (f : Fmt) (x : FVal) : Nat × Flags :=
  match x with
  | .nan s p => (f.nanBits s p, 0)
  | .inf s =>
    let sb := if s then f.signBit else 0
    if f.hasInf then (sb + f.infBits, 0) else (sb + f.maxBits, flagOF ||| flagNX)
  | .fin s m e =>
    let sb := if s then f.signBit else 0
    if m = 0 then (sb, 0) else
      let q : Int := (Nat.log2 m : Int) + e
      let b := max q f.emin
      let l := b - f.fbits
      let r := if l ≤ e then (m * 2 ^ (e - l).toNat, false) else shiftRne m (l - e).toNat
      let bits := r.1 + (b - f.emin).toNat * 2 ^ f.fbits
      if f.maxBits < bits then
        (sb + (if f.hasInf then f.infBits else f.maxBits), flagOF ||| flagNX)
      else (sb + bits, if r.2 then (if q < f.emin then flagUF ||| flagNX else flagNX) else 0)

/-- RNE_F32 as a word. -/
def rneF32 (x : FVal) : Word × Flags :=
  let r := fmtF32.round x
  (BitVec.ofNat 32 r.1, r.2)

/-- A quotient num / (den * 2^k) of natural numbers rounded once to a format, with the sign given: the exact quotient is
rounded to odd in enough bits first, which leaves the rounding of R9 unchanged. -/
def Fmt.roundQuot (f : Fmt) (s : Bool) (num den : Nat) (k : Int) : Nat × Flags :=
  if num = 0 then ((if s then f.signBit else 0), 0) else
    let up := f.fbits + 8 + bitLength den + (if bitLength num < bitLength den then bitLength den - bitLength num else 0)
    let n := num * 2 ^ up
    let q := n / den
    let m := if n % den = 0 then 2 * q else 2 * q + 1
    f.round (.fin s m (-k - up - 1))

/-- The default FP32 NaN (R83). -/
def nanF32 : Word := 0x7FC00000

/-- The quietened word of a NaN (R84). -/
def quietNaN (s : Bool) (payload : Nat) : Word := BitVec.ofNat 32 (fmtF32.nanBits s payload)

/-- The first NaN among operands, in the order a, b, d (R84). -/
def firstNaN : List FVal → Option FVal
  | [] => none
  | .nan s p :: _ => some (.nan s p)
  | _ :: xs => firstNaN xs

/-- The default NaN of a format (R83). -/
def Fmt.defaultNaN (f : Fmt) : Nat := if f.hasInf then f.infBits + 2 ^ (f.fbits - 1) else f.signBit - 1

/-- a + b rounded to a format, with NaN order and the invalid case of R177. -/
def Fmt.add (f : Fmt) (a b : FVal) : Nat × Flags :=
  match firstNaN [a, b] with
  | some n => f.round n
  | none =>
    match a, b with
    | .inf s, .inf t => if s = t then f.round (.inf s) else (f.defaultNaN, flagNV)
    | .inf s, _ => f.round (.inf s)
    | _, .inf t => f.round (.inf t)
    | .fin s1 m1 e1, .fin s2 m2 e2 => f.round (addFin s1 m1 e1 s2 m2 e2)
    | x, _ => f.round x

/-- The exact product of two values that are no NaN, or `none` for 0 times infinity. -/
def mulExact (a b : FVal) : Option FVal :=
  match a, b with
  | .fin s1 m1 e1, .fin s2 m2 e2 => some (.fin (s1 != s2) (m1 * m2) (e1 + e2))
  | x, y => if x.isZero || y.isZero then none else some (.inf (x.sign != y.sign))

/-- a * b rounded to a format (R177). -/
def Fmt.mul (f : Fmt) (a b : FVal) : Nat × Flags :=
  match firstNaN [a, b] with
  | some n => f.round n
  | none =>
    match mulExact a b with
    | some p => f.round p
    | none => (f.defaultNaN, flagNV)

/-- a * b + d with one rounding (R177). A 0 times infinity product sets NV even when d is a NaN, which is returned. -/
def Fmt.fma (f : Fmt) (a b d : FVal) : Nat × Flags :=
  match firstNaN [a, b] with
  | some n => f.round n
  | none =>
    match mulExact a b, d with
    | none, .nan s p => ((f.round (.nan s p)).1, flagNV)
    | none, _ => (f.defaultNaN, flagNV)
    | some _, .nan s p => f.round (.nan s p)
    | some p, d => f.add p d

/-- Are two values comparable and a < b? False when either is a NaN (R180). -/
def FVal.lt (a b : FVal) : Bool :=
  match a, b with
  | .nan _ _, _ => false
  | _, .nan _ _ => false
  | .inf s, .inf t => s && !t
  | .inf s, _ => s
  | _, .inf t => !t
  | .fin s1 m1 e1, .fin s2 m2 e2 =>
    let e := min e1 e2
    scaled s1 m1 e1 e < scaled s2 m2 e2 e

/-- Numerical equality, false when either is a NaN (R180). -/
def FVal.eqv (a b : FVal) : Bool :=
  !a.isNaN && !b.isNaN && !a.lt b && !b.lt a

/-- VMIN.f32 of two words (R178): the first NaN, else the lesser, -0 being less than +0. -/
def minF32 (x y : Word) : Word :=
  match firstNaN [f32 x, f32 y] with
  | some n => (rneF32 n).1
  | none =>
    if (f32 x).lt (f32 y) then x else if (f32 y).lt (f32 x) then y
    else if (f32 x).sign then x else y

/-- VMAX.f32 of two words (R178). -/
def maxF32 (x y : Word) : Word :=
  match firstNaN [f32 x, f32 y] with
  | some n => (rneF32 n).1
  | none =>
    if (f32 y).lt (f32 x) then x else if (f32 x).lt (f32 y) then y
    else if (f32 x).sign then y else x

/-- An integer clamped to a range, with the flag SA when it changes (R86). -/
def clampSA (lo hi x : Int) : Int × Flags :=
  if x < lo then (lo, flagSA) else if hi < x then (hi, flagSA) else (x, 0)

/-- A finite value rounded to the nearest integer, ties to even, with whether it changed. -/
def rneInt (s : Bool) (m : Nat) (e : Int) : Int × Bool :=
  let r := if 0 ≤ e then (m * 2 ^ e.toNat, false) else shiftRne m (-e).toNat
  (if s then -(r.1 : Int) else r.1, r.2)

/-- FP32 to an integer format of range lo..hi (R87). -/
def f32ToInt (lo hi : Int) (x : FVal) : Int × Flags :=
  match x with
  | .nan _ _ => (0, flagNV)
  | .inf s => (if s then lo else hi, flagNV)
  | .fin s m e =>
    let r := rneInt s m e
    if r.1 < lo then (lo, flagNV) else if hi < r.1 then (hi, flagNV)
    else (r.1, if r.2 then flagNX else 0)

/-- The exact value of an integer. -/
def intVal (i : Int) : FVal := .fin (i < 0) i.natAbs 0

/-- The magnitude table of R90 in eighths: eight times TABLE's magnitude, and the sign. -/
def b4Mag (ty c : Nat) : Bool × Nat :=
  let s := 8 ≤ c
  let e := c % 8
  match ty with
  | 0 => (s, if s then 8 * (16 - c) else 8 * c)
  | 1 => (s, [0, 4, 8, 12, 16, 24, 32, 48].getD e 0)
  | 2 => (s, 2 ^ e)
  | _ => (s, [0, 8, 16, 24, 32, 40, 48, 64].getD e 0)

/-- TABLE of R90 as an exact value. -/
def b4Table (ty c : Nat) : FVal :=
  let r := b4Mag ty c
  .fin r.1 r.2 (-3)

/-- DECODE_B4 as an exact value: a NaN under scale exponent 63 (R91). -/
def b4Value (sb c : Nat) : FVal :=
  if sb % 64 = 63 then .nan false 0x400000
  else
    let r := b4Mag (sb / 64 % 4) c
    .fin r.1 r.2 ((sb % 64 : Nat) - 32 - 3)

/-- DECODE_B4 (R91). -/
def decodeB4 (sb c : Nat) : Word := (rneF32 (b4Value sb c)).1

/-- Exact widening of a narrow value to FP32 (R86). -/
def Fmt.widen (f : Fmt) (x : Nat) : Word := (rneF32 (f.decode x)).1

/-- Narrowing of FP32 bits to a format (R86, R94). -/
def Fmt.narrow (f : Fmt) (x : Word) : Nat × Flags := f.round (f32 x)

/-- ACC_ADD of R99: the sum of an accumulator element and a group, every NaN being the default. -/
def accAdd (acc g : FVal) : Word × Flags :=
  if acc.isNaN || g.isNaN then (nanF32, 0)
  else
    let r := fmtF32.add acc g
    (BitVec.ofNat 32 r.1, r.2)

/-- GROUP_ROUND of R99 over the products of one group, each given as its two operands. -/
def groupRound (ps : List (FVal × FVal)) : Word × Flags :=
  if ps.any fun p => p.1.isNaN || p.2.isNaN then (nanF32, 0)
  else
    let xs := ps.map fun p => mulExact p.1 p.2
    if xs.any Option.isNone then (nanF32, flagNV)
    else
      let vs := xs.filterMap id
      let pinf := vs.any fun v => v.isInf && !v.sign
      let ninf := vs.any fun v => v.isInf && v.sign
      if pinf && ninf then (nanF32, flagNV)
      else if pinf then (0x7F800000, 0)
      else if ninf then (0xFF800000, 0)
      else
        let e : Int := vs.foldl (fun (acc : Int) v => match v with | .fin _ _ e => min acc e | _ => acc) 0
        let i : Int := vs.foldl (fun (acc : Int) v => match v with | .fin s m e' => acc + scaled s m e' e | _ => acc) 0
        if i = 0 then
          (if vs.all fun v => v.isZero && v.sign then 0x80000000 else 0, 0)
        else rneF32 (.fin (i < 0) i.natAbs e)

end Sys2Proof.Machine
end

