-- ==== Sys2Proof/Config.lean ====
section
/-!
DEFINITION. What is fixed for the machine: the numbers of R14 and the limits of the spec, and the free values, which the
spec leaves open and no proof can see.
-/

namespace Sys2Proof.Config

/-- Compute clusters of a die; cluster numbers from here on are memory clusters (spec/01_engines.md R14). -/
def computeClusters : Nat := 288
/-- Clusters of a die (R14). -/
def clustersPerDie : Nat := 320
/-- Compute dies of the module (R14). -/
def dies : Nat := 12
/-- Clusters of the module (R14). -/
def clusters : Nat := 3840
/-- Slots of the module (R14). -/
def slots : Nat := 122880

/-- Bundles a region may execute (spec/05_commit.md R145). -/
def maxBundles : Nat := 4096
/-- Store lines a region may hold (R145). -/
def maxLines : Nat := 256
/-- Deferred effects a region may hold (R10, R145). -/
def maxEffects : Nat := 32
/-- Entries of the busy-range table (R150). -/
def busyRanges : Nat := 64
/-- Commands of a core's matrix queue (spec/08_matrix.md R236). -/
def matQueue : Nat := 8
/-- Bytes of a core's A staging (R220). -/
def aStaging : Nat := 65536
/-- The longest solo run, in ck (R163). -/
def soloCk : Nat := 16384

/-- A byte of a slot's trap scratch after the given dispatch of a slice to the slot, before it is written: a free value
(spec/04_control.md R118, log entry 6). -/
opaque scratchByte : (slot epoch offset : Nat) → Byte

/-- A byte of a host region at its offset as the given take finds it, before the device writes it: a free value
(spec/14_host.md R401, log entry 6). -/
opaque hostByte : (take offset : Nat) → Byte

/-- The permutation by which the Oxgor port of a cluster issues remote keys after the given module reset, keyed by Taproot
and not public: a free value (spec/13_fabric.md R358, log entry 8). Key n of the sequence is the value plus one. -/
opaque keyPerm : (reset cluster : Nat) → Equiv.Perm (Fin 1048575)

/-- The link flits that a request or an answer of some bytes takes: a free value (R364, log entry 26). -/
opaque flits : (bytes : Nat) → Nat

/-- How long after a change of XSTK or LEASE, by its number, a cluster takes the new value, in units of the wall clock: a
free value, of which the remainder modulo 10 us counts (spec/15_taproot.md R411, log entry 66). -/
opaque modeDelay : (change cluster : Nat) → Nat

/-- The board's power-feed identifier: a free value (spec/15_taproot.md R409, log entry 7). -/
opaque feedId : BitVec 64

/-- A byte of the digest of the Zenaux public key in the fuses: a free value (R407, log entry 7). -/
opaque keyDigest : (byte : Nat) → Byte

/-- The minimum version of an image kind in the fuses: a free value (R407, log entry 7). -/
opaque minVersion : (kind : Nat) → Nat

/-- A byte of the digest of a margin plan: a free value (R409, R416, log entry 7). -/
opaque planDigest : (plan byte : Nat) → Byte

/-- A byte of the signature of an attestation report: a free value (R409, log entry 7). -/
opaque signatureByte : (report byte : Nat) → Byte

end Sys2Proof.Config
end

