-- ==== Sys2Proof/Syntax.lean ====
section
/-!
DEFINITION. The instructions and steps of the machine: one constructor per row of the opcode table.

A row of the first part of the table is a Colurn word (spec/02_encoding.md R47-R70): its constructor holds the word's
operand fields, each a bit vector of the field's width, named as the table names them. Bit [30], S, says how the word
is bundled and is no part of the instruction (R47). A row of the second part is an indivisible step of an engine, a
port or the outside world (spec/95_what_each_step_holds.md): its constructor holds what names the subject of the step
and the data that come from outside the module.
-/

namespace Sys2Proof

/-- The instruction words and the steps of the module. -/
inductive Instr where
  /-- R104: Adds two scalar registers modulo 2^32. -/
  | add (d a b : BitVec 5)
  /-- R104: Subtracts sb from sa modulo 2^32. -/
  | sub (d a b : BitVec 5)
  /-- R104: Bitwise AND of two scalars. -/
  | and (d a b : BitVec 5)
  /-- R104: Bitwise OR of two scalars. -/
  | or (d a b : BitVec 5)
  /-- R104: Bitwise XOR of two scalars. -/
  | xor (d a b : BitVec 5)
  /-- R104: sa AND NOT sb. -/
  | andn (d a b : BitVec 5)
  /-- R104: Left shift by sb[4:0]. -/
  | shl (d a b : BitVec 5)
  /-- R104: Logical right shift by sb[4:0]. -/
  | shr (d a b : BitVec 5)
  /-- R104: Arithmetic right shift by sb[4:0]. -/
  | sra (d a b : BitVec 5)
  /-- R104: Sets 1 if sa is signed-less than sb. -/
  | slt (d a b : BitVec 5)
  /-- R104: Sets 1 if sa is unsigned-less than sb. -/
  | sltn (d a b : BitVec 5)
  /-- R104: Sets 1 if sa equals sb. -/
  | seq (d a b : BitVec 5)
  /-- R104: Signed minimum of two scalars. -/
  | min (d a b : BitVec 5)
  /-- R104: Unsigned minimum of two scalars. -/
  | minn (d a b : BitVec 5)
  /-- R104: Signed maximum of two scalars. -/
  | max (d a b : BitVec 5)
  /-- R104: Unsigned maximum of two scalars. -/
  | maxn (d a b : BitVec 5)
  /-- R104: sd := sa + 4 × sb. -/
  | addx4 (d a b : BitVec 5)
  /-- R104: sd := sa + 64 × sb. -/
  | addx64 (d a b : BitVec 5)
  /-- R104: Low 32 bits of the product. -/
  | mul (d a b : BitVec 5)
  /-- R104: High 32 bits of the signed product. -/
  | mulh (d a b : BitVec 5)
  /-- R104: High 32 bits of the unsigned product. -/
  | mulhn (d a b : BitVec 5)
  /-- R105: Signed division truncating towards zero, never trapping. -/
  | div (d a b : BitVec 5)
  /-- R105: Unsigned division, never trapping. -/
  | divn (d a b : BitVec 5)
  /-- R105: Signed remainder with the sign of the dividend. -/
  | rem (d a b : BitVec 5)
  /-- R105: Unsigned remainder. -/
  | remn (d a b : BitVec 5)
  /-- R104: Moves sa into sd if sb is zero. -/
  | movz (d a b : BitVec 5)
  /-- R104: Moves sa into sd if sb is non-zero. -/
  | movnz (d a b : BitVec 5)
  /-- R104: Counts leading zeros of sa. -/
  | clz (d a : BitVec 5)
  /-- R104: Counts set bits of sa. -/
  | popc (d a : BitVec 5)
  /-- R104: Reads a predicate into a scalar. -/
  | prd (d a : BitVec 5)
  /-- R104: Writes sa[15:0] into a predicate. -/
  | pwr (d a : BitVec 5)
  /-- R106: Adds a sign-extended immediate. -/
  | addi (d a : BitVec 5) (i : BitVec 14)
  /-- R106: ANDs a zero-extended immediate. -/
  | andi (d a : BitVec 5) (i : BitVec 14)
  /-- R106: ORs a zero-extended immediate. -/
  | ori (d a : BitVec 5) (i : BitVec 14)
  /-- R106: XORs a zero-extended immediate. -/
  | xori (d a : BitVec 5) (i : BitVec 14)
  /-- R106: Left shift by an immediate amount. -/
  | shli (d a n : BitVec 5)
  /-- R106: Logical right shift by an immediate amount. -/
  | shri (d a n : BitVec 5)
  /-- R106: Arithmetic right shift by an immediate amount. -/
  | srai (d a n : BitVec 5)
  /-- R106: Loads a 19-bit immediate into bits [31:13]. -/
  | lui (d : BitVec 5) (i : BitVec 19)
  /-- R106: Signed compare against an immediate. -/
  | slti (d a : BitVec 5) (i : BitVec 14)
  /-- R106: Unsigned compare against a sign-extended immediate. -/
  | sltni (d a : BitVec 5) (i : BitVec 14)
  /-- R107: Reads a CSR, with the read side effects of CYCLE and PTIMEL capture. -/
  | csrr (d : BitVec 5) (n : BitVec 12)
  /-- R107: Writes a CSR and returns its old value. -/
  | csrw (d a : BitVec 5) (n : BitVec 12)
  /-- R107: Sets RW bits or clears W1C bits of a CSR. -/
  | csrs (d a : BitVec 5) (n : BitVec 12)
  /-- R107: Clears RW bits of a CSR. -/
  | csrc (d a : BitVec 5) (n : BitVec 12)
  /-- R113: Jumps by a 24-bit word displacement. -/
  | j (i : BitVec 24)
  /-- R113: Jumps and writes the next bundle address to s31. -/
  | jal (i : BitVec 24)
  /-- R113: Jumps to the address in sa. -/
  | jr (a : BitVec 5)
  /-- R113: Jumps to sa and writes the link to sd. -/
  | jalr (d a : BitVec 5)
  /-- R110: Branches if sd equals sa. -/
  | beq (d a : BitVec 5) (i : BitVec 14)
  /-- R110: Branches if sd differs from sa. -/
  | bne (d a : BitVec 5) (i : BitVec 14)
  /-- R110: Branches on signed less-than. -/
  | blt (d a : BitVec 5) (i : BitVec 14)
  /-- R110: Branches on signed greater-or-equal. -/
  | bge (d a : BitVec 5) (i : BitVec 14)
  /-- R110: Branches on unsigned less-than. -/
  | bltn (d a : BitVec 5) (i : BitVec 14)
  /-- R110: Branches on unsigned greater-or-equal. -/
  | bgen (d a : BitVec 5) (i : BitVec 14)
  /-- R111: Branches on any, all or no lane of a predicate set. -/
  | bp (c : BitVec 2) (p : BitVec 3) (i : BitVec 14)
  /-- R112: Decrements sd and branches while non-zero. -/
  | loop (d : BitVec 5) (i : BitVec 14)
  /-- R114: Loads a sign-extended byte from local memory. -/
  | ldI8 (d a : BitVec 5) (o : BitVec 14)
  /-- R114: Loads a zero-extended byte. -/
  | ldN8 (d a : BitVec 5) (o : BitVec 14)
  /-- R114: Loads a sign-extended half-word. -/
  | ldI16 (d a : BitVec 5) (o : BitVec 14)
  /-- R114: Loads a zero-extended half-word. -/
  | ldN16 (d a : BitVec 5) (o : BitVec 14)
  /-- R114: Loads a word, widening through a format window. -/
  | ldI32 (d a : BitVec 5) (o : BitVec 14)
  /-- R114: Buffers a byte store in the region. -/
  | stI8 (d a : BitVec 5) (o : BitVec 14)
  /-- R114: Buffers a half-word store in the region. -/
  | stI16 (d a : BitVec 5) (o : BitVec 14)
  /-- R114: Buffers a word store, narrowing through a format window. -/
  | stI32 (d a : BitVec 5) (o : BitVec 14)
  /-- R295: Consuming scalar load through a tile handle, appending one decrement per tile per region. -/
  | ldc (d a : BitVec 5) (o : BitVec 14)
  /-- R116: Loads 16 lanes from a 64-byte-aligned local address. -/
  | vld (v : BitVec 6) (a : BitVec 5) (p : BitVec 3) (o : BitVec 10)
  /-- R116: Stores 16 lanes to local memory under a lane mask. -/
  | vst (v : BitVec 6) (a : BitVec 5) (p : BitVec 3) (o : BitVec 10)
  /-- R116: Strided vector load. -/
  | vlds (v : BitVec 6) (a : BitVec 5) (p : BitVec 3) (b : BitVec 5)
  /-- R116: Strided vector store. -/
  | vsts (v : BitVec 6) (a : BitVec 5) (p : BitVec 3) (b : BitVec 5)
  /-- R116: Indexed vector load. -/
  | vldx (v : BitVec 6) (a : BitVec 5) (p : BitVec 3) (x : BitVec 6) (e : BitVec 2)
  /-- R116: Indexed vector store. -/
  | vstx (v : BitVec 6) (a : BitVec 5) (p : BitVec 3) (x : BitVec 6) (e : BitVec 2)
  /-- R295: Consuming vector load through a tile handle. -/
  | vldc (v : BitVec 6) (a : BitVec 5) (p : BitVec 3) (o : BitVec 10)
  /-- R210: Loads a bulb from a 1,024-byte image, checking weight sums. -/
  | qld (q : BitVec 6) (a : BitVec 5) (o : BitVec 10)
  /-- R210: Stores a bulb as a 1,024-byte image. -/
  | qst (q : BitVec 6) (a : BitVec 5) (o : BitVec 10)
  /-- R119: Atomic swap within the region. -/
  | amoswap (d a b : BitVec 5)
  /-- R119: Atomic add. -/
  | amoadd (d a b : BitVec 5)
  /-- R119: Atomic AND. -/
  | amoand (d a b : BitVec 5)
  /-- R119: Atomic OR. -/
  | amoor (d a b : BitVec 5)
  /-- R119: Atomic XOR. -/
  | amoxor (d a b : BitVec 5)
  /-- R119: Atomic signed minimum. -/
  | amomin (d a b : BitVec 5)
  /-- R119: Atomic signed maximum. -/
  | amomax (d a b : BitVec 5)
  /-- R119: Atomic unsigned minimum. -/
  | amominn (d a b : BitVec 5)
  /-- R119: Atomic unsigned maximum. -/
  | amomaxn (d a b : BitVec 5)
  /-- R119: Atomic compare-and-swap against sd. -/
  | amocas (d a b : BitVec 5)
  /-- R117: Moves one lane of a vector into a scalar. -/
  | movws (v : BitVec 6) (d : BitVec 5) (l : BitVec 4)
  /-- R121: Commits and waits until all members arrive, then fuses slots into a gang. -/
  | gang (n : BitVec 2)
  /-- R125: Commits the gang region and dissolves the gang. -/
  | split
  /-- R131: Arrives at a barrier, commits and waits for the phase. -/
  | barw (b : BitVec 9)
  /-- R130: Appends a deferred barrier arrival. -/
  | bara (b : BitVec 9)
  /-- R132: Waits until the slot's arrival at a barrier is no longer outstanding. -/
  | barwt (b : BitVec 9)
  /-- R136: Commits the region and takes cause 0x040 + n. -/
  | trap (a : BitVec 5) (n : BitVec 6)
  /-- R137: Commits, clears TA and opens a region of the recorded kind at EPC. -/
  | eret
  /-- R147: Commits the region and opens an ordinary one. -/
  | rgn
  /-- R147: Commits the region and opens an atomic-required one. -/
  | rgnA
  /-- R147: Discards the region and restarts it, recording a code. -/
  | abort (a : BitVec 5)
  /-- R147: Reads the open region's progress. -/
  | rgnq (d : BitVec 5)
  /-- R166: Reads a word of a commit trace ring entry. -/
  | trcr (d a b : BitVec 5)
  /-- R166: Reads, and at commit changes, the trace control. -/
  | trcc (d a b : BitVec 5)
  /-- R227: Launches the binding of the slot to a weight tile. -/
  | mwld (t a b : BitVec 5) (f : BitVec 3)
  /-- R229: Launches a BF16 dense multiply-accumulate. -/
  | mmaBf16 (t a b c : BitVec 5)
  /-- R229: Launches an E4M3 dense multiply-accumulate. -/
  | mmaE4m3 (t a b c : BitVec 5)
  /-- R229: Launches an E5M2 dense multiply-accumulate. -/
  | mmaE5m2 (t a b c : BitVec 5)
  /-- R229: Launches a 4-bit block dense multiply-accumulate. -/
  | mmaB4 (t a b c : BitVec 5)
  /-- R229: Launches a BF16 2:4 sparse multiply-accumulate. -/
  | mmasBf16 (t a b c : BitVec 5)
  /-- R229: Launches an E4M3 sparse multiply-accumulate. -/
  | mmasE4m3 (t a b c : BitVec 5)
  /-- R229: Launches an E5M2 sparse multiply-accumulate. -/
  | mmasE5m2 (t a b c : BitVec 5)
  /-- R229: Launches a 4-bit block sparse multiply-accumulate. -/
  | mmasB4 (t a b c : BitVec 5)
  /-- R232: Launches the zeroing, or claim, of accumulator rows. -/
  | mzero (t b : BitVec 5) (k : BitVec 1)
  /-- R233: Launches an FP32 drain or fill of accumulator rows. -/
  | mdrain (t a b : BitVec 5) (o : BitVec 3)
  /-- R233: Launches a BF16-rounding drain of accumulator rows. -/
  | mdrainBf16 (t a b : BitVec 5) (o : BitVec 2)
  /-- R234: Launches a wait for the slot's earlier matrix commands. -/
  | mwait (t : BitVec 5)
  /-- R235: Reads the state of an accumulator and the engine at once. -/
  | mqry (t : BitVec 5) (k : BitVec 4)
  /-- R271: Launches a local copy. -/
  | cpy (t a c : BitVec 5)
  /-- R272: Launches a pull of remote rows into local memory. -/
  | pull (t a b c : BitVec 5)
  /-- R274: Launches a consuming pull of a remote tile. -/
  | pullc (t a b c : BitVec 5)
  /-- R275: Launches a pull that also writes a SHA-256 digest line. -/
  | pulld (t a b c : BitVec 5)
  /-- R275: Launches the verify form of PULLD over a local range. -/
  | pulldVerify (t c : BitVec 5)
  /-- R267: Launches a watch on a sequence word reaching a threshold. -/
  | watch (t a b c : BitVec 5)
  /-- R267: Launches a watch with a timeout. -/
  | watcht (t a b c : BitVec 5)
  /-- R264: Appends the advance of a local sequence word. -/
  | seqadv (a b : BitVec 5)
  /-- R269: Appends the withdrawal of a pending watch. -/
  | wcancel (t : BitVec 5)
  /-- R259: Remote word load through the reader cache. -/
  | ldg (d a b : BitVec 5) (k : BitVec 9)
  /-- R266: Acquiring load of a sequence word from the owner's port. -/
  | seqldA (d a b : BitVec 5)
  /-- R287: Appends the configuration of a pool partition. -/
  | tpart (a c : BitVec 5)
  /-- R291: Takes a tile, waiting while the partition is empty. -/
  | talloc (t a b c : BitVec 5)
  /-- R291: Takes a tile without waiting. -/
  | tallocn (t a b c : BitVec 5)
  /-- R304: Queries a partition, a tile or statistics. -/
  | tqry (t a q : BitVec 5)
  /-- R301: Appends the giving-up of reads of a tile. -/
  | taban (a b : BitVec 5)
  /-- R315: Reserves a receive ring and returns its handle. -/
  | ropen (t a b : BitVec 5)
  /-- R316: Appends the closing of a ring. -/
  | rclose (a : BitVec 5)
  /-- R318: Appends a send of 16 register bytes to a ring. -/
  | send (t a b c : BitVec 5)
  /-- R318: Appends a send of a memory payload to a ring. -/
  | sendv (t a b c : BitVec 5)
  /-- R323: Returns the entry at HEAD, waiting while the ring is empty. -/
  | recv (t a : BitVec 5)
  /-- R323: Returns the entry at HEAD, or 0 without waiting. -/
  | recvn (t a : BitVec 5)
  /-- R336: Appends the submission of a queue entry. -/
  | submit (t a b : BitVec 5)
  /-- R339: Appends a cancel of the slices with one SID. -/
  | cancel (t a b : BitVec 5)
  /-- R348: Commits, waits for outstanding work and requeues the slice. -/
  | yield (a b : BitVec 5)
  /-- R348: Commits, waits for outstanding work and ends the slice. -/
  | retire
  /-- R348: Commits and places the slice in the timer wheel. -/
  | sleept (a b : BitVec 5)
  /-- R336: Appends a submission released at an absolute time. -/
  | subat (t a b c : BitVec 5)
  /-- R351: Reads the state of a queue at once. -/
  | qstat (t a : BitVec 5)
  /-- R344: Appends an unpin or a refresh of a footprint range. -/
  | fpin (t a b : BitVec 5)
  /-- R358: Reserves and at commit registers a remote key. -/
  | rkreg (t a b c : BitVec 5)
  /-- R360: Appends the revocation of a remote key. -/
  | rkrev (a : BitVec 5)
  /-- R376: Appends the registration of a checkpoint partner. -/
  | ckreg (t a b : BitVec 5)
  /-- R376: Appends the removal of a checkpoint partner. -/
  | ckdel (t a : BitVec 5)
  /-- R400: Appends the take of a kicked host region by a proxy cluster. -/
  | hovrTake (t a b c : BitVec 5)
  /-- R400: Appends the give-back of a host region. -/
  | hovrGive (t a b c : BitVec 5)
  /-- R393: Appends the drop of PLB entries of a range module-wide. -/
  | plbinv (t a b c : BitVec 5)
  /-- R393: Appends the drop of PLB, translation and reader-cache entries of a range. -/
  | xlinv (t a b c : BitVec 5)
  /-- R396: Appends the sealing of a page range for migration. -/
  | migrSeal (t c : BitVec 5)
  /-- R396: Appends an acquiring pull of a sealed page into the new owner. -/
  | migrTake (t a b c : BitVec 5)
  /-- R396: Appends the turning of a sealed range into discarded. -/
  | migrDiscard (t c : BitVec 5)
  /-- R396: Appends the removal and zeroing of a discarded range. -/
  | migrReclaim (t c : BitVec 5)
  /-- R67: Does nothing and counts as one bundle. -/
  | nop (x : BitVec 24)
  /-- R67: A-class majors 0x3C-0x3E execute as NOP. -/
  | reservedHintA (m : BitVec 2) (x : BitVec 24)
  /-- R67: B-class opcodes 0x78-0x7E execute as NOP. -/
  | reservedHintB (m : BitVec 3) (x : BitVec 23)
  /-- R67: An unassigned word or field value raises its decode trap. -/
  | illegalInstruction (cause : BitVec 10) (word : BitVec 32)
  /-- R173: Lane-wise wrapping add. -/
  | vaddI32 (d a b : BitVec 7) (g : BitVec 2)
  /-- R173: Lane-wise wrapping subtract. -/
  | vsubI32 (d a b : BitVec 7) (g : BitVec 2)
  /-- R173: Lane-wise low product. -/
  | vmulI32 (d a b : BitVec 7) (g : BitVec 2)
  /-- R173: Lane-wise signed high product. -/
  | vmulhI32 (d a b : BitVec 7) (g : BitVec 2)
  /-- R173: Lane-wise unsigned high product. -/
  | vmulhN32 (d a b : BitVec 7) (g : BitVec 2)
  /-- R173: Signed saturating add. -/
  | vaddsI32 (d a b : BitVec 7) (g : BitVec 2)
  /-- R173: Unsigned saturating add. -/
  | vaddsN32 (d a b : BitVec 7) (g : BitVec 2)
  /-- R173: Signed saturating subtract. -/
  | vsubsI32 (d a b : BitVec 7) (g : BitVec 2)
  /-- R173: Unsigned saturating subtract. -/
  | vsubsN32 (d a b : BitVec 7) (g : BitVec 2)
  /-- R173: Saturating add of packed signed 16-bit elements. -/
  | vaddsI16 (d a b : BitVec 7) (g : BitVec 2)
  /-- R173: Saturating add of packed signed bytes. -/
  | vaddsI8 (d a b : BitVec 7) (g : BitVec 2)
  /-- R173: Saturating add of packed unsigned bytes. -/
  | vaddsN8 (d a b : BitVec 7) (g : BitVec 2)
  /-- R173: Lane-wise signed minimum. -/
  | vminI32 (d a b : BitVec 7) (g : BitVec 2)
  /-- R173: Lane-wise unsigned minimum. -/
  | vminN32 (d a b : BitVec 7) (g : BitVec 2)
  /-- R173: Lane-wise signed maximum. -/
  | vmaxI32 (d a b : BitVec 7) (g : BitVec 2)
  /-- R173: Lane-wise unsigned maximum. -/
  | vmaxN32 (d a b : BitVec 7) (g : BitVec 2)
  /-- R173: Lane-wise AND. -/
  | vand (d a b : BitVec 7) (g : BitVec 2)
  /-- R173: Lane-wise OR. -/
  | vor (d a b : BitVec 7) (g : BitVec 2)
  /-- R173: Lane-wise XOR. -/
  | vxor (d a b : BitVec 7) (g : BitVec 2)
  /-- R173: Lane-wise a AND NOT b. -/
  | vandn (d a b : BitVec 7) (g : BitVec 2)
  /-- R173: Lane-wise left shift. -/
  | vshl (d a b : BitVec 7) (g : BitVec 2)
  /-- R173: Lane-wise logical right shift. -/
  | vshrN32 (d a b : BitVec 7) (g : BitVec 2)
  /-- R173: Lane-wise arithmetic right shift. -/
  | vshrI32 (d a b : BitVec 7) (g : BitVec 2)
  /-- R174: Lane-wise left shift by an immediate. -/
  | vshli (d a : BitVec 7) (n : BitVec 5) (g : BitVec 2)
  /-- R174: Logical right shift by an immediate. -/
  | vshriN32 (d a : BitVec 7) (n : BitVec 5) (g : BitVec 2)
  /-- R174: Arithmetic right shift by an immediate. -/
  | vshriI32 (d a : BitVec 7) (n : BitVec 5) (g : BitVec 2)
  /-- R174: Adds a signed 7-bit immediate to each lane. -/
  | vaddiI32 (d a i : BitVec 7) (g : BitVec 2)
  /-- R174: Lane-wise absolute value with saturation of -2^31. -/
  | vabsI32 (d a : BitVec 7) (g : BitVec 2)
  /-- R175: Writes a predicate of lane equality. -/
  | vcmpeqI32 (d a b : BitVec 7) (g : BitVec 2)
  /-- R175: Writes a predicate of signed less-than. -/
  | vcmpltI32 (d a b : BitVec 7) (g : BitVec 2)
  /-- R175: Writes a predicate of unsigned less-than. -/
  | vcmpltN32 (d a b : BitVec 7) (g : BitVec 2)
  /-- R176: Selects lanes of a or b by a predicate. -/
  | vsel (d a b : BitVec 7) (g : BitVec 2)
  /-- R177: FP32 add rounded to nearest even. -/
  | vaddF32 (d a b : BitVec 7) (g : BitVec 2)
  /-- R177: FP32 subtract. -/
  | vsubF32 (d a b : BitVec 7) (g : BitVec 2)
  /-- R177: FP32 multiply. -/
  | vmulF32 (d a b : BitVec 7) (g : BitVec 2)
  /-- R177: Fused FP32 a × b + d. -/
  | vfmaF32 (d a b : BitVec 7) (g : BitVec 2)
  /-- R177: Fused FP32 d − a × b. -/
  | vfmsF32 (d a b : BitVec 7) (g : BitVec 2)
  /-- R178: FP32 minimum with NaN propagation. -/
  | vminF32 (d a b : BitVec 7) (g : BitVec 2)
  /-- R178: FP32 maximum with NaN propagation. -/
  | vmaxF32 (d a b : BitVec 7) (g : BitVec 2)
  /-- R178: Clears the sign bit of each lane. -/
  | vabsF32 (d a : BitVec 7) (g : BitVec 2)
  /-- R179: Packed BF16 add. -/
  | vaddBf16 (d a b : BitVec 7) (g : BitVec 2)
  /-- R179: Packed BF16 multiply. -/
  | vmulBf16 (d a b : BitVec 7) (g : BitVec 2)
  /-- R179: Packed BF16 fused multiply-add. -/
  | vfmaBf16 (d a b : BitVec 7) (g : BitVec 2)
  /-- R179: Packed FP16 add. -/
  | vaddF16 (d a b : BitVec 7) (g : BitVec 2)
  /-- R179: Packed FP16 multiply. -/
  | vmulF16 (d a b : BitVec 7) (g : BitVec 2)
  /-- R179: Packed FP16 fused multiply-add. -/
  | vfmaF16 (d a b : BitVec 7) (g : BitVec 2)
  /-- R180: Predicate of FP32 equality. -/
  | vcmpeqF32 (d a b : BitVec 7) (g : BitVec 2)
  /-- R180: Predicate of FP32 less-than. -/
  | vcmpltF32 (d a b : BitVec 7) (g : BitVec 2)
  /-- R180: Predicate of FP32 less-or-equal. -/
  | vcmpleF32 (d a b : BitVec 7) (g : BitVec 2)
  /-- R180: Predicate of unordered FP32 operands. -/
  | vcmpunF32 (d a b : BitVec 7) (g : BitVec 2)
  /-- R181: Converts FP32 to signed 32-bit integer. -/
  | vcvtF32I32 (d a : BitVec 7) (g : BitVec 2)
  /-- R181: Converts FP32 to unsigned 32-bit integer. -/
  | vcvtF32N32 (d a : BitVec 7) (g : BitVec 2)
  /-- R181: Converts FP32 to signed 16-bit, sign-extended. -/
  | vcvtF32I16 (d a : BitVec 7) (g : BitVec 2)
  /-- R181: Converts FP32 to unsigned 16-bit. -/
  | vcvtF32N16 (d a : BitVec 7) (g : BitVec 2)
  /-- R181: Converts FP32 to signed 8-bit. -/
  | vcvtF32I8 (d a : BitVec 7) (g : BitVec 2)
  /-- R181: Converts FP32 to unsigned 8-bit. -/
  | vcvtF32N8 (d a : BitVec 7) (g : BitVec 2)
  /-- R181: Converts a signed integer to FP32. -/
  | vcvtI32F32 (d a : BitVec 7) (g : BitVec 2)
  /-- R181: Converts an unsigned integer to FP32. -/
  | vcvtN32F32 (d a : BitVec 7) (g : BitVec 2)
  /-- R181: Narrows FP32 to BF16. -/
  | vcvtF32Bf16 (d a : BitVec 7) (g : BitVec 2)
  /-- R181: Narrows FP32 to FP16. -/
  | vcvtF32F16 (d a : BitVec 7) (g : BitVec 2)
  /-- R181: Narrows FP32 to E4M3. -/
  | vcvtF32E4m3 (d a : BitVec 7) (g : BitVec 2)
  /-- R181: Narrows FP32 to E5M2. -/
  | vcvtF32E5m2 (d a : BitVec 7) (g : BitVec 2)
  /-- R181: Widens BF16 element lo or hi exactly. -/
  | vcvtBf16F32 (d a : BitVec 7) (k : BitVec 1) (g : BitVec 2)
  /-- R181: Widens FP16 element lo or hi exactly. -/
  | vcvtF16F32 (d a : BitVec 7) (k : BitVec 1) (g : BitVec 2)
  /-- R181: Widens E4M3 byte k exactly. -/
  | vcvtE4m3F32 (d a : BitVec 7) (k g : BitVec 2)
  /-- R181: Widens E5M2 byte k exactly. -/
  | vcvtE5m2F32 (d a : BitVec 7) (k g : BitVec 2)
  /-- R181: Saturates to signed 16-bit. -/
  | vcvtI32I16 (d a : BitVec 7) (g : BitVec 2)
  /-- R181: Saturates a signed value to unsigned 16-bit. -/
  | vcvtI32N16 (d a : BitVec 7) (g : BitVec 2)
  /-- R181: Saturates to signed 8-bit. -/
  | vcvtI32I8 (d a : BitVec 7) (g : BitVec 2)
  /-- R181: Saturates a signed value to unsigned 8-bit. -/
  | vcvtI32N8 (d a : BitVec 7) (g : BitVec 2)
  /-- R181: Saturates an unsigned value to signed 32-bit. -/
  | vcvtN32I32 (d a : BitVec 7) (g : BitVec 2)
  /-- R181: Saturates a signed value to unsigned 32-bit. -/
  | vcvtI32N32 (d a : BitVec 7) (g : BitVec 2)
  /-- R182: Quantises 32 FP32 values into one 4-bit block with its scale byte. -/
  | vqb4 (d a b : BitVec 7) (t : BitVec 2)
  /-- R183: Reciprocal estimate. -/
  | vrcpE (d a : BitVec 7) (g : BitVec 2)
  /-- R183: Reciprocal square root estimate. -/
  | vrsqE (d a : BitVec 7) (g : BitVec 2)
  /-- R185: Reciprocal refinement step 2 − a × b. -/
  | vrcps (d a b : BitVec 7) (g : BitVec 2)
  /-- R185: Reciprocal square root refinement step. -/
  | vrsqs (d a b : BitVec 7) (g : BitVec 2)
  /-- R186: Approximates 2^a. -/
  | vexp2E (d a : BitVec 7) (g : BitVec 2)
  /-- R187: Approximates log2 a. -/
  | vlog2E (d a : BitVec 7) (g : BitVec 2)
  /-- R188: Approximates tanh a. -/
  | vtanhE (d a : BitVec 7) (g : BitVec 2)
  /-- R189: FP32 sum of lanes by the fixed tree. -/
  | vrsumF32 (d a : BitVec 7) (g : BitVec 2)
  /-- R189: FP32 maximum over lanes. -/
  | vrmaxF32 (d a : BitVec 7) (g : BitVec 2)
  /-- R189: FP32 minimum over lanes. -/
  | vrminF32 (d a : BitVec 7) (g : BitVec 2)
  /-- R189: Wrapping integer sum over lanes. -/
  | vrsumI32 (d a : BitVec 7) (g : BitVec 2)
  /-- R189: Signed maximum over lanes. -/
  | vrmaxI32 (d a : BitVec 7) (g : BitVec 2)
  /-- R190: Permutes lanes of a by indices in b. -/
  | vperm (d a b : BitVec 7) (g : BitVec 2)
  /-- R190: Broadcasts lane k of a. -/
  | vbcast (d a : BitVec 7) (k : BitVec 4) (g : BitVec 2)
  /-- R190: Slides lanes up by n. -/
  | vslideup (d a : BitVec 7) (n : BitVec 5) (g : BitVec 2)
  /-- R190: Slides lanes down by n. -/
  | vslidedn (d a : BitVec 7) (n : BitVec 5) (g : BitVec 2)
  /-- R190: Interleaves the low halves of a and b. -/
  | vzipl (d a b : BitVec 7) (g : BitVec 2)
  /-- R190: Interleaves the high halves of a and b. -/
  | vziph (d a b : BitVec 7) (g : BitVec 2)
  /-- R191: AND of two predicates. -/
  | pand (d a b : BitVec 7)
  /-- R191: OR of two predicates. -/
  | por (d a b : BitVec 7)
  /-- R191: XOR of two predicates. -/
  | pxor (d a b : BitVec 7)
  /-- R191: Complement of a predicate. -/
  | pnot (d a : BitVec 7)
  /-- R191: Writes per-lane prefix counts of a predicate. -/
  | vpcnt (d a : BitVec 7) (g : BitVec 2)
  /-- R192: Moves a vector operand between register levels. -/
  | movw (d a : BitVec 7) (g : BitVec 2)
  /-- R192: Broadcasts a signed 7-bit immediate. -/
  | movwi (d i : BitVec 7) (g : BitVec 2)
  /-- R194: Draws 16 counter-based random words and advances CTR. -/
  | vrng (d : BitVec 7) (g : BitVec 2)
  /-- R195: Sets the generator key and counter. -/
  | rngsetKey (a b : BitVec 7)
  /-- R195: Sets the generator counter. -/
  | rngsetCtr (b : BitVec 7)
  /-- R195: Advances the generator counter. -/
  | rngsetAdv (b : BitVec 7)
  /-- R67: B-class no-operation. -/
  | vnop (x : BitVec 23)
  /-- R211: Adds two bulbs, paired by tag. -/
  | qadd (d a b : BitVec 3)
  /-- R211: Subtracts two bulbs. -/
  | qsub (d a b : BitVec 3)
  /-- R211: Multiplies two bulbs. -/
  | qmul (d a b : BitVec 3)
  /-- R211: Maximum of two bulbs. -/
  | qmax (d a b : BitVec 3)
  /-- R211: Minimum of two bulbs. -/
  | qmin (d a b : BitVec 3)
  /-- R215: Scales each clove value by a lane value. -/
  | qscl (d a : BitVec 3) (v : BitVec 7)
  /-- R215: Negates each clove value. -/
  | qneg (d a : BitVec 3)
  /-- R215: Applies exp2, log2, tanh or relu to each clove value. -/
  | qmap (d a f : BitVec 3)
  /-- R208: Copies a bulb with its tag. -/
  | qmov (d a : BitVec 3)
  /-- R208: Extracts a clove's value or weight into a vector. -/
  | qpick (p a c : BitVec 3) (v : BitVec 7) (g : BitVec 2)
  /-- R207: Builds a bulb from vector registers with a fresh tag. -/
  | qmake (d n : BitVec 3) (v : BitVec 7)
  /-- R216: Writes a mean, variance or third moment of each lane. -/
  | qmom (a k : BitVec 3) (v : BitVec 7) (g : BitVec 2)
  /-- R217: Writes the quantile of each lane at a level. -/
  | qqnt (a : BitVec 3) (v : BitVec 7) (g : BitVec 2)
  /-- R218: Writes P(value <= x) for each lane. -/
  | qcdf (a : BitVec 3) (v : BitVec 7) (g : BitVec 2)
  /-- R40: A pending asynchronous cause is taken at a bundle boundary. -/
  | asyncTrapEntry (g : Nat)
  /-- R156: The commit unit makes a ready, unheld commit and numbers it. -/
  | commit (gc : Nat)
  /-- R143: Data of a local load arrives and is written to live and checkpoint registers. -/
  | loadDataArrival (g n : Nat)
  /-- R163: A waiting solo run starts once no other solo run is active. -/
  | soloRunStart (gc : Nat)
  /-- R163: A solo run ends after 16,384 ck. -/
  | soloRunTimeout (g : Nat)
  /-- R133: A barrier phase completes, dropping reader caches and clearing marks. -/
  | barrierPhaseComplete (level scope domain b : Nat)
  /-- R46: Taproot fences a failed cluster. -/
  | fence (gc why : Nat)
  /-- R254: The owner's port checks and serves a read request with stamps. -/
  | ownerReadRequest (gc id n : Nat) (peer : PeerAnswer)
  /-- R262: The answer to an LDG or SEQLD.A arrives, writing sd or raising a late cause. -/
  | remoteLoadAnswer (gc id : Nat)
  /-- R260: A reader-cache line's lease ends and it is no longer returned. -/
  | leaseExpiry (gc : Nat)
  /-- R229: A rows, scale bytes and metadata arrive in A staging, possibly faulting. -/
  | matrixAFetchDone (gc seq : Nat)
  /-- R227: A weight staging entry's read completes and its MWLDs complete. -/
  | mwldReadComplete (gc seq : Nat)
  /-- R237: A queued matrix command starts once its dependences hold. -/
  | matrixCommandStart (gc seq : Nat)
  /-- R238: The accumulator port takes the next started command by priority. -/
  | accPortServe (gc : Nat)
  /-- R232: An MZERO completes with its rows and token in one commit. -/
  | mzeroDone (gc : Nat)
  /-- R233: A drain or fill completes with its bytes and token in one commit. -/
  | mdrainDone (gc : Nat)
  /-- R234: An MWAIT completes when earlier commands of the slot have completed. -/
  | mwaitDone (gc seq : Nat)
  /-- R241: A started request enters the Onion and joins or opens a group. -/
  | onionEnter (gc : Nat)
  /-- R244: A group's due time is reached. -/
  | onionGroupDue (gc k : Nat)
  /-- R245: The engine starts loading a staging entry into the array. -/
  | arrayLoad (gc : Nat)
  /-- R245: A 16 ck array load completes. -/
  | arrayLoadDone (gc : Nat)
  /-- R245: The array issues the first ready due group as a pass. -/
  | passIssue (gc : Nat)
  /-- R246: A pass ends and each member completes by its own commit. -/
  | passEnd (gc : Nat)
  /-- R271: A copy writes its destination and token in one commit. -/
  | cpyComplete (gc id : Nat)
  /-- R272: All lines of a pull have arrived and it commits destination and token. -/
  | pullComplete (gc id : Nat)
  /-- R274: The answer to a consuming pull arrives and completes it. -/
  | pullcAnswer (gc id : Nat)
  /-- R275: A PULLD commits bytes, digest line and token. -/
  | pulldComplete (gc id : Nat)
  /-- R275: A verify-form PULLD compares its digest and completes. -/
  | pulldVerifyComplete (gc id : Nat)
  /-- R298: The owner's port checks a consuming pull, reads and decrements in one change commit. -/
  | ownerPullcServe (gc id : Nat) (peer : PeerAnswer)
  /-- R267: A watch placement or refresh arrives at the owner's port. -/
  | watchPlacementArrival (gc id : Nat)
  /-- R268: A watch answer reaches the watcher, cleaning the cache and committing the token. -/
  | watchAnswerArrival (gc id : Nat) (peer : Option (Nat × Nat))
  /-- R267: A WATCHT timeout passes and it completes with 0x42. -/
  | watchtExpiry (gc id : Nat)
  /-- R371: A pull unit resends each pending remote watch every 32 µs. -/
  | watchRefresh (gc id : Nat)
  /-- R371: A watch unacknowledged for 100 µs completes with 0x43. -/
  | watchUnackedTimeout (gc id : Nat)
  /-- R302: A live tile's lifetime passes and it is held or reclaimed. -/
  | tileLifetimeExpiry (gc k t : Nat)
  /-- R299: A consuming request table entry expires after 64 µs. -/
  | crtEntryExpiry (gc : Nat)
  /-- R324: An abandonment event message is delivered to its ring or dropped. -/
  | poolEventDelivery (gc : Nat)
  /-- R319: A send is checked at the owner's port and delivered or refused. -/
  | sendArrival (gc id : Nat) (peer : PeerAnswer)
  /-- R325: A foreign peer's write to a ring is delivered as KIND 4. -/
  | foreignRingWrite (h : PeerHeader) (payload : List Byte)
  /-- R367: A send waiting 64 µs for a missing earlier number is handled as if it were refused. -/
  | sendOrderTimeout (chip slot header : Nat)
  /-- R319: A send's answer returns and the sender's token commits. -/
  | sendAnswerArrival (gc id : Nat)
  /-- R336: A submission reaches the task engine and is checked and entered. -/
  | submissionArrival (gc id : Nat)
  /-- R339: A cancel reaches the task engine and acts on matching slices. -/
  | cancelArrival (gc id : Nat)
  /-- R338: A timer wheel tick releases entries whose time has come. -/
  | timerTick (d : Nat)
  /-- R341: A passed deadline ends queued or timed DROP entries. -/
  | deadlineDrop (d : Nat)
  /-- R341: The task engine's per-ck dispatch decision assigns an entry to a slot. -/
  | dispatch (d : Nat)
  /-- R343: After the footprint pulls the slice's first region opens at ENTRY. -/
  | sliceStart (g : Nat)
  /-- R340: An abort request is delivered to a dispatching or running slice. -/
  | abortRequestDelivery (d : Nat)
  /-- R345: An abort takes effect at the slice's next region boundary. -/
  | sliceAbort (g : Nat)
  /-- R347: A slice's budget reaches 0 and it is requeued or failed. -/
  | budgetExhausted (g : Nat)
  /-- R349: The engine requests pre-emption of a lower-level slice. -/
  | preemptRequest (d : Nat)
  /-- R349: A slice not leaving 32,768 ck after a request is ended. -/
  | preemptTimeout (g : Nat)
  /-- R348: A slice leaves its slot once its outstanding work has completed. -/
  | sliceLeave (g : Nat)
  /-- R364: A port trains and agrees link keys with the switch. -/
  | linkTraining (k lanes : Nat)
  /-- R364: A new key is agreed before the flit counter reaches 2^48. -/
  | linkRekey (k : Nat)
  /-- R364: A flit fails authentication and is dropped and counted. -/
  | flitTagFail (k : Nat) (again : Bool)
  /-- R353: A port that loses a lane goes down as a whole. -/
  | portLaneLoss (k : Nat)
  /-- R357: A part of an Oxgor command arrives; the command acts when complete. -/
  | commandPartArrival (h : PeerHeader) (part count : Nat) (c : PeerCommand)
  /-- R357: An incomplete command is discarded 12 µs after its first part. -/
  | commandReassemblyTimeout (chip rid : Nat)
  /-- R362: A request from a peer is served or refused with an error response. -/
  | peerRequestArrival (h : PeerHeader) (q : PeerRequest)
  /-- R369: An unanswered request is resent after 12 µs. -/
  | requestRetry (n : Nat)
  /-- R369: A request unanswered 60 µs after its first send completes with a timeout. -/
  | requestTimeout (n : Nat)
  /-- R372: The switch plane reports a peer down and it is declared failed. -/
  | peerEndpointDown (chip : Nat)
  /-- R372: A peer silent for 100 µs with requests outstanding is declared failed. -/
  | peerSilenceTimeout (chip : Nat)
  /-- R360: A revoked key entry is freed 64 µs after revocation. -/
  | keyEntryFree (gc : Nat)
  /-- R409: Taproot answers a nonce with a signed attestation report. -/
  | attestationRequest (h : PeerHeader) (nonce : List Byte)
  /-- R376: A partner's report arrives and decides a CKREG. -/
  | attestationReportArrival (chip feed : Nat)
  /-- R376: No report within 100 µs completes a CKREG with 0x43. -/
  | attestationTimeout (chip : Nat)
  /-- R363: The task engine writes a refusal record to the violation log. -/
  | violationRecord (d : Nat)
  /-- R387: A page-table walk completes, filling caches or faulting. -/
  | translationWalkDone (g : Nat)
  /-- R393: A PLBINV or XLINV drop completes everywhere and its token commits. -/
  | invalidateComplete (gc id : Nat)
  /-- R386: A host write of SQTAIL announces submission entries. -/
  | sqDoorbell (tail : Word)
  /-- R386: The host port takes an entry when the completion ring has room. -/
  | hostSubmissionTake (entry : List Word)
  /-- R386: The host frees completions, an overrunning write being ignored. -/
  | cqheadWrite (head : Word)
  /-- R399: A KICK write moves a host region slot from host to kicked. -/
  | regionKick (n : Nat) (v : Word)
  /-- R400: A take waiting 1 ms for a kick completes with 0x42. -/
  | hovrKickTimeout (gc id : Nat)
  /-- R400: A give completes once write-through, busy ranges and table entries are done. -/
  | hovrGiveDrainDone (gc id : Nat)
  /-- R401: A PRI page response resumes or fails a stalled access. -/
  | hostPageResponse (pasid page : Nat) (present : Bool)
  /-- R401: A page request unanswered after 100 µs fails the access. -/
  | hostPageTimeout (pasid page : Nat)
  /-- R384: The host invalidates cached host translations. -/
  | atsInvalidation (pasid first count : Nat)
  /-- R385: A host write to a BAR0 register without its own row. -/
  | barRegisterWrite (off : Nat) (v : Word)
  /-- R406: Writes a task queue descriptor. -/
  | mbQueueDescriptor
  /-- R406: Writes a peer-table entry after attestation. -/
  | mbPeerEntry (check : Option (Option Nat))
  /-- R406: Sets the page-table root and drops all translations. -/
  | mbPageTableRoot
  /-- R406: Places a die's violation log. -/
  | mbViolationLogPlace
  /-- R406: Sets the domain and privilege of host submissions. -/
  | mbHostSubmissionDomain
  /-- R406: Resets a slot halted by a double trap. -/
  | mbResetHaltedSlot
  /-- R406: Asks Taproot to fence a cluster. -/
  | mbFenceCluster
  /-- R406: Clears a peer's failure mark after re-attestation. -/
  | mbClearPeerFailure (check : Option (Option Nat))
  /-- R406: Has Taproot write an attestation report to MBREP. -/
  | mbAttestationReport
  /-- R406: An unknown mailbox OP ends with RES 0x02. -/
  | mbUnknownOp
  /-- R405: Husk finishes a request, sets MBSTAT and raises MSI-X vector 2. -/
  | mbRequestDone
  /-- R411: A MODEREQ write requests a clock mode change. -/
  | modeClkRequest (v : Word)
  /-- R411: A MODEREQ write switches cross-domain stacking. -/
  | modeXstkRequest (v : Word)
  /-- R411: A MODEREQ write switches the reader-cache lease. -/
  | modeLeaseRequest (v : Word)
  /-- R411: A MODEREQ write sets the advisory region-limit bit. -/
  | modeRlimRequest (v : Word)
  /-- R411: One die stops, changes voltage and restarts in a new mode. -/
  | dieClockSwitch (d stop : Nat)
  /-- R408: Module reset starts bring-up. -/
  | moduleReset
  /-- R408: A bring-up state's work completes and the next state starts. -/
  | bringupState (w : BootWork)
  /-- R414: Package power is measured every 10 µs and a die may step. -/
  | powerSample (power top : Nat)
  /-- R414: A droop detector stretches a die's clock. -/
  | droopTrip (d stretch : Nat)
  /-- R414: A die at 105 °C is held at Kale. -/
  | thermalHold (d temp : Nat)
  /-- R414: A held die below 95 °C is released. -/
  | thermalRelease (d temp : Nat)
  /-- R414: A die at 115 °C stops the module. -/
  | thermalTrip (d temp : Nat)
  /-- R416: Taproot re-plans margins after 1,000 powered hours. -/
  | marginReplan (slack : List (List (List Int)))
  /-- R412: Husk disciplines pod time from an IEEE 1588 exchange. -/
  | podTimeDiscipline (rate : Int) (ahead : Nat)
  /-- R419: An ECC soft error is corrected and counted. -/
  | softErrorCorrected (gc : Nat) (hbm : Bool)
  /-- R419: An uncorrectable error in slot registers raises 0x3C0. -/
  | registerUncorrectable (g kind : Nat)
  /-- R372: The switch plane reports a failed peer's endpoint up again. -/
  | peerEndpointUp (chip : Nat)
  /-- R371: The owner's acknowledgement of a watch placement or refresh reaches the watcher's pull unit. -/
  | watchAcknowledgementArrival (gc id : Nat)
  /-- R401: The host reports that alias-line bytes of a proxy commit have reached host memory, completing that commit. -/
  | hostWriteThroughDone (n : Nat)
  /-- R151: An engine has read a registered busy range into its staging and releases it, for example a SENDV payload or a CPY source. -/
  | engineRangeRelease (gc engine op : Nat)
  /-- R336: The answer of another die's task engine returns, and the SUBMIT, SUBAT or CANCEL token commits in the submitter's cluster. -/
  | submissionAnswerArrival (gc id : Nat)
  deriving DecidableEq, Repr

end Sys2Proof
end

