-- ==== Sys2Proof/Machine/State.lean ====
section
/-!
DEFINITION. The state of the module as plain data: every piece of state that INVENTORY.md lists, the outcomes' reasons,
and the state after module reset.
-/

namespace Sys2Proof.Machine

/-! ## Registers of a slot -/

/-- The registers of a slot that a region's discard puts back (spec/02_encoding.md R61, spec/05_commit.md R143). STATUS
is one word; R143 keeps four of its fields over a discard. -/
structure Regs where
  /-- s0-s31; s0 reads 0 (R61). -/
  s : Vector Word 32
  /-- v0-v63, the main vector file. -/
  v : Vector Vec 64
  /-- w0-w7, the operand file. -/
  w : Vector Vec 8
  /-- The latch (R57). -/
  lx : Vec
  /-- p0-p7; p0 reads all-true. -/
  p : Vector (BitVec 16) 8
  /-- q0-q7, the bulbs. -/
  q : Vector Bulb 8
  /-- The pending marks of token registers: TOKPEND (spec/01_engines.md R28). -/
  pend : Word
  status : Word
  cause : Word
  epc : Word
  tval : Word
  tvec : Word
  hwin : Word
  bscale : Word
  qtagc : Word
  rngkey : Word
  rngctr : Word
  barm : Word
  deriving DecidableEq, Repr

/-! ## Pages (spec/14_host.md R387, R388) -/

/-- A page as its leaf entry translates it: its first pod address and size, its remote key, whether it is discarded, the
owner chip, the offset from the key's base in bytes, the coherence domain, the owning protection domain and the rights
of it and of the others. -/
structure Page where
  base : Nat
  size : Nat
  key : Nat
  disc : Bool
  chip : Nat
  off : Nat
  cdom : Nat
  domain : Nat
  own : Nat
  other : Nat
  deriving DecidableEq, Repr

/-! ## Regions and deferred effects -/

/-- A matrix instruction as it was launched (spec/08_matrix.md R224). -/
inductive MatOp where
  /-- MWLD with the format 0 bf16, 1 e4m3, 2 e5m2, 3 b4, 4 b4s. -/
  | mwld (fmt : Nat)
  /-- MMA or MMAS with the type 0 bf16, 1 e4m3, 2 e5m2, 3 b4. -/
  | mma (sparse : Bool) (ty : Nat)
  | mzero (claim : Bool)
  | mdrain (bf16 release zero fill : Bool)
  | mwait
  deriving DecidableEq, Repr

/-- The operations of the pull unit (spec/09_pull.md R255), with what each holds beside its rows. -/
inductive PullKind where
  | cpy
  | pull (acq : Bool)
  /-- A consuming pull with its expected generation. -/
  | pullc (gen : Nat)
  /-- A digesting pull with the flat address of its digest line. -/
  | pulld (acq : Bool) (dig : Nat)
  /-- The verify form of PULLD: the flat address of the digest line. -/
  | verify (dig : Nat)
  /-- The TAKE of a migration (spec/14_host.md R396). -/
  | take
  /-- A footprint range of a slice, and its refresh by FPIN (spec/12_tasks.md R343, R344). -/
  | footprint (acq : Bool) (range : Nat)
  | refresh (acq : Bool) (range : Nat)
  deriving DecidableEq, Repr

/-- A send as its launch bundle forms it (spec/11_messages.md R318): the header's pod address and page, the generation,
the words of a SEND, or the flat address and length of the payload of a SENDV. -/
structure Message where
  header : Nat
  page : Page
  gen : Nat
  vector : Bool
  words : List Byte
  src : Nat
  len : Nat
  deriving DecidableEq, Repr

/-- A deferred effect of a region, with the operands its bundle read (spec/05_commit.md R148). `st` is the token
register of a launch, 0 for none. -/
inductive Effect where
  /-- A matrix launch: operand addresses a and b, descriptor, stride or scale-plane register value c. -/
  | mat (op : MatOp) (st : Nat) (a b c : Word)
  /-- A pull-unit operation: first byte of each source row (pod address; flat address for CPY and verify) and of each
  destination row (flat address), bytes of a row, and the pages of the source. -/
  | pull (kind : PullKind) (st : Nat) (src dst : List Nat) (len : Nat) (pages : List Page)
  /-- A watch: the word's pod address and page, the threshold, and for WATCHT the timeout in ck. -/
  | watch (st : Nat) (addr : Nat) (page : Page) (thr : Word) (timeout : Option Nat)
  | wcancel (st : Nat)
  /-- Sequence advance of the word at a flat address (R264). -/
  | seqadv (addr : Nat) (value : Word)
  /-- A consuming decrement of a tile, and the giving up of n reads: partition, tile, configuration number of the
  partition (spec/10_pool.md R296, R301). -/
  | consume (k tile cfg : Nat)
  | giveUp (k tile cfg n : Nat)
  /-- A partition change with its descriptor (R287). -/
  | tpart (k : Nat) (q0 q1 q2 q3 : Word)
  /-- Ring changes: ring, header address, LOGN, FOREIGN, generation (spec/11_messages.md R315, R316). -/
  | ropen (k : Nat) (header : Word) (logn : Nat) (foreign : Bool) (gen : Nat)
  | rclose (k : Nat)
  | send (st : Nat) (m : Message)
  /-- Submissions (spec/12_tasks.md R336): queue target, flat address of the record, release time of SUBAT. -/
  | submit (st target addr : Nat) (time : Option Nat)
  | cancel (st target sid : Nat)
  | fpin (st range : Nat) (refresh : Bool)
  /-- Key and partner changes (spec/13_fabric.md R358, R360, R375). -/
  | rkreg (key base len flags : Nat)
  | rkrev (key : Nat)
  | ckreg (st chip : Nat) (override : Bool)
  | ckdel (st chip : Nat)
  /-- Translation requests (spec/14_host.md R392-R400). -/
  | hovr (st : Nat) (give : Bool) (n proxy offset : Nat) (addr : Nat)
  | invalidate (st : Nat) (all : Bool) (addr len : Nat)
  /-- SEAL, DISCARD and RECLAIM: OP, flat address, length. -/
  | migr (st op addr len : Nat)
  /-- Barrier arrival with its COUNT (spec/04_control.md R130). -/
  | arrive (b : Nat) (count : Nat)
  /-- Trace control write (R166). -/
  | trace (mask value : Word)
  deriving DecidableEq, Repr

/-- What a region has reserved: tiles as partition, tile, configuration number of the partition and the region's bundle that
took it, by which a gang's allocations are ordered (spec/10_pool.md R292); rings as ring number, header address and LOGN
(spec/11_messages.md R315); keys with flat base, length and flags (spec/13_fabric.md R358). In the order of their making. -/
structure Reserved where
  tiles : List (Nat × Nat × Nat × Nat)
  rings : List (Nat × Word × Nat)
  keys : List (Nat × Nat × Nat × Nat)
  deriving DecidableEq, Repr

/-- The open region of a slot (R142-R157). -/
structure Region where
  /-- Its number among the regions the slot has opened. -/
  no : Nat
  /-- Address of its first bundle. -/
  first : Word
  /-- Opened by RGN.A. -/
  atomic : Bool
  /-- Opened by a commit (R40). -/
  byCommit : Bool
  /-- Bundles executed (R50). -/
  bundles : Nat
  /-- The buffered bytes by flat place; places of the trap scratch lie above the owner memory. -/
  stores : FMap Byte
  /-- The deferred effects in order (R10). -/
  effects : List Effect
  /-- The read signature (R155). -/
  rsig : BitVec 1024
  /-- The write signature. -/
  wsig : BitVec 1024
  /-- The register checkpoint (R143). -/
  ckpt : Regs
  /-- Memory as it stood when the region opened, which its fetches observe (spec/02_encoding.md R51). -/
  code : List Host.Cell
  res : Reserved
  /-- The reservations kept by a reinstated parked region that its replay has not taken yet
  (spec/14_host.md R395). -/
  kept : Reserved
  deriving DecidableEq, Repr

/-- RGNST's fields that are state of their own (R144); A and SOLO are read from the open region. -/
structure RgnStat where
  conf : Nat
  last : Nat
  acode : Byte
  ea : Bool
  fc : Bool
  ic : Bool
  deriving DecidableEq, Repr

/-- Where the data of a load go. -/
inductive LoadDest where
  | sreg (n : Nat)
  | vreg (n : Nat) (mask : BitVec 16)
  | bulb (n : Nat)
  deriving DecidableEq, Repr

/-- A load in flight: its destination, the data of a local load, and the region that issued it (R143). -/
structure Load where
  dest : LoadDest
  word : Word
  vec : Vec
  bulb : Bulb
  region : Nat
  /-- For LDG and SEQLD.A the number of the fetch that it waits for (spec/09_pull.md R259); none for a local load. -/
  fetch : Option Nat
  /-- The address A of a remote load, and its bundle. -/
  addr : Nat
  pc : Word
  deriving DecidableEq, Repr

/-- What a region's end is followed by, once its commit has been made (spec/04_control.md R138, spec/05_commit.md R147). -/
inductive After where
  /-- RGN and RGN.A: a region of the kind opens at the next bundle. -/
  | next (atomic : Bool)
  /-- An implicit or forced commit: an ordinary region opens at this bundle. LAST takes the code. -/
  | reopen (last : Nat)
  /-- The forced commit of TALLOC, after which the slot joins the waiters of the partition, with the number of free tiles that its
  gang found before it (spec/10_pool.md R291). -/
  | talloc (k free : Nat)
  /-- The forced commit of RECV, after which the slot waits for a commit that writes the word at a flat address
  (spec/11_messages.md R323). -/
  | recv (h : Nat)
  /-- GANG: the slot waits at its GANG bundle for the members (R121). -/
  | gang (n : Nat)
  /-- SPLIT (R125). -/
  | split
  /-- BARW: an ordinary region opens at the next bundle, whose first bundle R127 holds. -/
  | barw
  /-- TRAP: the slot takes the cause (R136). -/
  | trap (code : Nat) (tval : Word)
  /-- ERET (R137). -/
  | eret
  /-- RETIRE, YIELD and SLEEPT: the slot waits until it can leave (spec/12_tasks.md R348). -/
  | retire
  | yield (entry arg0 : Word)
  | sleep (entry : Word) (time : Nat)
  deriving DecidableEq, Repr

/-- How a slice leaves its slot (R347, R348, R345, R349, R350). -/
inductive Leave where
  | retire
  | yield (entry arg0 : Word)
  | sleep (entry : Word) (time : Nat)
  | budget
  | failed (reason : Nat) (state code : Nat)
  deriving DecidableEq, Repr

/-- What a slot waits for beyond the scoreboard (R12). -/
inductive Wait where
  /-- The commit of its region, with the next pc and the ck at which it was requested; then the rest. -/
  | commit (after : After) (next : Word) (since : Nat)
  /-- The other members of its gang, with the pc behind GANG. -/
  | gang (n : Nat) (next : Word)
  /-- Leaving its slot. -/
  | leave (how : Leave)
  deriving DecidableEq, Repr

/-- A record of a violation log (spec/13_fabric.md R363). -/
structure Violation where
  kind : Nat
  reason : Nat
  chip : Nat
  who : Nat
  key : Nat
  addr : Nat
  deriving DecidableEq, Repr

/-! ## Bundles -/

/-- Why a bundle cannot complete now. -/
inductive Stall where
  /-- It waits by R12; `other` says that only another agent can end the wait (R163, case 3). -/
  | wait (other : Bool)
  /-- It forces a commit of its region first (R28, R132, R291, R323). -/
  | force (a : After)
  /-- It waits for the walk of a page (spec/14_host.md R390), or for the host page of a byte (R401). -/
  | walk (addr kind : Nat)
  | hostPage (pasid page : Nat) (addr : Word)
  deriving DecidableEq, Repr

/-- The bundle that a slot executes. There is one only inside a step. -/
structure Bundle where
  /-- The registers as they stood before the bundle, which both words read (R49). -/
  src : Regs
  /-- The loads that were in flight before the bundle. -/
  loads : List Load
  /-- The bundle's address and the address after it. -/
  pc : Word
  next : Word
  /-- The first cause a word raised, with its TVAL. -/
  raised : Option (Nat × Word)
  stall : Option Stall
  /-- The target of a control transfer. -/
  target : Option Word
  /-- What a word does with the region. -/
  ends : Option After
  /-- The code of an ABORT. -/
  abort : Option Byte
  /-- Main-file registers read (R60). -/
  reads : List Nat
  /-- Further ck the bundle takes (R171). -/
  extra : Nat
  /-- The refusals that the bundle logs even when it raises a cause (spec/01_engines.md R19). -/
  logs : List Violation
  deriving DecidableEq, Repr

/-! ## Slices and slots -/

/-- A queue entry with every field expanded, and what the task engine keeps of the slice (spec/12_tasks.md R331). -/
structure Slice where
  /-- Its number among the entries the module has accepted; the lower is the older. -/
  id : Nat
  sid : BitVec 16
  /-- Queue target: die * 64 + queue. -/
  target : Nat
  entry : Word
  args : Vector Word 8
  /-- Absolute deadline in us, 0 for none. -/
  deadline : Nat
  /-- Cycle budget, 0 for none. -/
  budget : Word
  fp : Vector (Vector Word 4) 4
  place : Word
  prio : Nat
  domain : BitVec 16
  flags : Word
  attempt : Nat
  /-- Budget left in ck at `since`, and the ck from which it counts; it does not count before the slice's first bundle
  nor for a gang's followers (R346). -/
  left : Nat
  since : Option Nat
  /-- The last slot it was dispatched to (R350). -/
  last : Option Nat
  /-- The pinned footprint ranges: range, flat address, bytes (R344). -/
  pins : List (Nat × Nat × Nat)
  /-- The ranges whose footprint pull has not completed (R343). -/
  pulling : List Nat
  deriving DecidableEq, Repr

/-- A walk that a slot waits for (spec/14_host.md R387, R390, R394): the pod address, the kind of access, and once the walk
has failed whether the entry was malformed. -/
structure Walk where
  addr : Nat
  kind : Nat
  failed : Option Bool
  deriving DecidableEq, Repr

/-- A slot (spec/04_control.md R103). -/
structure Slot where
  live : Regs
  pc : Word
  region : Region
  /-- The parked region, of which the store buffer, the signatures and the reservations are kept
  (spec/14_host.md R395). -/
  parked : Option Region
  stat : RgnStat
  /-- The open region runs in solo mode since this ck (R163). -/
  solo : Option Nat
  /-- The ck at which a solo run became eligible, while it waits to start. -/
  soloWait : Option Nat
  xpc : Word
  /-- PLBCFG: DOMAIN, UPEN, PARKED (spec/14_host.md R391). -/
  plbcfg : Word
  /-- The halves captured by reads of CYCLE and PTIMEL (R109, R337). -/
  cycleH : Word
  ptimeH : Word
  /-- Outstanding barrier arrivals (R130). -/
  arrivals : List Nat
  /-- Pending asynchronous causes with their TVAL (R43). -/
  async : List (Nat × Word)
  /-- Failures of remote loads waiting for a bundle boundary: cause, TVAL, bundle, region (spec/09_pull.md R262). -/
  fails : List (Nat × Word × Word × Nat)
  /-- The walk that the slot waits for, or that has failed (spec/14_host.md R390). -/
  walk : Option Walk
  /-- The translations that the stalled bundle has obtained (R390). -/
  pages : List Page
  /-- The host page whose bytes the slot waits for: address space and page, local address, bundle (R401). -/
  hostWait : Option (Nat × Nat × Word × Word)
  loads : List Load
  wait : Option Wait
  halted : Bool
  /-- The tile granted to the slot while it waits in TALLOC, as partition and tile (spec/10_pool.md R293). -/
  grant : Option (Nat × Nat)
  /-- The slice on the slot; none on an idle slot. -/
  slice : Option Slice
  /-- The slice's footprint pulls are in flight: it is dispatching (R330). -/
  dispatching : Bool
  /-- The STATE and cause code of a footprint pull that failed (R343, R350). -/
  footFail : Option (Nat × Nat)
  /-- The number of the slice that the slot is held for (R348). -/
  heldFor : Option Nat
  /-- An abort request waits for the next region boundary (R345). -/
  abort : Bool
  /-- The ck of a pre-emption request that has not been answered (R349). -/
  preempt : Option Nat
  /-- The trap scratch and the number of dispatches of the slot (R118). -/
  scratch : FMap Byte
  epoch : Nat
  deriving DecidableEq, Repr

/-! ## The matrix engine (spec/08_matrix.md) -/

/-- What a matrix command has fetched at enqueue (R229, R233). -/
inductive Fetch where
  /-- Nothing to fetch. -/
  | none
  /-- On its way. -/
  | pending
  /-- In staging: the rows, the scale bytes of each row and the metadata. -/
  | done (rows scales : List (List Byte)) (mdata : List Byte)
  /-- A byte lies in another domain's partition: its lowest address. -/
  | fault (addr : Word)
  /-- An uncorrectable data error at the address. -/
  | error (addr : Word)
  deriving DecidableEq, Repr

/-- How far a matrix command has come. -/
inductive MatStage where
  | queued
  | started
  /-- An MWLD that waits for the read of a staging entry, by the number of the MWLD that reads it (R227). -/
  | reading (by_ : Nat)
  | onion
  /-- Its work has ended and its completion commit is to come: STATE, and the asynchronous cause with its TVAL. -/
  | ended (state : Nat) (cause : Option (Nat × Nat))
  deriving DecidableEq, Repr

/-- A command that the matrix engine holds, from its launch commit to its completion (R236). -/
structure MatCmd where
  /-- The launch order of the engine's commands. -/
  seq : Nat
  /-- Global number of the launching slot, and the number of its slice. -/
  slot : Nat
  st : Nat
  op : MatOp
  a : Word
  b : Word
  c : Word
  /-- Priority level and protection domain at the launch commit (R238, R221). -/
  level : Nat
  domain : BitVec 16
  fetch : Fetch
  stage : MatStage
  /-- The staging entry an MMA is bound to. -/
  entry : Option Nat
  deriving DecidableEq, Repr

/-- A weight staging entry (R222): its tile's address, format, scale-plane address, and once read its bytes. It is known by
the number of the MWLD that opened it; a slot's binding and the requests bound under it name one entry, so there are at
most 32. -/
structure Staging where
  addr : Word
  fmt : Nat
  plane : Word
  clean : Bool
  /-- The tile's bytes and the plane's bytes, once the read is complete. -/
  data : Option (List Byte × List Byte)
  deriving DecidableEq, Repr

/-- A member of an Onion group: its command, entry time and hold budget (R241, R243). -/
structure Member where
  seq : Nat
  entered : Nat
  hold : Nat
  deriving DecidableEq, Repr

/-- An Onion group that has not issued (R242); members in the order they joined. -/
structure Group where
  members : List Member
  due : Bool
  deriving DecidableEq, Repr

/-- The operation the array is busy with (R245). -/
inductive ArrayOp where
  | load (entry : Nat)
  | pass (members : List Nat)
  deriving DecidableEq, Repr

/-- A port of the engine: the command it serves, the core served last and the commands granted in that core's turn (R238). -/
structure MatPort where
  cmd : Option Nat
  core : Nat
  granted : Nat
  deriving DecidableEq, Repr

/-- One accumulator tile: 64 rows of 64 FP32 elements. -/
abbrev AccTile := Vector (Vector Word 64) 64

/-- The matrix engine of a compute cluster (R220). -/
structure Matrix where
  acc : FMap AccTile
  /-- Owner of an accumulator: global slot and domain; free when absent (R221). -/
  owner : FMap (Nat × BitVec 16)
  staging : FMap Staging
  /-- The weight binding of a global slot (R222). -/
  bind : FMap Nat
  /-- Commands in launch order. -/
  cmds : List MatCmd
  nextSeq : Nat
  groups : List Group
  latched : Option Nat
  array : Option ArrayOp
  /-- The accumulator port and the weight read port. -/
  port : MatPort
  weights : MatPort
  deriving DecidableEq, Repr

/-! ## Cores, clusters, dies and the module -/

/-- A ring of a core's ring table (spec/11_messages.md R310). -/
structure Ring where
  isOpen : Bool
  gen : Nat
  /-- The slot of the core that opened the ring. -/
  slot : Nat
  domain : Nat
  /-- Header address, log2 of the entries, and whether foreign senders are taken. -/
  header : Word
  logn : Nat
  foreign : Bool
  /-- The cluster's count of opens at its open, so that the latest holder of a header is known (R319). -/
  no : Nat
  deriving DecidableEq, Repr

/-- An entry of a protection lookaside buffer: a domain, a page and its rights (spec/14_host.md R390). -/
structure PlbEntry where
  domain : Nat
  page : Nat
  size : Nat
  rights : Nat
  deriving DecidableEq, Repr

/-- A core: its subpage ranges, its protection lookaside buffer and its rings. -/
structure Core where
  psz : Vector Word 8
  plb : List PlbEntry
  rings : FMap Ring
  deriving DecidableEq, Repr

/-- A registered busy range of whole lines, with the operation that holds it (spec/05_commit.md R150). -/
structure BusyRange where
  /-- First line and number of lines, as flat line numbers. -/
  line : Nat
  lines : Nat
  /-- The engine (R165's ENGINE code) and the operation's number in it. -/
  engine : Nat
  op : Nat
  deriving DecidableEq, Repr

/-- The states of a tile (spec/10_pool.md R288). -/
inductive TileState where
  | free
  | provisional
  | live
  | held
  | quarantined
  deriving DecidableEq, Repr

/-- A tile (R288): its state, generation, read count, lifetime in ck and the ck at which the lifetime passes. -/
structure Tile where
  state : TileState
  gen : Nat
  count : Nat
  life : Nat
  expiry : Option Nat
  deriving DecidableEq, Repr

/-- A slot blocked in TALLOC: since when, at which level (R293). -/
structure Waiter where
  slot : Nat
  since : Nat
  level : Nat
  deriving DecidableEq, Repr

/-- An enabled partition of a tile pool (R286, R305); a tile that is not listed is free, at generation GEN0. -/
structure Partition where
  base : Nat
  szlog : Nat
  count : Nat
  domain : Nat
  pol : Bool
  conf : Bool
  evring : Word
  free : List Nat
  waiters : List Waiter
  tiles : FMap Tile
  gen0 : Nat
  aband : Nat
  lost : Nat
  /-- The number of its configuration, so that a give-back knows a later TPART (R292). -/
  cfg : Nat
  deriving DecidableEq, Repr

/-- A range of the seal table (spec/14_host.md R396): flat address, length, sealed or discarded. -/
structure Seal where
  addr : Nat
  len : Nat
  discarded : Bool
  deriving DecidableEq, Repr

/-- The answer to a request: the bytes with their stamp and whether some were discarded, or the STATE that the request
failed with (spec/09_pull.md R254, R262, R278). -/
inductive Answer where
  | line (data : List Byte) (stamp : Nat) (disc : Bool)
  | fail (state : Nat)
  deriving DecidableEq, Repr

/-- A line of the reader cache (R260): its pod address, its owner's chip and cluster, its stamp, the ck at which its lease
ends, its bytes. -/
structure CacheLine where
  addr : Nat
  chip : Nat
  owner : Nat
  stamp : Nat
  till : Nat
  data : List Byte
  deriving DecidableEq, Repr

/-- A line that LDG or SEQLD.A fetches from its owner (R259, R266), and the ck at which its lease ends, as the request's
issue fixes it (R260). `keep`: no barrier and no
invalidation has dropped the line since, so that it may enter the cache and serve later misses. `floor`: the greatest
stamp at which the cluster has acquired the line's owner since (R261). -/
structure LineFetch where
  id : Nat
  addr : Nat
  page : Page
  acq : Bool
  keep : Bool
  floor : Nat
  slot : Nat
  till : Nat
  answer : Option Answer
  deriving DecidableEq, Repr

/-- An operation of the pull unit from its launch commit to its completion (R253, R271-R276). The source lines that have
been answered are listed by pod line number; `bytes` are those a CPY or verify has read into staging. -/
structure PullOp where
  id : Nat
  slot : Nat
  st : Nat
  kind : PullKind
  src : List Nat
  dst : List Nat
  len : Nat
  pages : List Page
  domain : Nat
  /-- The number of the slice whose operation it is (R270). -/
  slice : Nat
  lines : FMap Answer
  bytes : Option (List Byte)
  deriving DecidableEq, Repr

/-- A watch from its launch commit to its completion (R267-R270). `cancel`: the ck of the WCANCEL that withdraws it. -/
structure Watch where
  id : Nat
  slot : Nat
  st : Nat
  slice : Nat
  addr : Nat
  page : Page
  thr : Word
  /-- The ck at which a WATCHT expires; `once` for a timeout of 0. -/
  expiry : Option Nat
  once : Bool
  /-- The placement has reached the owner. -/
  placed : Bool
  /-- The answer on its way: STATE and stamp. -/
  answer : Option (Nat × Nat)
  /-- The answer that the pull unit holds while the slice is away from its slot. -/
  heldAnswer : Option (Nat × Nat)
  cancel : Option Nat
  /-- The times of the latest placement sent and of the latest acknowledgement, or of the first send (spec/13_fabric.md
  R371). -/
  sent : Nat
  acked : Nat
  deriving DecidableEq, Repr

/-- An entry of an owner's port watch table (R267): the watching chip, cluster and watch, the word, the threshold and the
key it was placed under. `hit`: the STATE and the stamp of the answer of a word of an alias, which waits until the commit of that
stamp has reached host memory (spec/14_host.md R401). -/
structure WatchEntry where
  chip : Nat
  gc : Nat
  id : Nat
  addr : Nat
  thr : Word
  key : Nat
  hit : Option (Nat × Nat)
  deriving DecidableEq, Repr

/-- An entry of a consuming request table (spec/10_pool.md R299, spec/11_messages.md R320): the requester and its request
identifier, the tile with its partition and its generation when served, the byte range, the outcome and the time. -/
structure Served where
  chip : Nat
  gc : Nat
  rid : Nat
  tile : Option (Nat × Nat × Nat)
  addr : Nat
  len : Nat
  outcome : Nat
  time : Nat
  deriving DecidableEq, Repr

/-- An entry of a remote key table (spec/13_fabric.md R358-R360): the key, its range by flat address, its flags, its
domain, and the time of its revocation. -/
structure KeyEntry where
  key : Nat
  base : Nat
  len : Nat
  flags : Nat
  domain : Nat
  revoked : Option Nat
  deriving DecidableEq, Repr

/-- A send from its launch commit to its token (spec/11_messages.md R318-R322), with its number among the slot's sends to
the ring (spec/13_fabric.md R367), the payload once it is in staging, and the STATE of its answer. -/
structure SendRec where
  id : Nat
  slot : Nat
  st : Nat
  slice : Nat
  msg : Message
  num : Nat
  payload : Option (List Byte)
  answer : Option Nat
  deriving DecidableEq, Repr

/-- A submission or a cancel on its way to a task engine, and the STATE of its answer (spec/12_tasks.md R336, R339). -/
structure SubRec where
  id : Nat
  slot : Nat
  st : Nat
  target : Nat
  /-- The words of the record; a cancel has its SID instead. -/
  words : List Word
  sid : Option Nat
  time : Option Nat
  domain : Nat
  rt : Bool
  answer : Option Nat
  deriving DecidableEq, Repr

/-- What the translation engine and the host port work on for a token (spec/14_host.md R393, R400). -/
inductive XlatOp where
  /-- Dropping of the PLB entries of a range, and with `all` of its translations and lines. -/
  | invalidate (all : Bool) (addr len : Nat)
  /-- A take that waits for a kick: region slot, proxy, alias offset, pod address, since when. -/
  | take (n proxy offset addr since : Nat)
  /-- A give that drains. -/
  | give (n proxy addr : Nat)
  deriving DecidableEq, Repr

/-- A translation request from its launch commit to its token. -/
structure XlatRec where
  id : Nat
  slot : Nat
  st : Nat
  op : XlatOp
  deriving DecidableEq, Repr

/-- A request that waits at an owner's port for its consuming request table or for its commit (spec/10_pool.md R299,
spec/11_messages.md R319): a consuming pull or a send of a cluster of the module by its number, a consuming pull of a peer,
the next of the ordered sends of a peer's slot to a ring (spec/13_fabric.md R367), a ring write of a foreign peer (R325). -/
inductive PortItem where
  | pullc (gc id : Nat)
  | send (gc id : Nat)
  | peerPullc (h : PeerHeader) (gc gen len : Nat)
  | order (chip slot header : Nat)
  | ringWrite (h : PeerHeader) (payload : List Byte)
  deriving DecidableEq, Repr

/-- What a request for a commit is for (spec/05_commit.md R156). A token's commit is made wherever requests are made; the commit of
any other work is made by the work's own step, once its turn has come. -/
inductive Work where
  /-- A token, and the withdrawal of a watch by its number (spec/09_pull.md R269). -/
  | token
  | cancel (id : Nat)
  /-- The command on the accumulator port and an MWAIT, by number (spec/08_matrix.md R232-R234). -/
  | port (seq : Nat)
  | mwait (seq : Nat)
  /-- An operation of the pull unit, with the bytes that it writes (spec/09_pull.md R276). -/
  | op (id : Nat)
  /-- The lifetime of a tile: partition, tile, and the ck at which it passes; the oldest entry of the consuming request table; the
  oldest pool event (spec/10_pool.md R297, R302, R303). -/
  | lifetime (k tile expiry : Nat)
  | entry
  | event
  /-- A request at the owner's port. -/
  | item (i : PortItem)
  /-- The work of a task engine: a submission and a cancel of a cluster, an entry whose deadline has passed, a failed slice that
  leaves a slot, a violation record, an entry of the host's ring, a management request (spec/12_tasks.md R333-R350;
  spec/13_fabric.md R363; spec/14_host.md R386; spec/15_taproot.md R406). -/
  | submission (gc id : Nat)
  | dismissal (gc id : Nat)
  | late (slice : Nat)
  | leave (g : Nat)
  | violation
  | hostEntry (words : List Word)
  | manage
  deriving DecidableEq, Repr

/-- A request of an engine for a commit that is ready or held: engine, slot, token register, STATE, whether the slot's DISCARD is
set, its place among the engine's launches, what it is for, and the lines that it writes (spec/05_commit.md R152, R156,
spec/09_pull.md R276). -/
structure Done where
  engine : Nat
  slot : Nat
  st : Nat
  state : Nat
  disc : Bool
  no : Nat
  work : Work := .token
  lines : List Nat := []
  deriving DecidableEq, Repr

/-- The pull unit of a cluster (spec/09_pull.md R253). -/
structure PullUnit where
  nextId : Nat
  ops : List PullOp
  watches : List Watch
  fetches : List LineFetch
  cache : List CacheLine
  sends : List SendRec
  /-- The sends made so far of a slot to a ring, by slot * 2^56 + header. -/
  sendNos : FMap Nat
  subs : List SubRec
  xlats : List XlatRec
  deriving DecidableEq, Repr

/-- A cluster: its commit unit and its engines. -/
structure Cluster where
  /-- Commits made (spec/01_engines.md R22). -/
  commits : Nat
  /-- Commit number that last wrote a line, by flat line number (R30). -/
  stamps : FMap Nat
  /-- The commit trace ring: 1,024 entries of 40 words (spec/05_commit.md R165). -/
  trace : FMap (Vector Word 40)
  traceCtl : Word
  busy : List BusyRange
  fenced : Bool
  /-- The requests of engines for a commit, each with the ck at which it became ready, in the order of R156. -/
  ready : List (Nat × Done)
  /-- The RECVs that wait, by slot and flat address of the TAIL word (spec/11_messages.md R323). -/
  recvs : List (Nat × Nat)
  mat : Matrix
  /-- The enabled partitions of the tile pool by number, and the number of TPARTs made. -/
  parts : FMap Partition
  cfgs : Nat
  /-- Abandonment messages to deliver: ring handle, partition and the 16 bytes (spec/10_pool.md R303). -/
  events : List (Word × Nat × List Byte)
  seals : List Seal
  pull : PullUnit
  /-- The owner's port: watch table, consuming request table, the requests that wait for it in the order of their arrival,
  key table, count of keys issued. -/
  watchers : List WatchEntry
  served : List Served
  inbound : List PortItem
  /-- The chip with which the round robin of the waiting requests goes on (spec/13_fabric.md R373). -/
  inboundTurn : Nat
  keys : List KeyEntry
  keysIssued : Nat
  /-- The count of ring opens, of which the ring generation counter is the low byte (spec/11_messages.md R310). -/
  ringOpens : Nat
  /-- The translation cache (spec/14_host.md R390). -/
  xcache : List Page
  /-- Soft errors corrected in SRAM and HBM since the last record (spec/15_taproot.md R419). -/
  soft : Nat × Nat
  deriving DecidableEq, Repr

/-- A queue of a task engine (spec/12_tasks.md R329, R331): its descriptor, its delta image (the 32 words of an entry with
every field), and the records logged since it was enabled. -/
structure Queue where
  en : Bool
  domain : Nat
  cap : Nat
  flog : Word
  flogn : Nat
  image : List Word
  logged : Nat
  deriving DecidableEq, Repr

/-- The violation log of a die (spec/13_fabric.md R363): its place and size, the records written, those that wait and
those that were dropped. -/
structure ViolLog where
  addr : Word
  logn : Nat
  written : Nat
  waiting : List Violation
  dropped : Nat
  deriving DecidableEq, Repr

/-- A compute die: its clock (spec/15_taproot.md R411), its task engine (spec/12_tasks.md R329) and its violation log. Its
ck count since module reset is the count at a time of the module, and the ck that have passed since in the clock mode it
runs (spec/04_control.md R109, log entry 4). -/
structure Die where
  ck : Nat
  since : Nat
  /-- The clock mode it runs: 0 Chard, 1 Fennel, 2 Kale. -/
  mode : Nat
  queues : FMap Queue
  /-- Queued entries in the order of their arrival in their queues. -/
  queued : List Slice
  /-- Timed entries with the ticks of their release in us, in the order of submission. -/
  timed : List (Nat × Slice)
  /-- The numbers of the slices to which an abort request is to be delivered (spec/12_tasks.md R339, R340). -/
  aborts : List Nat
  /-- The ck in which the task engine worked last, and the step of that ck's order that it has come to
  (spec/12_tasks.md R340). -/
  turn : Nat × Nat
  viol : Option ViolLog
  /-- The margin plan in force: voltage in mV and enable bit of each mode; a plan made since, to be applied (spec/15_taproot.md
  R416). -/
  plan : List (Nat × Bool)
  newPlan : Option (List (Nat × Bool))
  /-- Held at Kale by temperature; lowered for power: the highest rank it may run, Kale 0 and Chard 1 (R414). -/
  hot : Bool
  lowered : Option Nat
  deriving DecidableEq, Repr

/-- A barrier phase that is gathering or full (spec/04_control.md R128-R133): the instance, its arrivals by the slots that are
marked outstanding, and the arrivals of slots whose slice has been ended since, which are counted but mark no slot. -/
structure Phase where
  level : Nat
  scope : Nat
  domain : Nat
  b : Nat
  count : Nat
  arrived : List Nat
  gone : List Nat
  deriving DecidableEq, Repr

/-- The encryption of one direction of a port: keys agreed so far, and the flit counter under the key (spec/13_fabric.md
R364). -/
structure LinkKey where
  keys : Nat
  flits : Nat
  deriving DecidableEq, Repr

/-- An Oxgor port (R353, R364): trained and keyed, its two directions, failed tags in a row, flits dropped. -/
structure Port where
  up : Bool
  tx : LinkKey
  rx : LinkKey
  failed : Nat
  dropped : Nat
  deriving DecidableEq, Repr

/-- What a peer-table entry says of a chip (R354). -/
inductive PeerKind where
  | absent
  | punosko
  | foreign
  deriving DecidableEq, Repr

/-- A peer (R354, R372): its table entry, whether it is declared failed, whether the plane reports it up, and the times of
its latest answer and of the first request since it had none outstanding. -/
structure Peer where
  kind : PeerKind
  ident : Nat
  feed : Nat
  failed : Bool
  up : Bool
  answered : Nat
  busySince : Nat
  deriving DecidableEq, Repr

/-- What an outstanding request to a peer asks for: a line of a fetch or of a pull, a consuming pull, a send, the placement
or refresh of a watch, an attestation report. -/
inductive Asked where
  | fetch
  | line (n : Nat)
  | consume
  | message
  | watch
  | attest
  deriving DecidableEq, Repr

/-- An outstanding request to a peer (R366, R369, R373): the requesting cluster and its operation, the number of bytes, the
times of its first and latest send, the sends made and the port of the latest; unsent while its peer's queue is full. -/
structure Request where
  chip : Nat
  gc : Nat
  id : Nat
  asked : Asked
  bytes : Nat
  first : Option Nat
  last : Nat
  sends : Nat
  port : Nat
  deriving DecidableEq, Repr

/-- A command of several parts that is being reassembled (R357). -/
structure Parts where
  chip : Nat
  rid : Nat
  got : List Nat
  first : Nat
  deriving DecidableEq, Repr

/-- A send of a peer as it reached an owner's port: its request identifier, its number, and its content (R367). -/
structure Inbound where
  rid : Nat
  gc : Nat
  num : Nat
  key : Nat
  off : Nat
  gen : Nat
  vector : Bool
  payload : List Byte
  arrived : Nat
  deriving DecidableEq, Repr

/-- The sends of one slot of a peer to one ring, by its header pod address (R367): the next number and those that wait. -/
structure SendOrder where
  chip : Nat
  slot : Nat
  header : Nat
  next : Nat
  waiting : List Inbound
  deriving DecidableEq, Repr

/-- A registration of a checkpoint partner that waits for the partner's report (R376), or a management request that
does (spec/15_taproot.md R405), with the number of its launch. -/
structure Attest where
  chip : Nat
  /-- Launching cluster, slot and token of a CKREG and its OVR; none for a management request. -/
  ckreg : Option (Nat × Nat × Nat × Bool)
  since : Nat
  id : Nat
  deriving DecidableEq, Repr

/-- A bound host region's alias (spec/14_host.md R400, R401): proxy, alias offset, length, the number of the take, the
bytes that the device has written by offset, and the commits not yet written through with their lines. -/
structure Alias where
  proxy : Nat
  offset : Nat
  len : Nat
  take : Nat
  bytes : FMap Byte
  through : List (Nat × List Nat)
  deriving DecidableEq, Repr

/-- A host region slot of BAR0 (R399): VAL, VAH, LEN, PASID, STATE, and its alias while bound. -/
structure RegionSlot where
  val : Word
  vah : Word
  len : Word
  pasid : Word
  state : Nat
  alia : Option Alias
  deriving DecidableEq, Repr

/-- An outstanding page request of PRI (R384, R401): address space, host page, since when. -/
structure PageRequest where
  pasid : Nat
  page : Nat
  since : Nat
  deriving DecidableEq, Repr

/-- The host port's registers and tables (R384-R386, R399-R401). -/
structure HostPort where
  sqbase : BitVec 64
  sqcfg : Word
  sqtail : Word
  cqbase : BitVec 64
  sqhead : Word
  cqtail : Word
  cqhead : Word
  /-- The domain and privilege of host submissions (spec/15_taproot.md R406). -/
  domain : Nat
  rt : Bool
  regions : FMap RegionSlot
  /-- The takes made. -/
  takes : Nat
  /-- The cache of host translations and the outstanding page requests. -/
  ats : List (Nat × Nat)
  pri : List PageRequest
  /-- The tokens of completions whose bytes have not all reached host memory: cluster, commit, slot, token register, token
  (R401). -/
  tokens : List (Nat × Nat × Nat × Nat × Word)
  deriving DecidableEq, Repr

/-- Taproot's and Husk's registers (spec/15_taproot.md R405, R411, R414-R418). -/
structure Manager where
  mbcmd : Word
  mbstat : Word
  mbargs : Vector Word 8
  mbrep : List Byte
  /-- The digests of the monitor and of Husk as they were verified (R407, R409). -/
  monitor : List Byte
  husk : List Byte
  /-- The result of the request being performed, once Husk has it. -/
  mbres : Option Nat
  modereq : Word
  /-- Bring-up state, stopped by a failure, tripped, and the clock mode requested and not yet applied to every die. -/
  stage : Nat
  fail : Bool
  trip : Bool
  pending : Bool
  /-- A request of MODEREQ came while another was being applied (R411). -/
  held : Bool
  /-- The next die of a clock change. -/
  nextDie : Nat
  logseq : Nat
  log : FMap (Vector Word 8)
  logix : Word
  fenceix : Word
  /-- Margin plans made; the latest readings of package power in mW, 100 in 1 ms; since when their mean has stayed below 5,700 W;
  the time powered before the latest module reset, in units of the wall clock; plans made after 1,000 powered hours; attestation
  reports made. -/
  plans : Nat
  samples : List Nat
  coolSince : Option Nat
  powered : Nat
  marks : Nat
  reports : Nat
  /-- The settings that MODE's latest change of XSTK or LEASE replaced, since when, and the number of such changes
  (spec/15_taproot.md R411). -/
  wasMode : Word
  modeAt : Option Nat
  modeNo : Nat
  deriving DecidableEq, Repr

/-- What leaves the module (log entry 20). -/
inductive Output where
  /-- An answer to a request of a peer: chip, request identifier, STATE, data, the stamps of its lines, and whether it holds
  discarded bytes; an error response; an acknowledgement of a watch, and its answer. -/
  | answer (chip rid state : Nat) (data : List Byte) (stamps : List Nat) (disc : Bool)
  | error (chip rid : Nat)
  | ack (chip gc watch : Nat)
  | watch (chip gc watch state stamp : Nat)
  /-- An MSI-X vector; a completion written into the host's ring; an uncorrectable AER error. -/
  | msix (vector : Nat)
  | completion (address : Nat) (words : List Word)
  | aer
  /-- An attestation report for a nonce; what a read of a log by Husk gives. -/
  | report (chip : Nat) (bytes : List Byte)
  | husk (gc addr : Nat) (answer : Answer)
  deriving DecidableEq, Repr

/-- An access by Husk, through the owner's port, to the memory of a cluster: its local address, its bytes, and whether it writes
(spec/15_taproot.md R404). -/
structure HuskAccess where
  gc : Nat
  addr : Nat
  len : Nat
  write : Bool
  deriving DecidableEq, Repr

/-- One turn of the agenda: a slot's turn to run its bundle, a step of the table, an access by Husk to a memory, or the refusal of
the management request by Husk's policy (log entries 1 and 66; spec/15_taproot.md R404, R405). -/
inductive Turn where
  | slot (g : Nat)
  | event (i : Instr)
  | husk (a : HuskAccess)
  | policy
  deriving DecidableEq, Repr

/-- The module. -/
structure State where
  /-- Device memory: one list of cells by flat address, rising, no zero byte listed (log entry 5). -/
  mem : List Host.Cell
  /-- The lines of device memory, by flat line number, that hold an uncorrectable error (spec/15_taproot.md R419, log
  entry 22). -/
  faulty : List Nat
  slots : FMap Slot
  cores : FMap Core
  clusters : FMap Cluster
  dies : FMap Die
  phases : List Phase
  /-- The Oxgor side: ports, peers, the module's own chip number, requests to peers, commands being reassembled, order of
  peers' sends, checkpoint partners, attestations awaited (spec/13_fabric.md). -/
  ports : FMap Port
  peers : FMap Peer
  chip : Nat
  reqs : List Request
  parts : List Parts
  orders : List SendOrder
  partners : List Nat
  attests : List Attest
  /-- Page-table root: global memory cluster and offset in 16 KiB units (spec/15_taproot.md R406). -/
  root : Nat × Nat
  host : HostPort
  man : Manager
  /-- The entries that task engines have accepted: the number of the next slice. -/
  slices : Nat
  /-- Module resets made since power-on, which tell the free values of one from another's (log entry 8). -/
  resets : Nat
  /-- Wall-clock time since module reset in units of 1/559,300 us, of which a ck holds 658 in Chard, 595 in Fennel and
  799 in Kale (spec/00_scope.md R4, log entry 4). -/
  now : Nat
  /-- Pod time in ns at a time of the module, that time, and the rate in ppm by which pod time has run fast since
  (spec/15_taproot.md R412). -/
  podBase : Nat
  podSince : Nat
  podRate : Int
  /-- MODE, the modes in force (spec/15_taproot.md R411). -/
  mode : Word
  /-- What has left the module, the latest last (log entry 20). -/
  out : List Output
  /-- The turns still to take, first first, and the slot whose bundle runs (log entry 1). -/
  agenda : List Turn
  cur : Nat
  /-- The bundle being executed; none between steps (log entry 2). -/
  bundle : Option Bundle
  /-- The next local loads arrive by a LOAD_DATA_ARRIVAL of their own (log entry 3). -/
  lateLoads : Bool
  deriving DecidableEq, Repr

/-! ## Why a step can stop -/

/-- The reasons a step ends in a fault: there are none. Every error that the spec describes is an exception, an error token, a
refusal that is logged or a failed slice, after which the module goes on, so no meaning stops the machine. -/
inductive Fault where
  deriving DecidableEq, Repr

/-- The reasons a step is refused. -/
inductive Refusal where
  /-- Kept for an arm of `exec` that has no meaning yet; there is none, so nothing raises it. Safe. -/
  | notModelled (mnemonic : String)
  deriving DecidableEq, Repr

/-! ## Reset -/

/-- The point mass at zero in every lane, with tag 0 (spec/07_bulb.md R202). -/
def Bulb.reset : Bulb :=
  { lanes := Vector.replicate 16 ((Vector.replicate 8 ⟨0, 0⟩).set 0 ⟨0, 0x8000⟩), tag := 0 }

/-- The registers after reset: QTAGC is 1, every other register 0 (log entry 5). -/
def Regs.reset : Regs :=
  { s := Vector.replicate 32 0, v := Vector.replicate 64 (Vector.replicate 16 0),
    w := Vector.replicate 8 (Vector.replicate 16 0), lx := Vector.replicate 16 0, p := Vector.replicate 8 0,
    q := Vector.replicate 8 Bulb.reset, pend := 0, status := 0, cause := 0, epc := 0, tval := 0, tvec := 0,
    hwin := 0, bscale := 0, qtagc := 1, rngkey := 0, rngctr := 0, barm := 0 }

/-- An idle slot's region: ordinary, nothing done. -/
def Region.reset : Region :=
  { no := 0, first := 0, atomic := false, byCommit := false, bundles := 0, stores := [], effects := [], rsig := 0,
    wsig := 0, ckpt := Regs.reset, code := [], res := ⟨[], [], []⟩, kept := ⟨[], [], []⟩ }

/-- A slot after module reset: it holds no slice (spec/15_taproot.md R408). -/
def Slot.reset : Slot :=
  { live := Regs.reset, pc := 0, region := Region.reset, parked := none, stat := ⟨0, 0, 0, false, false, false⟩, solo := none,
    soloWait := none, xpc := 0, plbcfg := 0, cycleH := 0, ptimeH := 0, arrivals := [], async := [], fails := [],
    walk := none, pages := [], hostWait := none, loads := [], wait := none, halted := false, grant := none, slice := none, dispatching := false,
    footFail := none, heldFor := none, abort := false,
    preempt := none, scratch := [], epoch := 0 }

/-- A ring of a core's ring table after module reset: closed, at generation 0 (spec/11_messages.md R310, log entry 5). -/
def Ring.reset : Ring :=
  { isOpen := false, gen := 0, slot := 0, domain := 0, header := 0, logn := 0, foreign := false, no := 0 }

/-- A core after reset: its page-size registers are 0, its buffer is empty, its rings are closed. -/
def Core.reset : Core := { psz := Vector.replicate 8 0, plb := [], rings := [] }

/-- The matrix engine after reset: accumulators free, nothing queued (R221). -/
def Matrix.reset : Matrix :=
  { acc := [], owner := [], staging := [], bind := [], cmds := [], nextSeq := 0, groups := [], latched := none,
    array := none, port := ⟨none, 7, 4⟩, weights := ⟨none, 7, 4⟩ }

/-- The pull unit after reset. -/
def PullUnit.reset : PullUnit :=
  { nextId := 0, ops := [], watches := [], fetches := [], cache := [], sends := [], sendNos := [],
    subs := [], xlats := [] }

/-- A cluster after reset. -/
def Cluster.reset : Cluster :=
  { commits := 0, stamps := [], trace := [], traceCtl := 1, busy := [], fenced := false, ready := [], recvs := [],
    mat := Matrix.reset, parts := [], cfgs := 0, events := [], seals := [], pull := PullUnit.reset, watchers := [],
    served := [], inbound := [], inboundTurn := 0, keys := [], keysIssued := 0, ringOpens := 0, xcache := [], soft := (0, 0) }

/-- A die after reset: it runs Chard; its queues are disabled (spec/15_taproot.md R408, R411). -/
def Die.reset : Die :=
  { ck := 0, since := 0, mode := 0, queues := [], queued := [], timed := [], aborts := [], turn := (0, 0), viol := none,
    plan := [(450, true), (480, true), (420, true)], newPlan := none, hot := false, lowered := none }

/-- A port after reset: down (spec/13_fabric.md R353). -/
def Port.reset : Port := { up := false, tx := ⟨0, 0⟩, rx := ⟨0, 0⟩, failed := 0, dropped := 0 }

/-- A chip without a peer-table entry (R354). -/
def Peer.reset : Peer := { kind := .absent, ident := 0, feed := 0, failed := false, up := true, answered := 0, busySince := 0 }

/-- A region slot after reset (spec/14_host.md R399). -/
def RegionSlot.reset : RegionSlot := { val := 0, vah := 0, len := 0, pasid := 0, state := 0, alia := none }

/-- The host port after reset (R385). -/
def HostPort.reset : HostPort :=
  { sqbase := 0, sqcfg := 0, sqtail := 0, cqbase := 0, sqhead := 0, cqtail := 0, cqhead := 0, domain := 0, rt := false,
    regions := [], takes := 0, ats := [], pri := [], tokens := [] }

/-- The management registers after reset: bring-up is in state 0 (spec/15_taproot.md R405, R408, R411, R417). -/
def Manager.reset : Manager :=
  { mbcmd := 0, mbstat := 0, mbargs := Vector.replicate 8 0, mbrep := [], monitor := [], husk := [], mbres := none, modereq := 0, stage := 0, fail := false,
    trip := false, pending := false, held := false, nextDie := 12, logseq := 0, log := [], logix := 0, fenceix := 0, plans := 0,
    samples := [], coolSince := none, powered := 0, marks := 0, reports := 0,
    wasMode := 0, modeAt := none, modeNo := 0 }

/-- The module right after reset. -/
def State.reset : State :=
  { mem := [], faulty := [], slots := [], cores := [], clusters := [], dies := [], phases := [], ports := [], peers := [], chip := 0,
    reqs := [], parts := [], orders := [], partners := [], attests := [], root := (288, 0), host := HostPort.reset,
    man := Manager.reset, slices := 0, resets := 0, now := 0, podBase := 0, podSince := 0, podRate := 0, mode := 0, out := [], agenda := [], cur := 0,
    bundle := none, lateLoads := false }

end Sys2Proof.Machine
end

