-- ==== Sys2Proof/Machine/Store.lean ====
section
/-!
DEFINITION. Finite maps and device memory: one lookup and one update for every list of numbered things in the state.
-/

namespace Sys2Proof.Machine

/-- The value of a key, if it is listed. -/
def mfind {α : Type} : FMap α → Nat → Option α
  | [], _ => none
  | (k, v) :: m, j => if k = j then some v else mfind m j

/-- The value of a key, or a default. -/
def mget {α : Type} (m : FMap α) (k : Nat) (d : α) : α := (mfind m k).getD d

/-- The map with a key's value set; rising keys stay rising. -/
def mput {α : Type} : FMap α → Nat → α → FMap α
  | [], k, v => [(k, v)]
  | (k', v') :: m, k, v =>
    if k < k' then (k, v) :: (k', v') :: m else if k = k' then (k, v) :: m else (k', v') :: mput m k v

/-- The map without a key. -/
def mdel {α : Type} (m : FMap α) (k : Nat) : FMap α := m.filter fun c => c.1 != k

/-- The byte of device memory at a flat address: a byte that is not listed reads 0 (spec/15_taproot.md R408). -/
def loadByte (m : List Host.Cell) (a : Nat) : Byte := (mfind m a).getD 0

/-- Device memory with one byte written; a zero byte is not listed. -/
def storeByte (m : List Host.Cell) (a : Nat) (b : Byte) : List Host.Cell := if b = 0 then mdel m a else mput m a b

/-- Device memory with a list of bytes written, in order. -/
def storeBytes (m : List Host.Cell) (ws : FMap Byte) : List Host.Cell :=
  ws.foldl (fun m c => storeByte m c.1 c.2) m

/-- The canonical form of device memory: addresses strictly rising, no zero byte listed. -/
def Memory.wf (m : List Host.Cell) : Bool :=
  m.Pairwise (fun x y => x.1 < y.1) && m.all fun c => c.2 != 0

/-- The bytes from an address on. -/
def loadBytes (m : List Host.Cell) (a n : Nat) : List Byte := (List.range n).map fun i => loadByte m (a + i)

/-- The number whose bytes these are, the least significant first (spec/00_scope.md R2). -/
def leNat : List Byte → Nat
  | [] => 0
  | b :: bs => b.toNat + 256 * leNat bs

/-- The low n bytes of a number, the least significant first (R2). -/
def leBytes : Nat → Nat → List Byte
  | 0, _ => []
  | n + 1, x => BitVec.ofNat 8 x :: leBytes n (x / 256)

/-- A word of device memory. -/
def loadWord (m : List Host.Cell) (a : Nat) : Word := BitVec.ofNat 32 (leNat (loadBytes m a 4))

/-- Bytes placed from an address on. -/
def placed (a : Nat) (bs : List Byte) : FMap Byte := (List.range bs.length).zip bs |>.map fun c => (a + c.1, c.2)

/-! ## Numbers of the parts (spec/01_engines.md R14) and flat addresses -/

/-- The global cluster number of a global slot number. -/
def clusterOf (g : Nat) : Nat := g / 32
/-- The core of a slot within its cluster. -/
def coreOf (g : Nat) : Nat := g / 4 % 8
/-- The slot index core * 4 + slot within its cluster. -/
def slotIx (g : Nat) : Nat := g % 32
/-- The die of a cluster. -/
def dieOf (gc : Nat) : Nat := gc / Config.clustersPerDie
/-- Is the cluster a memory cluster? -/
def isMem (gc : Nat) : Bool := Config.computeClusters ≤ gc % Config.clustersPerDie

/-- The flat address of a byte of a cluster's HBM slice. -/
def flatHbm (gc o : Nat) : Nat := gc * 2 ^ 33 + o
/-- The flat address of a byte of a cluster's scratchpad or shared SRAM slice. -/
def flatRam (gc o : Nat) : Nat := gc * 2 ^ 33 + 2 ^ 32 + o
/-- The flat address of a byte of a core's TCM. -/
def flatTcm (gc core o : Nat) : Nat := gc * 2 ^ 33 + 2 ^ 32 + 2 ^ 24 + core * 2 ^ 18 + o
/-- The flat place of a byte of the acting slot's trap scratch; such places lie above the owner memory. -/
def scratchBase : Nat := 2 ^ 46
/-- The extent of the scratchpad, or of a memory cluster's SRAM slice (spec/03_numbers.md R92). -/
def ramSize (gc : Nat) : Nat := if isMem gc then 0x400000 else 0x200000
/-- The size of a memory cluster's HBM slice. -/
def hbmSize : Nat := 0xC0000000
/-- The flat number of a 64-byte line. -/
def lineOf (a : Nat) : Nat := a / 64
/-- The cluster whose memory a flat address lies in. -/
def ownerOf (a : Nat) : Nat := a / 2 ^ 33

/-- The key by which a line enters a signature (spec/05_commit.md R155). -/
def lineKey (a : Nat) : Nat :=
  let o := a % 2 ^ 33
  if o < 2 ^ 32 then 0x4000000 + o / 64
  else if o < 2 ^ 32 + 2 ^ 24 then (o - 2 ^ 32) / 64
  else
    let t := o - 2 ^ 32 - 2 ^ 24
    0x10000 + t / 2 ^ 18 * 0x1000 + t % 2 ^ 18 / 64

/-- The two signature bits of a line key (R155). -/
def keyBits (k : Nat) : BitVec 1024 :=
  let h1 := (k ^^^ (k >>> 10) ^^^ (k >>> 20)) % 1024
  let h2 := (k * 0x9E3B) / 2 ^ 16 % 1024
  (1#1024 <<< h1) ||| (1#1024 <<< h2)

/-- The signature bits of the line of a flat address; places outside owner memory enter no signature. -/
def sigBits (a : Nat) : BitVec 1024 := if scratchBase ≤ a then 0 else keyBits (lineKey a)

/-- The signature of a list of written bytes. -/
def sigOf (ws : FMap Byte) : BitVec 1024 := ws.foldl (fun x c => x ||| sigBits c.1) 0

/-- The lines that hold the listed places, each once. -/
def linesOf (ws : FMap Byte) : List Nat := (ws.map fun c => lineOf c.1).dedup

end Sys2Proof.Machine
end

