-- ==== Sys2Proof/Machine/Flags.lean ====
section
/-!
DEFINITION. The fields of STATUS, RGNST, BARM and PLBCFG, and how flags enter STATUS (spec/04_control.md R108, R127;
spec/03_numbers.md R85; spec/05_commit.md R144; spec/14_host.md R391).
-/

namespace Sys2Proof.Machine

/-- Bits [lo+n-1:lo] of a word as a number (R2). -/
def bits (x : Word) (lo n : Nat) : Nat := x.toNat / 2 ^ lo % 2 ^ n

/-- One bit of a word. -/
def bit (x : Word) (i : Nat) : Bool := x.toNat / 2 ^ i % 2 == 1

/-- A word with the bits of a mask taken from another word. -/
def merge (old new mask : Word) : Word := (old &&& ~~~mask) ||| (new &&& mask)

/-- A word with one bit set or cleared. -/
def withBit (x : Word) (i : Nat) (b : Bool) : Word :=
  if b then x ||| (1#32 <<< i) else x &&& ~~~(1#32 <<< i)

/-- Flags set in STATUS; the hardware only ever sets them (R85, R108). -/
def setFlags (status : Word) (f : Flags) : Word := status ||| f.setWidth 32

/-- STATUS.RT, the runtime privilege. -/
def Regs.rt (r : Regs) : Bool := bit r.status 31
/-- STATUS.TA, trap active. -/
def Regs.ta (r : Regs) : Bool := bit r.status 9
/-- STATUS.GSIZE. -/
def Regs.gsize (r : Regs) : Nat := bits r.status 26 2
/-- STATUS.GLEAD. -/
def Regs.glead (r : Regs) : Bool := bit r.status 25

/-- The fields of STATUS that a discard leaves alone: RT, GSIZE, GLEAD and TA (R143). -/
def statusKept : Word := 0x8E000200

/-- The fields of STATUS that software may write: DISCARD, TA and the flags (R108). -/
def statusRW : Word := 0x0001021F

/-- The members of a gang of code n: 1, 2, 4 or 8 (R108, R121). -/
def gangSize (n : Nat) : Nat := 2 ^ n

/-- BARM.EN. -/
def barmEN (x : Word) : Bool := bit x 31
/-- BARM.LEVEL. -/
def barmLevel (x : Word) : Nat := bits x 28 3
/-- BARM.WV. -/
def barmWV (x : Word) : Bool := bit x 27
/-- BARM.WB. -/
def barmWB (x : Word) : Nat := bits x 17 9
/-- BARM.COUNT. -/
def barmCount (x : Word) : Nat := bits x 0 17

/-- The largest COUNT of a barrier level; level 1 counts the gang (R128). -/
def barCountMax (level gang : Nat) : Nat :=
  match level with
  | 0 => 4
  | 1 => gang
  | 2 => 32
  | 3 => 2560
  | 4 => 10240
  | 5 => 122880
  | _ => 0

/-- RGNST as a word (R144). -/
def rgnstWord (a solo : Bool) (x : RgnStat) : Word :=
  BitVec.ofNat 32 ((if a then 2 ^ 31 else 0) + (if solo then 2 ^ 30 else 0) + x.conf % 16 * 2 ^ 26 + x.last % 8 * 2 ^ 23
    + x.acode.toNat * 2 ^ 15 + (if x.ea then 2 ^ 14 else 0) + (if x.fc then 2 else 0) + (if x.ic then 1 else 0))

/-- CAUSE as a word (spec/01_engines.md R41). -/
def causeWord (async kept gang : Bool) (code : Nat) : Word :=
  BitVec.ofNat 32 ((if async then 2 ^ 31 else 0) + (if kept then 2 ^ 30 else 0) + (if gang then 2 ^ 29 else 0)
    + code % 1024)

/-- A token value (R26): STATE and the low bits of the commit number. -/
def tokenWord (state n : Nat) : Word := BitVec.ofNat 32 (state % 256 * 2 ^ 24 + n % 2 ^ 24)

/-- The number of STATUS.NV ... bits: the flags of two operations together. -/
def unionFlags (a b : Flags) : Flags := a ||| b

end Sys2Proof.Machine
end

