-- ==== Sys2Proof/Machine/Ops.lean ====
section
/-!
DEFINITION. The named operations over slots, clusters, memory and regions: accessors, time, regions and their discard,
taking an exception, and the numbered commit (spec/01_engines.md R22-R31, R40-R44; spec/05_commit.md R142-R157, R165).
-/

namespace Sys2Proof.Machine

/-! ## Accessors -/

/-- A slot by its global number. -/
def State.slot (s : State) (g : Nat) : Slot := mget s.slots g Slot.reset
/-- The state with one slot written. -/
def State.setSlot (s : State) (g : Nat) (x : Slot) : State := { s with slots := mput s.slots g x }
/-- A cluster by its global number. -/
def State.cluster (s : State) (gc : Nat) : Cluster := mget s.clusters gc Cluster.reset
/-- The state with one cluster written. -/
def State.setCluster (s : State) (gc : Nat) (x : Cluster) : State := { s with clusters := mput s.clusters gc x }
/-- A die by its number. -/
def State.die (s : State) (d : Nat) : Die := mget s.dies d Die.reset
/-- The state with one die written. -/
def State.setDie (s : State) (d : Nat) (x : Die) : State := { s with dies := mput s.dies d x }
/-- The state with one slot changed. -/
def State.modSlot (s : State) (g : Nat) (f : Slot → Slot) : State := s.setSlot g (f (s.slot g))
/-- The state with one cluster changed. -/
def State.modCluster (s : State) (gc : Nat) (f : Cluster → Cluster) : State := s.setCluster gc (f (s.cluster gc))
/-- A core by its global number. -/
def State.core (s : State) (c : Nat) : Core := mget s.cores c Core.reset
/-- The state with one core changed. -/
def State.modCore (s : State) (c : Nat) (f : Core → Core) : State := { s with cores := mput s.cores c (f (s.core c)) }
/-- The acting slot. -/
def State.me (s : State) : Slot := s.slot s.cur
/-- The cluster of the acting slot. -/
def State.myCluster (s : State) : Nat := clusterOf s.cur
/-- The acting slot changed. -/
def State.modMe (s : State) (f : Slot → Slot) : State := s.modSlot s.cur f
/-- The live registers of the acting slot changed. -/
def State.modLive (s : State) (f : Regs → Regs) : State := s.modMe fun x => { x with live := f x.live }
/-- The protection domain of a slot (spec/14_host.md R391). -/
def Slot.domain (x : Slot) : Nat := bits x.plbcfg 16 16
/-- The slots of a cluster that the state lists. -/
def State.slotsOf (s : State) (gc : Nat) : List Nat := (s.slots.map (·.1)).filter fun g => clusterOf g == gc

/-- The bundle being executed; outside a bundle, a blank one over the acting slot's registers. -/
def State.bundleD (s : State) : Bundle :=
  s.bundle.getD { src := s.me.live, loads := s.me.loads, pc := s.me.pc, next := s.me.pc + 4, raised := none, stall := none, target := none,
                  ends := none, abort := none, reads := [], extra := 0, logs := [] }
/-- The state with the bundle being executed changed. -/
def State.modBundle (s : State) (f : Bundle → Bundle) : State := { s with bundle := some (f s.bundleD) }
/-- The registers as they stood before the bundle, which its words read (spec/02_encoding.md R49). -/
def State.src (s : State) : Regs := s.bundleD.src

/-- RAISE: the bundle's first cause is kept, the A-word's before the B-word's (spec/00_scope.md R11, R43). -/
def State.raise (s : State) (code : Nat) (v : Word) : State :=
  s.modBundle fun b => { b with raised := b.raised.or (some (code, v)) }
/-- A machine cause of the bundle comes before every other (R43). -/
def State.raiseMachine (s : State) (code : Nat) (v : Word) : State := s.modBundle fun b => { b with raised := some (code, v) }
/-- AWAIT with a false condition (R12). -/
def State.stallFor (s : State) (k : Stall) : State := s.modBundle fun b => { b with stall := b.stall.or (some k) }

/-! ## Time -/

/-- The wall-clock units of one ck in a clock mode (spec/00_scope.md R4, log entry 4). -/
def ckUnits (mode : Nat) : Nat :=
  match mode with
  | 0 => 658
  | 1 => 595
  | _ => 799

/-- Wall-clock units of a time in us. -/
def usUnits (us : Nat) : Nat := us * 559300

/-- The ck count of a die. -/
def State.ckDie (s : State) (d : Nat) : Nat := (s.die d).ck + (s.now - (s.die d).since) / ckUnits (s.die d).mode

/-- The ck count of a cluster's die. -/
def State.ckOf (s : State) (gc : Nat) : Nat := s.ckDie (dieOf gc)

/-- Time passes for the module: some ck of the die of a slot. -/
def State.tick (s : State) (g n : Nat) : State :=
  { s with now := s.now + n * ckUnits (s.die (dieOf (clusterOf g))).mode }

/-- The budget of a slice that is left at a ck of its die (spec/12_tasks.md R346). -/
def Slice.leftAt (l : Slice) (ck : Nat) : Nat :=
  match l.since with
  | none => l.left
  | some t => l.left - (ck - t)

/-- A slice whose budget stops counting, or counts from a ck on. -/
def Slice.count (l : Slice) (ck : Nat) (on : Bool) : Slice :=
  { l with left := l.leftAt ck, since := if on then some ck else none }

/-- Pod time in ns (R337, spec/15_taproot.md R412). -/
def State.podNs (s : State) : Nat := s.podBase + (s.now - s.podSince) * (1000000 + s.podRate).toNat / 559300000
/-- Pod time in us. -/
def State.podUs (s : State) : Nat := s.podNs / 1000

/-! ## Regions -/

/-- The tile that a slot's open region holds by a grant to its TALLOC, which has not run again yet: a forced commit of its gang
takes it into the next region (spec/10_pool.md R291, R293). -/
def Slot.granted (x : Slot) : List (Nat × Nat × Nat × Nat) :=
  x.region.res.tiles.filter fun t => x.grant == some (t.1, t.2.1)

/-- A slot with a new open region: the checkpoint is its registers now, and fetches see memory as it stands (R142, R143,
spec/02_encoding.md R51). A slice with an abort request is to leave instead of running it, but for its first region
(spec/12_tasks.md R330, R345). -/
def Slot.opened (x : Slot) (mem : List Host.Cell) (first : Word) (atomic byCommit : Bool) : Slot :=
  { x with
    pc := first
    wait := if x.abort && !x.dispatching then some (.leave (.failed 3 0 0)) else x.wait
    region := { no := x.region.no + 1, first := first, atomic := atomic, byCommit := byCommit, bundles := 0, stores := [],
                effects := [], rsig := 0, wsig := 0, ckpt := x.live, code := mem, res := ⟨x.granted, [], []⟩, kept := ⟨[], [], []⟩ } }

/-- A region opens on a slot. -/
def State.openRegion (s : State) (g : Nat) (first : Word) (atomic byCommit : Bool) : State :=
  s.modSlot g fun x => x.opened s.mem first atomic byCommit

/-- The registers a discard leaves: the checkpoint, with the fields of STATUS that R143 keeps. -/
def Regs.restored (ckpt live : Regs) : Regs := { ckpt with status := merge ckpt.status live.status statusKept }

/-- A slot whose region is discarded: registers back to the checkpoint, the loads of the region dropped, a stall ended
(R143, R157). No region is open until the caller opens one. -/
def Slot.discarded (x : Slot) : Slot :=
  { x with
    live := x.region.ckpt.restored x.live
    loads := x.loads.filter fun l => l.region != x.region.no
    fails := x.fails.filter fun f => f.2.2.2 != x.region.no
    wait := none
    walk := none
    hostWait := none
    pages := []
    grant := none
    pc := x.region.first
    region := { x.region with stores := [], effects := [], rsig := 0, wsig := 0, bundles := 0, res := ⟨[], [], []⟩, kept := ⟨[], [], []⟩ } }

/-- How a slot's previous region ended: LAST (R144). -/
def Slot.withLast (x : Slot) (last : Nat) : Slot := { x with stat := { x.stat with last := last } }

/-- The gang of a slot: its members, the leader first; a slot outside a gang is its own (spec/04_control.md R121). -/
def State.gangOf (s : State) (g : Nat) : List Nat :=
  let n := gangSize (s.slot g).live.gsize
  let c0 := coreOf g - coreOf g % n
  (List.range n).map fun i => (clusterOf g * 8 + c0 + i) * 4 + g % 4

/-- The deferred effects of the regions of a slot's gang, in the order in which their commit performs them
(spec/04_control.md R123). -/
def State.gangEffects (s : State) (g : Nat) : List Effect := (s.gangOf g).flatMap fun m => (s.slot m).region.effects

/-- The slots on which a slice is, by the slice's number. -/
def State.slotsWith (s : State) (id : Nat) : List Nat :=
  (s.slots.filter fun c => match c.2.slice with | some l => l.id == id | none => false).map (·.1)

/-! ## Owner memory -/

/-- The start of a bound region's alias, as a flat address (spec/14_host.md R400). -/
def Alias.start (r : Alias) : Nat := flatHbm r.proxy r.offset

/-- The bound region whose alias holds a flat address: its slot of BAR0 and its record (R401). -/
def State.aliasOf (s : State) (a : Nat) : Option (Nat × RegionSlot × Alias) :=
  s.host.regions.findSome? fun r => match r.2.alia with
    | some x => if x.start ≤ a ∧ a < x.start + x.len then some (r.1, r.2, x) else none
    | none => none

/-- Does a flat address lie in the range of an enabled partition of a domain other than the given one (R294)? -/
def State.otherPool (s : State) (domain a : Nat) : Bool :=
  a < scratchBase && (s.cluster (ownerOf a)).parts.any fun p =>
    let b := flatRam (ownerOf a) (p.2.base - 0x10000000)
    b ≤ a && a < b + p.2.count * 2 ^ p.2.szlog && p.2.domain != domain

/-- The seal of a flat address, if it lies in a sealed or discarded range (R397). -/
def State.sealOf (s : State) (a : Nat) : Option Seal :=
  if scratchBase ≤ a then none else (s.cluster (ownerOf a)).seals.find? fun r => r.addr ≤ a && a < r.addr + r.len

/-- Does a flat address lie in a discarded range? -/
def State.isDiscarded (s : State) (a : Nat) : Bool := match s.sealOf a with | some r => r.discarded | none => false

/-- A byte of owner memory as a reader of the cluster sees it: a discarded byte reads 0 (R397), a byte of a bound alias
is host memory's (R401, log entry 6). -/
def State.ownByte (s : State) (a : Nat) : Byte :=
  if s.isDiscarded a then 0
  else
    match s.aliasOf a with
    | some (_, _, x) => (mfind x.bytes (a - x.start)).getD (Config.hostByte x.take (a - x.start))
    | none => loadByte s.mem a

/-- Bytes of owner memory from a flat address on. -/
def State.ownBytes (s : State) (a n : Nat) : List Byte := (List.range n).map fun i => s.ownByte (a + i)

/-- A word of owner memory. -/
def State.ownWord (s : State) (a : Nat) : Word := BitVec.ofNat 32 (leNat (s.ownBytes a 4))

/-- A bound region with the bytes of a commit written to its alias; the commit waits to be written through (R401). -/
def RegionSlot.written (r : RegionSlot) (n : Nat) (ws : FMap Byte) : RegionSlot :=
  match r.alia with
  | none => r
  | some x =>
    let mine := ws.filter fun c => x.start ≤ c.1 && c.1 < x.start + x.len
    if mine.isEmpty then r
    else
      { r with alia := some { x with
          bytes := mine.foldl (fun m c => mput m (c.1 - x.start) c.2) x.bytes
          through := x.through ++ [(n, linesOf mine)] } }

/-- The bytes of commit n become visible: those of an alias go to host memory (R23, R401). -/
def State.written (s : State) (n : Nat) (ws : FMap Byte) : State :=
  { s with
    mem := storeBytes s.mem (ws.filter fun c => (s.aliasOf c.1).isNone)
    host := { s.host with regions := s.host.regions.map fun r => (r.1, r.2.written n ws) } }

/-- Has a commit written a line of an alias without its bytes having reached host memory (R401)? -/
def State.writingThrough (s : State) (line : Nat) : Bool :=
  s.host.regions.any fun r => match r.2.alia with | some x => x.through.any fun t => t.2.contains line | none => false

/-- The flat address of a line with an uncorrectable error that some ranges of flat addresses meet (spec/15_taproot.md R419,
log entry 22): of several the first in State's list, the model's choice (log entry 74). -/
def State.faultyIn (s : State) (rs : List (Nat × Nat)) : Option Nat :=
  (s.faulty.find? fun l => rs.any fun r => r.1 < 64 * l + 64 && 64 * l < r.1 + r.2).map (64 * ·)

/-! ## Logs (R19, R44; spec/13_fabric.md R363; spec/15_taproot.md R418) -/

/-- A record of Taproot's machine log (R418). -/
def State.logMachine (s : State) (code subj : Nat) (args : List Nat) : State :=
  let m := s.man
  let rec_ : Vector Word 8 := Vector.ofFn fun i =>
    BitVec.ofNat 32 (match i.val with
      | 0 => m.logseq
      | 1 => code
      | 2 => s.podNs
      | 3 => s.podNs / 2 ^ 32
      | 4 => subj
      | k => args.getD (k - 5) 0)
  { s with man := { m with log := mput m.log (m.logseq % 4096) rec_, logseq := m.logseq + 1 } }

/-- A refusal is handed to the task engine of a cluster's die (R19, R363): dropped while no log is placed, counted when
64 others wait. -/
def State.logRefusal (s : State) (gc : Nat) (v : Violation) : State :=
  let d := s.die (dieOf gc)
  match d.viol with
  | none => s
  | some l =>
    s.setDie (dieOf gc) { d with viol := some (
      if 64 ≤ l.waiting.length then { l with dropped := l.dropped + 1 } else { l with waiting := l.waiting ++ [v] }) }

/-- A refusal that the executing bundle logs, whatever becomes of the bundle (R19). -/
def State.logBundle (s : State) (v : Violation) : State := s.modBundle fun b => { b with logs := b.logs ++ [v] }

/-- The modes in force in a cluster: those that MODE shows, but for 10 us after a change of XSTK or LEASE perhaps still those
before it (spec/15_taproot.md R411, log entry 66). -/
def State.modeOf (s : State) (gc : Nat) : Word :=
  match s.man.modeAt with
  | some t => if s.now < t + Config.modeDelay s.man.modeNo gc % usUnits 10 then s.man.wasMode else s.mode
  | none => s.mode

/-! ## Completions that wait for their commit -/

/-- Does a completion come before one that became ready in the same ck or later: by its engine, then by its place among the
engine's launches (spec/05_commit.md R156)? -/
def Done.before (d e : Done) : Bool := d.engine < e.engine || (d.engine == e.engine && d.no < e.no)

/-- A completion that has become ready at a ck put in its place among the others, which the earlier ones precede. -/
def insertDone (t : Nat) (d : Done) : List (Nat × Done) → List (Nat × Done)
  | [] => [(t, d)]
  | (u, e) :: es => if t < u ∨ t = u ∧ d.before e then (t, d) :: (u, e) :: es else (u, e) :: insertDone t d es

/-- A completion becomes ready (spec/05_commit.md R156). -/
def State.pushDone (s : State) (gc : Nat) (d : Done) : State :=
  s.modCluster gc fun c => { c with ready := insertDone (s.ckOf gc) d c.ready }

/-! ## Ports (spec/13_fabric.md R353, R364, R366) -/

/-- A port. -/
def State.port (s : State) (k : Nat) : Port := mget s.ports k Port.reset
/-- A port changed. -/
def State.modPort (s : State) (k : Nat) (f : Port → Port) : State := { s with ports := mput s.ports k (f (s.port k)) }

/-- The ports that are up. -/
def State.upPorts (s : State) : List Nat := (List.range 16).filter fun k => (s.port k).up

/-- The outstanding bytes of a port. -/
def State.load (s : State) (k : Nat) : Nat :=
  s.reqs.foldl (fun n r => if r.first.isSome && r.port == k then n + r.bytes else n) 0

/-- The port of a list with the fewest outstanding bytes, the lowest on a tie (R366). -/
def State.lightest (s : State) : List Nat → Option Nat
  | [] => none
  | k :: ks => match s.lightest ks with | none => some k | some j => if s.load k ≤ s.load j then some k else some j

/-- The port of a send: a retry goes to a different up port when one exists (R366). -/
def State.choosePort (s : State) (last : Option Nat) : Option Nat :=
  (s.lightest (s.upPorts.filter fun k => some k != last)).or (s.lightest s.upPorts)

/-- A key of a link agreed anew: its flit counter starts at 0 (R364). -/
def LinkKey.renew (k : LinkKey) : LinkKey := { keys := k.keys + 1, flits := 0 }

/-- The flits of some bytes counted under a key of a link, with a new key before the counter would reach 2^48 (R364, log entry
26). -/
def LinkKey.count (k : LinkKey) (bytes : Nat) : LinkKey :=
  let n := Config.flits bytes % 2 ^ 16
  if 2 ^ 48 ≤ k.flits + n then { k.renew with flits := n } else { k with flits := k.flits + n }

/-- Some bytes leave by a port. -/
def State.sendOn (s : State) (k bytes : Nat) : State := s.modPort k fun p => { p with tx := p.tx.count bytes }

/-- Some bytes arrive at a port. -/
def State.hearOn (s : State) (k bytes : Nat) : State := s.modPort k fun p => { p with rx := p.rx.count bytes }

/-! ## What leaves the module -/

/-- The bytes that an output sends to a chip; none for one that goes to the host (R357, spec/15_taproot.md R409). -/
def Output.bytes : Output → Option Nat
  | .answer _ _ _ data _ _ => some data.length
  | .error _ _ => some 0
  | .ack _ _ _ => some 64
  | .watch _ _ _ _ _ => some 64
  | .report _ bytes => some bytes.length
  | _ => none

/-- What has left the module: what goes to a chip leaves by the up port with the fewest outstanding bytes, and does not leave
while no port is up, as after a thermal trip; what goes to the host leaves by the host port (R366, spec/15_taproot.md R405, R414,
log entry 26). -/
def State.emit (s : State) (o : Output) : State :=
  match o.bytes, s.choosePort none with
  | none, _ => { s with out := s.out ++ [o] }
  | some _, none => s
  | some n, some k => { s.sendOn k n with out := s.out ++ [o] }

end Sys2Proof.Machine
end

