-- ==== Sys2Proof/Machine/PoolCore.lean ====
section
/-!
DEFINITION. The tile pool behind its instructions: signature keys, release and grant of tiles, give-back, decrements
(spec/10_pool.md R286-R297).
-/

namespace Sys2Proof.Machine

/-- The signature key of a tile by the offset of its first byte, of a partition's configuration and of its use (R290). -/
def tileKey (off : Nat) : Nat := 0x8000000 + off / 512
/-- Kcfg (R290). -/
def cfgKey (k : Nat) : Nat := 0x8001000 + 2 * k
/-- Kuse (R290). -/
def useKey (k : Nat) : Nat := 0x8001001 + 2 * k

/-- The scratchpad offset of a tile of a partition (R286). -/
def Partition.off (p : Partition) (t : Nat) : Nat := p.base - 0x10000000 + t * 2 ^ p.szlog

/-- A tile of a partition. -/
def Partition.tile (p : Partition) (t : Nat) : Tile := mget p.tiles t ⟨.free, p.gen0, 0, 0, none⟩

/-- A partition with a tile written. -/
def Partition.setTile (p : Partition) (t : Nat) (x : Tile) : Partition := { p with tiles := mput p.tiles t x }

/-- An enabled partition of a cluster's pool. -/
def State.part (s : State) (gc k : Nat) : Option Partition := mfind (s.cluster gc).parts k

/-- A partition written. -/
def State.setPart (s : State) (gc k : Nat) (p : Partition) : State :=
  s.modCluster gc fun c => { c with parts := mput c.parts k p }

/-- A region with keys entered in its signatures (R155, R290). -/
def Region.keyed (r : Region) (rs ws : List Nat) : Region :=
  { r with
    rsig := rs.foldl (fun x k => x ||| keyBits k) r.rsig
    wsig := ws.foldl (fun x k => x ||| keyBits k) r.wsig }

/-- Does a waiter come before another (R293)? -/
def Waiter.before (a b : Waiter) : Bool :=
  if a.level ≠ b.level then b.level < a.level
  else if a.since ≠ b.since then a.since < b.since else slotIx a.slot ≤ slotIx b.slot

/-- The waiter to which a freed tile is granted (R293). -/
def firstWaiter : List Waiter → Option Waiter
  | [] => none
  | w :: ws => match firstWaiter ws with | none => some w | some v => if w.before v then some w else some v

/-- A tile is granted to a waiter: it is provisional in the waiter's open region (R293). -/
def State.grantTile (s : State) (gc k t : Nat) (p : Partition) (w : Waiter) : State :=
  let p1 := { p with waiters := p.waiters.filter (· != w) }
  (s.setPart gc k (p1.setTile t { p.tile t with state := .provisional })).modSlot w.slot fun x =>
      { x with
        grant := some (k, t)
        region := { x.region with res := { x.region.res with tiles := x.region.res.tiles ++ [(k, t, p.cfg, x.region.bundles)] } } }

/-- A tile becomes free: it is granted to a waiter, else it enters the free list at the head or the tail (R292, R293,
R297). -/
def State.releaseTile (s : State) (gc k t : Nat) (head : Bool) : State :=
  match s.part gc k with
  | none => s
  | some p =>
    let p1 := p.setTile t { p.tile t with state := .free, count := 0, life := 0, expiry := none }
    match firstWaiter p.waiters with
    | some w => s.grantTile gc k t p1 w
    | none => s.setPart gc k { p1 with free := if head then t :: p1.free else p1.free ++ [t] }

/-- The provisional tiles of a discarded region go back, the last allocated first; a partition configured since takes
none back (R292). -/
def State.giveBack (s : State) (gc : Nat) (ts : List (Nat × Nat × Nat × Nat)) : State :=
  ts.reverse.foldl (fun s r =>
    match s.part gc r.1 with
    | some p => if p.cfg = r.2.2.1 then s.releaseTile gc r.1 r.2.1 true else s
    | none => s) s

/-- A slot leaves the waiters of every partition (R291), and its RECV no longer waits (spec/11_messages.md R323). -/
def State.unwait (s : State) (g : Nat) : State :=
  s.modCluster (clusterOf g) fun c =>
    { c with
      parts := c.parts.map fun p => (p.1, { p.2 with waiters := p.2.waiters.filter fun w => w.slot != g })
      recvs := c.recvs.filter fun w => w.1 != g }

/-- The tiles that the open region of a slot holds, in the order of their allocation: those it has taken, then those kept
of a parked region that its replay has not taken yet (R292, spec/14_host.md R395). -/
def Region.held (r : Region) : List (Nat × Nat × Nat × Nat) := r.res.tiles ++ r.kept.tiles

/-- A tile put in its place among others by the bundle that took it, behind those of the same bundle. -/
def insertTile (t : Nat × Nat × Nat × Nat) : List (Nat × Nat × Nat × Nat) → List (Nat × Nat × Nat × Nat)
  | [] => [t]
  | u :: us => if t.2.2.2 < u.2.2.2 then t :: u :: us else u :: insertTile t us

/-- The slot's waits in the pool end, and its open region lets go of its tiles (R291). -/
def State.letGo (s : State) (g : Nat) : State :=
  (s.unwait g).modSlot g fun x =>
    { x with grant := none, region := { x.region with res := ⟨[], [], []⟩, kept := ⟨[], [], []⟩ } }

/-- The waits of some slots in the pool end and the tiles of their regions go back: a lone slot's in the order it took them,
a gang's in the order of its bundles, the leader's first (R291, R292). -/
def State.giveUpAll (s : State) (gs : List Nat) : State :=
  match gs with
  | [g] => (s.letGo g).giveBack (clusterOf g) (s.slot g).region.held
  | _ =>
    (gs.foldl (fun s g => s.letGo g) s).giveBack (clusterOf (gs.headD 0))
      ((gs.flatMap fun g => (s.slot g).region.held).foldl (fun ts t => insertTile t ts) [])

/-- The slot's waits in the pool end and the tiles its open region holds go back (R291, R292). -/
def State.giveUp (s : State) (g : Nat) : State := s.giveUpAll [g]

/-- Does a slot wait in TALLOC, or hold a tile granted to the TALLOC that has not run again yet (R291, R293)? -/
def State.tallocs (s : State) (g : Nat) : Bool :=
  (s.slot g).grant.isSome || (s.cluster (clusterOf g)).parts.any fun p => p.2.waiters.any fun w => w.slot == g

/-- Does the consuming request table hold an answered request for a tile at a generation (R297, R299)? -/
def State.quarantines (s : State) (gc k t gen : Nat) : Bool :=
  (s.cluster gc).served.any fun e => e.outcome == 0 && e.tile == some (k, t, gen)

/-- The freeing of a tile whose count has come to 0 (R297). -/
def State.freeTile (s : State) (gc k t : Nat) : State :=
  match s.part gc k with
  | none => s
  | some p =>
    let x := p.tile t
    let s1 := s.setPart gc k (p.setTile t { x with gen := (x.gen + 1) % 256, count := 0, life := 0, expiry := none, state := .quarantined })
    if s.quarantines gc k t x.gen then s1 else s1.releaseTile gc k t false

/-- n reads of a tile are taken; the last frees it (R297, R301). A giving up of no reads, or of reads of a tile that has none, changes
nothing. -/
def State.takeReads (s : State) (gc k t n : Nat) : State :=
  match s.part gc k with
  | none => s
  | some p =>
    let x := p.tile t
    if n = 0 ∨ x.count = 0 then s else if x.count ≤ n then s.freeTile gc k t else s.setPart gc k (p.setTile t { x with count := x.count - n })

/-- The tile of an enabled partition whose first byte is at an offset (R295): partition number, partition and tile. -/
def State.tileAt (s : State) (gc off : Nat) : Option (Nat × Partition × Nat) :=
  (s.cluster gc).parts.findSome? fun p =>
    let b := p.2.base - 0x10000000
    let d := off - b
    if b ≤ off ∧ off < b + p.2.count * 2 ^ p.2.szlog ∧ d % 2 ^ p.2.szlog = 0 then some (p.1, p.2, d / 2 ^ p.2.szlog) else none

/-- The tile of an enabled partition that holds the byte at an offset (R298). -/
def State.tileOf (s : State) (gc off : Nat) : Option (Nat × Partition × Nat) :=
  (s.cluster gc).parts.findSome? fun p =>
    let b := p.2.base - 0x10000000
    if b ≤ off ∧ off < b + p.2.count * 2 ^ p.2.szlog then some (p.1, p.2, (off - b) / 2 ^ p.2.szlog) else none

end Sys2Proof.Machine
end

