-- ==== Sys2Proof/Machine/Trap.lean ====
section
/-!
DEFINITION. Discarding a region, and taking an exception: the one trap entry of spec/01_engines.md R40-R44, the gang's
disbanding (spec/04_control.md R126), the double trap (R44), and the return from a trap (R137).
-/

namespace Sys2Proof.Machine

/-- A region is discarded: what it reserved is given back, the registers of R143 are put back, LAST takes the code
(R143, R144). The caller opens the next region. -/
def State.discard (s : State) (g last : Nat) : State :=
  (s.giveUp g).modSlot g fun x => x.discarded.withLast last

/-- The parked region of a slot is discarded: its reservations go back and PARKED returns to 0 (spec/14_host.md R395). -/
def State.dropParked (s : State) (g : Nat) : State :=
  match (s.slot g).parked with
  | none => s
  | some r => (s.modSlot g fun x => { x with parked := none }).giveBack (clusterOf g) r.res.tiles

/-- A discarded region runs again from its first bundle, with the same kind (R142, R157). -/
def State.rerun (s : State) (g last : Nat) : State :=
  let x := s.slot g
  (s.discard g last).openRegion g x.region.first x.region.atomic false

/-- A solo run ends: SOLO returns to 0 (R163). -/
def State.endSolo (s : State) (g : Nat) : State := s.modSlot g fun x => { x with solo := none, soloWait := none }

/-- The vector of a trap handler: TVEC[31:6] << 6 (R40). -/
def vectorOf (tvec : Word) : Word := tvec &&& 0xFFFFFFC0

/-- Is the open region kept by an asynchronous cause: opened by a commit, no bundle executed since (R40, log entry 11)? -/
def Slot.keeps (x : Slot) (async : Bool) : Bool := async && x.region.byCommit && x.region.bundles == 0

/-- The registers at the handler's first bundle: EPC, CAUSE, TVAL and STATUS.TA written (R40). -/
def Regs.trapped (r : Regs) (epc : Word) (cause : Word) (tval : Word) : Regs :=
  { r with epc := epc &&& 0xFFFFFFFC, cause := cause, tval := tval, status := withBit r.status 9 true }

/-- Trap entry on one slot (R40). A slot that waits in TALLOC has its region discarded (spec/10_pool.md R291, log entry 11).
`xpc` is the bundle of a synchronous cause (spec/02_encoding.md R62). -/
def State.enterTrap (s : State) (g code : Nat) (tval : Word) (async gang : Bool) (xpc : Option Word) : State :=
  let x := s.slot g
  let kept := x.keeps async && !s.tallocs g
  let s1 := if kept then s.giveUp g else (s.discard g 6).endSolo g
  (s1.modSlot g fun y =>
    { y with
      live := y.live.trapped x.region.first (causeWord async kept gang code) tval
      stat := { y.stat with ea := x.region.atomic }
      xpc := (xpc.map fun p => p &&& 0xFFFFFFFC).getD y.xpc
      wait := none
      walk := none
      pages := []
      hostWait := none }).modSlot g fun y => y.opened s1.mem (vectorOf y.live.tvec) false false

/-- A synchronous cause while TA = 1: the region is discarded, XPC names the bundle and the slot halts; Taproot logs both
causes and the slice is to leave with reason 7 (R44; spec/12_tasks.md R350; spec/15_taproot.md R419). -/
def State.doubleTrap (s : State) (g code : Nat) (pc : Word) : State :=
  let first := bits (s.slot g).live.cause 0 10
  (((s.rerun g 6).endSolo g).modSlot g fun x =>
    { x with halted := true, xpc := pc &&& 0xFFFFFFFC, wait := some (.leave (.failed 7 0 code)) }).logMachine 0x3E0 g [first, code]

/-- The kinds of access of the page-fault upcall (spec/14_host.md R394): 1 LDG, 2 SEQLD.A, 3 pull or watch, 4 send. -/
def upcallWords (a kind : Nat) : FMap Byte := placed 0x3F8 (leBytes 4 (a / 2 ^ 32 % 2 ^ 24) ++ leBytes 4 kind)

/-- The page-fault upcall: the region is parked, its effects dropped, the registers take their checkpoint values, and the
slot enters at the fibre scheduler (spec/14_host.md R394, R395). -/
def State.upcall (s : State) (g a kind : Nat) (gang : Bool) (pc : Word) : State :=
  let x := s.slot g
  let r := x.region
  let s1 := (s.unwait g).endSolo g
  (s1.modSlot g fun y =>
    { y.discarded.withLast 6 with
      live := (r.ckpt.restored y.live).trapped r.first (causeWord false true gang 0x381) (BitVec.ofNat 32 a)
      stat := { y.stat with last := 6, ea := r.atomic }
      xpc := pc &&& 0xFFFFFFFC
      scratch := (upcallWords a kind).foldl (fun m c => mput m c.1 c.2) y.scratch
      parked := some { r with effects := [], res := ⟨r.held, r.res.rings ++ r.kept.rings, r.res.keys ++ r.kept.keys⟩, kept := ⟨[], [], []⟩ } }).modSlot
    g fun y => y.opened s1.mem (vectorOf y.live.tvec + 0x40) false false

/-- A cause of one slot: synchronous when it names its bundle; 0x381 is the upcall for the walk that failed; Taproot logs an
uncorrectable error of a line (spec/15_taproot.md R419). -/
def State.takeCause (s : State) (g code : Nat) (tval : Word) (gang : Bool) (pc : Option Word) : State :=
  let s := if code = 0x3C1 then s.logMachine code g [tval.toNat] else s
  match pc with
  | none => s.enterTrap g code tval true gang none
  | some p =>
    if code = 0x381 then
      match (s.slot g).walk with
      | some w => s.upcall g w.addr w.kind gang p
      | none => s
    else if (s.slot g).live.ta then s.doubleTrap g code p else s.enterTrap g code tval false gang (some p)

/-- A slot leaves its gang: GSIZE and GLEAD become 0, and its slice's budget counts on its own core again (R125, R126,
spec/12_tasks.md R346, log entry 61). -/
def State.ungang (s : State) (g : Nat) : State :=
  let ck := s.ckOf (clusterOf g)
  s.modSlot g fun x =>
    { x with
      live := { x.live with status := x.live.status &&& 0xF1FFFFFF }
      slice := if x.live.gsize = 0 then x.slice else x.slice.map fun l => l.count ck true }

/-- A slot whose slice has failed: its region is discarded and it waits to leave (spec/12_tasks.md R345, R350). -/
def State.failOn (s : State) (g reason state code : Nat) : State :=
  ((s.rerun g 6).endSolo g).modSlot g fun x => { x with dispatching := false, wait := some (.leave (.failed reason state code)) }

/-- A slot that a double trap has halted ends its slice on every other slot of the slice (R44; spec/12_tasks.md R330, R350,
log entry 41). -/
def State.endHalted (s : State) (g : Nat) : State :=
  match (s.slot g).halted, (s.slot g).wait, (s.slot g).slice with
  | true, some (.leave (.failed reason state code)), some l =>
    ((s.slotsWith l.id).filter fun m => !(s.slot m).halted).foldl (fun s m => s.failOn m reason state code) s
  | _, _, _ => s

/-- A gang is disbanded by a trap: its members' regions let go of their tiles, but for those that an upcall parks; a member's
solo run ends, and a region that waits in TALLOC is none that a cause keeps (R126; spec/05_commit.md R163; spec/10_pool.md R291,
R292, log entries 11 and 60). -/
def State.disband (s : State) (causes : List (Nat × Option (Nat × Word × Option Word))) : State :=
  let gone := causes.filter fun c => match c.2 with | some (0x381, _, some _) => false | _ => true
  causes.foldl (fun t c =>
    let u := (t.ungang c.1).endSolo c.1
    if s.tallocs c.1 then u.modSlot c.1 fun x => { x with region := { x.region with byCommit := false } } else u)
    (s.giveUpAll (gone.map (·.1)))

/-- The causes of a gang's members at one boundary: the gang is disbanded, a member with a cause takes it, every other
member takes 0x021 with the core of the lowest member that had one (R126), also while its STATUS.TA is 1 (log entry 58).
A slot alone takes its own. A slice that a double trap has ended is ended on all its slots (R44). -/
def State.takeCauses (s : State) (causes : List (Nat × Option (Nat × Word × Option Word))) : State :=
  let gang := 1 < causes.length
  let s1 := if gang then s.disband causes else s
  let core := ((causes.find? fun c => c.2.isSome).map fun c => coreOf c.1).getD 0
  let s2 := causes.foldl (fun s c =>
    match c.2 with
    | some (code, v, pc) => s.takeCause c.1 code v gang pc
    | none => s.takeCause c.1 0x021 (BitVec.ofNat 32 core) gang none) s1
  causes.foldl (fun s c => s.endHalted c.1) s2

/-- An asynchronous cause becomes pending on a slot (R43, R45). -/
def State.postAsync (s : State) (g code : Nat) (tval : Word) : State :=
  s.modSlot g fun x => { x with async := x.async ++ [(code, tval)] }

/-- The order of asynchronous causes: machine causes first, then the lowest code (R43). -/
def asyncKey (code : Nat) : Nat := if 0x3C0 ≤ code then code - 0x3C0 else code + 0x400

/-- The pending asynchronous cause that is taken first (R43). -/
def firstAsync : List (Nat × Word) → Option (Nat × Word)
  | [] => none
  | c :: cs =>
    match firstAsync cs with
    | none => some c
    | some d => if asyncKey c.1 ≤ asyncKey d.1 then some c else some d

/-- Without the first pending cause equal to the given one. -/
def dropAsync : List (Nat × Word) → Nat × Word → List (Nat × Word)
  | [], _ => []
  | c :: cs, d => if c = d then cs else c :: dropAsync cs d

/-- The asynchronous cause that a slot takes at a boundary: none while TA is 1 (R43). -/
def Slot.takes (x : Slot) : Option (Nat × Word) := if x.live.ta then none else firstAsync x.async

/-- Asynchronous causes of a gang's members are taken, and no longer pend (R40, R43, R126); a pre-emption discards a parked
region (spec/14_host.md R395). -/
def State.takePending (s : State) (cs : List (Nat × Option (Nat × Word))) : State :=
  let s1 := cs.foldl (fun s c =>
    match c.2 with
    | some p =>
      let t := s.modSlot c.1 fun x => { x with async := dropAsync x.async p }
      if p.1 = 0x2C1 then t.dropParked c.1 else t
    | none => s) s
  if cs.any fun c => c.2.isSome then s1.takeCauses (cs.map fun c => (c.1, c.2.map fun p => (p.1, p.2, none))) else s

end Sys2Proof.Machine
end

