-- ==== Sys2Proof/Machine/Commit.lean ====
section
/-!
DEFINITION. The numbered commit: its bytes, stamps, trace entry, tokens and the conflicts it makes
(spec/01_engines.md R22-R30, spec/05_commit.md R149-R157, R162, R165).
-/

namespace Sys2Proof.Machine

/-- What the trace ring records of a commit, besides its number and signature (R165). -/
structure CommitRec where
  kind : Nat
  engine : Nat
  solo : Bool
  last : Nat
  slot : Nat
  pc : Word
  size : Word
  conf : Nat
  deriving DecidableEq, Repr

/-- The record of an engine's completion for a launching slot, a gang's follower under its own index (R165, log entry 59). -/
def engineRec (engine g : Nat) : CommitRec :=
  { kind := 1, engine := engine, solo := false, last := 0, slot := slotIx g, pc := 0, size := 0, conf := 0 }

/-- The record of a change by the owner's port (R165). -/
def portRec : CommitRec := { kind := 2, engine := 0, solo := false, last := 0, slot := 0, pc := 0, size := 0, conf := 0 }

/-- Word i of a trace entry (R165). -/
def CommitRec.word (r : CommitRec) (n : Nat) (wsig : BitVec 1024) (i : Nat) : Word :=
  match i with
  | 0 => BitVec.ofNat 32 n
  | 1 => BitVec.ofNat 32 (n / 2 ^ 32)
  | 2 => BitVec.ofNat 32 (r.kind * 2 ^ 28 + (if r.solo then 2 ^ 24 else 0) + r.last * 2 ^ 20 + r.engine * 2 ^ 16 + r.slot)
  | 3 => r.pc
  | 4 => r.size
  | 5 => BitVec.ofNat 32 r.conf
  | 6 => 0
  | 7 => 0
  | _ => BitVec.ofNat 32 (wsig.toNat / 2 ^ (32 * (i - 8)))

/-- The number of the next commit of a cluster. -/
def State.nextCommit (s : State) (gc : Nat) : Nat := (s.cluster gc).commits + 1

/-- Does the line range of a staging entry's tile or plane hold a line (spec/08_matrix.md R222)? -/
def Staging.touches (e : Staging) (gc : Nat) (lines : List Nat) : Bool :=
  let tile := if e.fmt = 0 then 8192 else if e.fmt < 3 then 4096 else 2048
  let plane := if e.fmt = 3 then 128 else if e.fmt = 4 then 256 else 0
  let inRange (a n : Nat) : Bool :=
    n != 0 && lines.any fun l => lineOf (flatRam gc a) ≤ l && l ≤ lineOf (flatRam gc (a + n - 1))
  inRange (e.addr.toNat - 0x10000000) tile || inRange (e.plane.toNat - 0x10000000) plane

/-- An answer to a watch leaves the owner: to the watcher's pull unit, or to the watching chip (spec/09_pull.md R267,
R268). -/
def State.answerWatch (s : State) (e : WatchEntry) (state stamp : Nat) : State :=
  if e.chip = s.chip then
    s.modCluster e.gc fun c =>
      { c with pull := { c.pull with watches := c.pull.watches.map fun w =>
          if w.id = e.id ∧ w.answer.isNone then { w with answer := some (state, stamp) } else w } }
  else s.emit (.watch e.chip e.gc e.id state stamp)

/-- Does the latest commit of a cluster satisfy a watch that waits: it has written the word's line, and leaves the word at the
threshold or above (R267)? -/
def State.satisfies (s : State) (gc : Nat) (e : WatchEntry) : Bool :=
  e.hit.isNone && mfind (s.cluster gc).stamps (lineOf e.addr) == some (s.cluster gc).commits && e.thr.toNat ≤ (s.ownWord e.addr).toNat

/-- The watches that the commit satisfies, at its end, are answered with its number and leave the table (R267, WATCH_SATISFIED). The
answer of a word of an alias waits until the commit has reached host memory (spec/14_host.md R401). -/
def State.satisfy (s : State) (gc : Nat) : State :=
  let n := (s.cluster gc).commits
  let hit := (s.cluster gc).watchers.filter fun e => s.satisfies gc e && (s.aliasOf e.addr).isNone
  let s1 := s.modCluster gc fun c =>
    { c with watchers := (c.watchers.filter fun e => !hit.contains e).map fun e =>
        if s.satisfies gc e then { e with hit := some (0x00, n) } else e }
  hit.foldl (fun s e => s.answerWatch e 0x00 n) s1

/-- Bytes that the latest commit of a cluster writes become visible; the stamps of their lines, the cleanness of weight
staging entries and the RECVs that await their words follow (R23, R30; spec/08_matrix.md R222; spec/11_messages.md R323). -/
def State.land (s : State) (gc : Nat) (ws : FMap Byte) : State :=
  let lines := linesOf ws
  (s.written (s.cluster gc).commits ws).modCluster gc fun c =>
    { c with
      stamps := lines.foldl (fun m l => mput m l c.commits) c.stamps
      recvs := c.recvs.filter fun w => !ws.any fun b => w.2 ≤ b.1 && b.1 < w.2 + 4
      mat := { c.mat with staging := c.mat.staging.map fun e =>
                 (e.1, if e.2.touches gc lines then { e.2 with clean := false } else e.2) } }

/-- A commit takes its number, and its bytes become visible (R22, R149). -/
def State.commitBegin (s : State) (gc : Nat) (ws : FMap Byte) : State :=
  (s.modCluster gc fun c => { c with commits := c.commits + 1 }).land gc ws

/-- A region of a gang or a slot is discarded by conflict and runs again (R157, R162): CONF counts it, and the eighth
makes the next run a solo run that waits for its start. -/
def State.conflict (s : State) (g : Nat) : State :=
  let ck := s.ckOf (clusterOf g)
  (s.gangOf g).foldl (fun s m =>
    (s.rerun m 5).modSlot m fun x =>
      let conf := min 8 (x.stat.conf + 1)
      { x with stat := { x.stat with conf := conf }, soloWait := if conf = 8 ∧ m = g then some ck else x.soloWait })
    (s.giveUpAll (s.gangOf g))

/-- Every open region of the cluster whose read signature meets a commit's write signature is discarded (R156), and every
such parked region (spec/14_host.md R395); a gang is named by its leader. -/
def State.conflicts (s : State) (gc : Nat) (self : List Nat) (wsig : BitVec 1024) : State :=
  let hit := (s.slotsOf gc).filter fun g =>
    !self.contains g && (s.slot g).slice.isSome && (s.slot g).region.rsig &&& wsig != 0
  let parked := (s.slotsOf gc).filter fun g =>
    match (s.slot g).parked with | some r => r.rsig &&& wsig != 0 | none => false
  let s1 := parked.foldl (fun s g => s.dropParked g) s
  ((hit.map fun g => (s.gangOf g).headD g).eraseDups).foldl (fun s g => s.conflict g) s1

/-- The commit is recorded in the trace ring when the trace control says so (R165). -/
def State.record (s : State) (gc : Nat) (r : CommitRec) (wsig : BitVec 1024) : State :=
  s.modCluster gc fun c =>
    if bit c.traceCtl 0 && (r.kind == 0 || !bit c.traceCtl 1) then
      { c with trace := mput c.trace (c.commits % 1024) (Vector.ofFn fun i => r.word c.commits wsig i) }
    else c

/-- The end of a commit: it is recorded, the regions it conflicts with are discarded, and the watches that it satisfies are
answered (R156, spec/09_pull.md R267). -/
def State.commitEnd (s : State) (gc : Nat) (r : CommitRec) (self : List Nat) (wsig : BitVec 1024) : State :=
  ((s.record gc r wsig).conflicts gc self wsig).satisfy gc

/-- Is a slot's solo run active: it ends when 16,384 ck have passed (R163)? -/
def State.soloActive (s : State) (g : Nat) : Bool :=
  match (s.slot g).solo with | some t => s.ckOf (clusterOf g) < t + Config.soloCk | none => false

/-- Is a solo run of another slot active, so that a commit waits (R163)? -/
def State.soloHolds (s : State) (gc : Nat) (self : List Nat) : Bool :=
  (s.slotsOf gc).any fun g => !self.contains g && s.soloActive g

/-- Does a commit write a line of a registered busy range (R152)? -/
def State.busyHolds (s : State) (gc : Nat) (lines : List Nat) : Bool :=
  (s.cluster gc).busy.any fun r => lines.any fun l => r.line ≤ l && l < r.line + r.lines

/-- Does a cluster's die stand still: its clock is being changed or stretched, or the module has tripped, so that no bundle
runs and no commit is made (spec/15_taproot.md R411, R414)? -/
def State.stopped (s : State) (gc : Nat) : Bool := s.man.trip || s.now < (s.die (dieOf gc)).since

/-- Is the commit of an engine's completion or of an owner-port change that writes some lines held (R152, R163;
spec/01_engines.md R46; spec/15_taproot.md R411, R414)? -/
def State.linesHeld (s : State) (gc : Nat) (lines : List Nat) : Bool :=
  s.stopped gc || (s.cluster gc).fenced || s.soloHolds gc [] || s.busyHolds gc lines

/-- A completion writes its token in the live register and the checkpoint copy and ends its pending mark
(spec/01_engines.md R26, R28, R143). -/
def Slot.withToken (x : Slot) (st : Nat) (v : Word) : Slot :=
  if h : st = 0 ∨ 32 ≤ st then x
  else
    let put (r : Regs) : Regs := { r with s := r.s.set st v (by omega), pend := withBit r.pend st false }
    { x with live := put x.live, region := { x.region with ckpt := put x.region.ckpt } }

/-- Have the bytes of a cluster's commit not all reached host memory (spec/14_host.md R401)? -/
def State.outward (s : State) (gc n : Nat) : Bool :=
  s.host.regions.any fun r => match r.2.alia with | some x => x.proxy == gc && x.through.any fun t => t.1 == n | none => false

/-- A token is written for the commit just begun in a cluster; it waits while the commit's bytes have not all reached host
memory (spec/14_host.md R401). -/
def State.writeToken (s : State) (gc g st state : Nat) : State :=
  let n := (s.cluster gc).commits
  let t := tokenWord state n
  if s.outward gc n then { s with host := { s.host with tokens := s.host.tokens ++ [(gc, n, g, st, t)] } }
  else s.modSlot g fun x => x.withToken st t

/-- Flags reach a slot's STATUS and its checkpoint copy (spec/08_matrix.md R239). -/
def State.orFlags (s : State) (g : Nat) (f : Flags) : State :=
  s.modSlot g fun x =>
    { x with live := { x.live with status := setFlags x.live.status f },
             region := { x.region with ckpt := { x.region.ckpt with status := setFlags x.region.ckpt.status f } } }

/-- The completion of an engine's operation: its bytes and its token form one commit (R22, R26). -/
def State.complete (s : State) (gc engine g st state : Nat) (ws : FMap Byte) : State :=
  ((s.commitBegin gc ws).writeToken gc g st state).commitEnd gc (engineRec engine g) [] (sigOf ws)

/-- A change by the owner's port: its bytes and the further keys of its write signature form one commit (R22, R155). -/
def State.portCommit (s : State) (gc : Nat) (ws : FMap Byte) (keys : List Nat) : State :=
  (s.commitBegin gc ws).commitEnd gc portRec [] (keys.foldl (fun x k => x ||| keyBits k) (sigOf ws))

/-- The commit of an agent of the cluster for no slot, such as a delivery or a task engine's change (R22, R165). -/
def State.agentCommit (s : State) (gc engine : Nat) (ws : FMap Byte) (keys : List Nat) : State :=
  (s.commitBegin gc ws).commitEnd gc (engineRec engine 0) [] (keys.foldl (fun x k => x ||| keyBits k) (sigOf ws))

/-- A slot's DISCARD is set, in its checkpoint too (spec/09_pull.md R276). -/
def Slot.markDiscard (x : Slot) : Slot :=
  let f (r : Regs) : Regs := { r with status := withBit r.status 16 true }
  { x with live := f x.live, region := { x.region with ckpt := f x.region.ckpt } }

/-- Do some places lie in a sealed or discarded range, which no write may reach (spec/14_host.md R397)? -/
def State.writesSealed (s : State) (ws : FMap Byte) : Bool := ws.any fun c => (s.sealOf c.1).isSome

end Sys2Proof.Machine
end

