-- ==== Sys2Proof/Machine/XlateCore.lean ====
section
/-!
DEFINITION. Translation of pod addresses, rights, coherence domains, remote keys and the owner's port's read
(spec/14_host.md R387-R391; spec/13_fabric.md R358-R361; spec/01_engines.md R36-R38; spec/09_pull.md R254).
-/

namespace Sys2Proof.Machine

/-! ## Pages -/

/-- Range k of a core's subpage ranges holds a pod address (R389). -/
def inRange (lo hi : Word) (a : Nat) : Bool :=
  let span := min 20 (bits hi 0 5) + 21
  bit hi 31 && a / 2 ^ span == (bits hi 5 3 * 2 ^ 32 + lo.toNat) * 2 ^ 21 / 2 ^ span

/-- Does a pod address lie in an enabled subpage range of a core (R389)? -/
def Core.subpaged (c : Core) (a : Nat) : Bool :=
  inRange c.psz[0] c.psz[1] a || inRange c.psz[2] c.psz[3] a || inRange c.psz[4] c.psz[5] a || inRange c.psz[6] c.psz[7] a

/-- The size of the page of an address on a core (R387). -/
def Core.pageSize (c : Core) (a : Nat) : Nat := if c.subpaged a then 1024 else 2 ^ 21

/-- Is a page that of an address on a core? -/
def Page.holds (p : Page) (c : Core) (a : Nat) : Bool :=
  p.size == c.pageSize a && p.base == a / c.pageSize a * c.pageSize a

/-- What a walk ends in (R387): a translation fault, a malformed entry, or the leaf. -/
inductive Walked where
  | fault
  | malformed
  | leaf (p : Page)
  deriving DecidableEq, Repr

/-- The words of entry i of a table (R388). A table in a fenced cluster is not read: its entries count as not valid
(spec/01_engines.md R46, log entry 67). -/
def State.tableEntry (s : State) (table : Nat × Nat) (i : Nat) : Word × Word × Word × Word :=
  let a := flatHbm table.1 (table.2 + 16 * i)
  if (s.cluster table.1).fenced then (0, 0, 0, 0) else (s.ownWord a, s.ownWord (a + 4), s.ownWord (a + 8), s.ownWord (a + 12))

/-- The table that a table entry names, of the given bytes (R387, R388). -/
def nextTable (e : Word × Word × Word × Word) (bytes : Nat) : Except Walked (Nat × Nat) :=
  let gc := bits e.1 18 12
  let off := bits e.1 0 18 * 0x4000
  if !bit e.2.1 31 then .error .fault
  else if !bit e.2.1 29 || e.2.1 &&& 0x5FFFFFFF != 0 || bits e.1 30 2 != 0 || e.2.2.1 != 0 || e.2.2.2 != 0
      || !isMem gc || Config.clusters ≤ gc || hbmSize < off + bytes then .error .malformed
  else .ok (gc, off)

/-- The page that a leaf entry gives (R388). -/
def leafPage (e : Word × Word × Word × Word) (base size : Nat) : Walked :=
  if !bit e.2.1 31 then .fault
  else if bit e.2.1 29 || bits e.2.1 25 4 != 0 || bits e.2.2.1 27 5 != 0 || 4 < bits e.2.2.1 24 3 || e.2.2.2 != 0 then .malformed
  else
    .leaf { base := base, size := size, key := e.1.toNat, disc := bit e.2.1 30, chip := bits e.2.1 15 10,
            off := bits e.2.1 0 15 * 1024, cdom := bits e.2.2.1 24 3, domain := bits e.2.2.1 0 16,
            own := bits e.2.2.1 16 4, other := bits e.2.2.1 20 4 }

/-- The walk of a pod address for a core (R387). -/
def State.walk (s : State) (core a : Nat) : Walked :=
  let size := (s.core core).pageSize a
  let base := a / size * size
  match nextTable (s.tableEntry (s.root.1, s.root.2 * 0x4000) (a / 2 ^ 44 % 4096)) 0x10000 with
  | .error w => w
  | .ok t2 =>
    match nextTable (s.tableEntry t2 (a / 2 ^ 32 % 4096)) 0x8000 with
    | .error w => w
    | .ok t3 =>
      let e3 := s.tableEntry t3 (a / 2 ^ 21 % 2048)
      if size = 2 ^ 21 then leafPage e3 base size
      else
        match nextTable e3 0x8000 with
        | .error w => w
        | .ok t4 => leafPage (s.tableEntry t4 (a / 1024 % 2048)) base size

/-! ## Rights -/

/-- The rights of a page for a domain (R390). -/
def Page.rights (p : Page) (domain : Nat) : Nat := if p.domain = domain then p.own else p.other

/-- RD, ACQ, CON and SND of a rights nibble (R388). -/
def rdRight : Nat := 1
/-- ACQ. -/
def acqRight : Nat := 2
/-- CON. -/
def conRight : Nat := 4
/-- SND. -/
def sndRight : Nat := 8

/-- Does a rights nibble hold all of some rights? -/
def hasRights (have_ need : Nat) : Bool := have_ &&& need == need

/-- The outcome of a translation with its rights check (R390). -/
inductive Trans where
  /-- A walk is needed. -/
  | wait
  | cause (code : Nat)
  | ok (p : Page)
  deriving DecidableEq, Repr

/-- The rights that the protection lookaside buffer of a core caches for a domain and a page. -/
def Core.cached (c : Core) (domain a : Nat) : Option Nat :=
  (c.plb.find? fun e => e.domain == domain && e.size == c.pageSize a && e.page == a / c.pageSize a * c.pageSize a).map PlbEntry.rights

/-- The leaf for an address on a slot's core that the translation cache of its cluster holds, or that a walk has found for the bundle
that the slot still stalls on (R390). -/
def State.leafOf (s : State) (g a : Nat) : Option Page :=
  ((s.cluster (clusterOf g)).xcache ++ (s.slot g).pages).find? fun p => p.holds (s.core (g / 4)) a

/-- The lookup of an address with the rights that an operation needs: the PLB, the translation cache, else a walk
(R390). -/
def State.lookup (s : State) (g domain a need : Nat) : Trans :=
  let leaf := s.leafOf g a
  match ((s.core (g / 4)).cached domain a).or (leaf.map fun p => p.rights domain) with
  | none => .wait
  | some r =>
    if !hasRights r need then .cause 0x380
    else match leaf with | some p => .ok p | none => .wait

/-- The translation of an address for the bundle of a slot; a walk that has failed gives its cause: the upcall where it is
enabled (R390, R394). -/
def State.translate (s : State) (g a need : Nat) : Trans :=
  let x := s.slot g
  match s.lookup g x.domain a need with
  | .wait =>
    match x.walk with
    | some ⟨b, _, some malformed⟩ =>
      let c := s.core (g / 4)
      if c.pageSize a = c.pageSize b ∧ a / c.pageSize a = b / c.pageSize a then
        .cause (if malformed then 0x383
          else if bit x.plbcfg 1 && !x.live.ta && x.parked.isNone then 0x381 else 0x382)
      else .wait
    | _ => .wait
  | t => t

/-- The PLB of a core with the rights of a page for a domain; the oldest of more than 64 entries goes (R390). -/
def State.fillPlb (s : State) (g domain : Nat) (p : Page) : State :=
  s.modCore (g / 4) fun c =>
    if c.plb.any fun e => e.domain == domain && e.page == p.base && e.size == p.size then c
    else { c with plb := (⟨domain, p.base, p.size, p.rights domain⟩ :: c.plb).take 64 }

/-- The translation cache of a cluster with a page; the oldest of more than 1,024 goes (R390). -/
def State.fillX (s : State) (gc : Nat) (p : Page) : State :=
  s.modCluster gc fun c =>
    { c with xcache := (p :: c.xcache.filter fun q => !(q.base == p.base && q.size == p.size)).take 1024 }

/-- The translation of a footprint range's address, with the walk made at once (R343, R390): the page, or the cause that
a slot would have taken. -/
def State.translateNow (s : State) (g domain a : Nat) : Except Nat Page :=
  match s.lookup g domain a rdRight with
  | .ok p => .ok p
  | .cause c => .error c
  | .wait =>
    match s.walk (g / 4) a with
    | .fault => .error 0x382
    | .malformed => .error 0x383
    | .leaf p => if hasRights (p.rights domain) rdRight then .ok p else .error 0x380

/-! ## Owners -/

/-- The owner cluster of a page (R356, R358). -/
def Page.owner (p : Page) : Nat := p.key % 4096

/-- Does a cluster of the module stand within the coherence domain of a page (spec/01_engines.md R38)? -/
def State.within (s : State) (gc : Nat) (p : Page) : Bool :=
  match p.cdom with
  | 0 => p.chip == s.chip && p.owner == gc
  | 1 => p.chip == s.chip && dieOf p.owner == dieOf gc
  | 2 => p.chip == s.chip
  | _ => true

/-- A peer-table entry. -/
def State.peer (s : State) (chip : Nat) : Peer := mget s.peers chip Peer.reset
/-- A peer-table entry changed. -/
def State.modPeer (s : State) (chip : Nat) (f : Peer → Peer) : State := { s with peers := mput s.peers chip (f (s.peer chip)) }
/-- Is a chip another chip of KIND foreign, or not known as Punosko (R354)? -/
def State.foreign (s : State) (chip : Nat) : Bool := chip != s.chip && (s.peer chip).kind != .punosko

/-- The kinds of request that a key permits (R358). -/
inductive Ask where
  | read
  | digest
  | acquire
  | digestAcquire
  | consume
  | message
  deriving DecidableEq, Repr

/-- The flag of a key that a kind of request needs (R358). -/
def Ask.flag : Ask → Nat
  | .read => 0
  | .digest => 0
  | .acquire => 1
  | .digestAcquire => 1
  | .consume => 2
  | .message => 3

/-- Is a request an acquire (R273)? -/
def Ask.acquires (a : Ask) : Bool := a == .acquire || a == .digestAcquire

/-- The kind code of a violation record (R363). -/
def Ask.kind : Ask → Nat
  | .read => 1
  | .digest => 1
  | .acquire => 2
  | .digestAcquire => 2
  | .consume => 3
  | .message => 4

/-- Bit i of a key's flags. -/
def KeyEntry.flag (e : KeyEntry) (i : Nat) : Bool := e.flags / 2 ^ i % 2 == 1

/-- A key of an owner's port. -/
def State.keyOf (s : State) (gc key : Nat) : Option KeyEntry := (s.cluster gc).keys.find? fun e => e.key == key

/-- The reason why an owner's port refuses a request by its key, as the violation log codes it, if it does (R359, R363):
the request comes from a chip, for `len` bytes from an offset of the key's base on. -/
def State.keyFault (s : State) (gc key chip : Nat) (ask : Ask) (off len : Nat) : Option Nat :=
  match s.keyOf gc key with
  | none => some 1
  | some e =>
    if e.revoked.isSome then some 2
    else if !e.flag ask.flag then some 3
    else if e.len < off + len then some 4
    else if s.foreign chip && (!e.flag 4 || ask.acquires || ask == .consume) then some 5
    else if e.flag 5 && !((ask == .digest || ask == .digestAcquire) && s.partners.contains chip) then some 3
    else none

/-- The stamp of a line of a cluster (R30). -/
def State.stamp (s : State) (gc line : Nat) : Nat := mget (s.cluster gc).stamps line 0

/-- The line at a flat address as its owner's port returns it (R254). -/
def State.lineAt (s : State) (gc a : Nat) : Answer :=
  let b := a / 64 * 64
  .line (s.ownBytes b 64) (s.stamp gc (lineOf b)) ((List.range 64).any fun i => s.isDiscarded (b + i))

/-- The flat address behind a pod address, where its page's key is registered in this module. -/
def State.flatOf (s : State) (p : Page) (a : Nat) : Option Nat :=
  (s.keyOf p.owner p.key).map fun e => e.base + p.off + (a - p.base)

/-- The local address of a byte of owner memory by flat address (spec/03_numbers.md R92). -/
def localAddr (a : Nat) : Nat :=
  let o := a % 2 ^ 33
  if o < 2 ^ 32 then (0x80000000 + o) % 2 ^ 32
  else if o < 2 ^ 32 + 2 ^ 24 then 0x10000000 + (o - 2 ^ 32)
  else (o - 2 ^ 32 - 2 ^ 24) % 2 ^ 18

/-- Does a page lie in a fenced cluster of this module, so that its translation yields STATE 0x43 (spec/01_engines.md R46)? -/
def State.cutOff (s : State) (p : Page) : Bool := p.chip == s.chip && (s.cluster p.owner).fenced

/-- Does an acquire of the line of a pod address wait for host memory: the line's latest commits have not reached it
(spec/01_engines.md R39, spec/14_host.md R401)? -/
def State.acquireWaits (s : State) (p : Page) (ask : Ask) (a : Nat) : Bool :=
  ask.acquires && p.chip == s.chip && (match s.flatOf p (a / 64 * 64) with | some f => s.writingThrough (lineOf f) | none => false)

/-- The record of a refusal by an owner's port (spec/13_fabric.md R363). -/
def State.refusal (s : State) (gc : Nat) (ask : Ask) (reason chip who key off : Nat) : Violation :=
  { kind := ask.kind, reason := reason, chip := chip, who := who, key := key,
    addr := match s.keyOf gc key with | some e => localAddr (e.base + off) | none => off }

/-- What the owner's port of a cluster of this module answers to the read of a line by a cluster of the module, and the
refusal that it logs (R254, R359, R363, R46); a discarded page reads zeros without a request (R390). -/
def State.portLine (s : State) (who : Nat) (p : Page) (ask : Ask) (a : Nat) : Answer × Option Violation :=
  let line := a / 64 * 64
  let gc := p.owner
  let off := p.off + (line - p.base)
  if s.cutOff p then (.fail 0x43, none)
  else if p.disc then (.line (List.replicate 64 0) 0 true, none)
  else
    match s.keyFault gc p.key s.chip ask off 64 with
    | some r => (.fail 0x40, some (s.refusal gc ask r s.chip who p.key off))
    | none =>
      match s.flatOf p line with
      | some f => (if (s.faultyIn [(f, 64)]).isSome then .fail 0x81 else s.lineAt gc f, none)
      | none => (.fail 0x40, none)

/-- The read of a line is served, and a refusal is logged (R254, R19). -/
def State.serveLine (s : State) (who : Nat) (p : Page) (ask : Ask) (a : Nat) : Answer × State :=
  let r := s.portLine who p ask a
  (r.1, match r.2 with | some v => s.logRefusal p.owner v | none => s)

end Sys2Proof.Machine
end

