-- ==== Sys2Proof/Machine/FabricCore.lean ====
section
/-!
DEFINITION. Requests to peers: the queue of each peer, answers, and a failed peer
(spec/13_fabric.md R366-R373).
-/

namespace Sys2Proof.Machine

/-! ## Answers to operations of a pull unit -/

/-- A cluster's pull unit changed. -/
def State.modPull (s : State) (gc : Nat) (f : PullUnit → PullUnit) : State := s.modCluster gc fun c => { c with pull := f c.pull }

/-- The pull unit of a cluster. -/
def State.pull (s : State) (gc : Nat) : PullUnit := (s.cluster gc).pull

/-- The number of the next operation of a pull unit. -/
def State.takeId (s : State) (gc : Nat) : Nat × State :=
  ((s.pull gc).nextId, s.modPull gc fun u => { u with nextId := u.nextId + 1 })

/-- A registration whose report does not come ends with 0x43 (spec/13_fabric.md R372, R376). -/
def State.failAttest (s : State) (gc id : Nat) : State :=
  match s.attests.find? fun a => a.id == id && (match a.ckreg with | some c => c.1 == gc | none => false) with
  | some a =>
    match a.ckreg with
    | some (_, g, st, _) =>
      { s with attests := s.attests.erase a }.pushDone gc { engine := 5, slot := g, st := st, state := 0x43, disc := false, no := id }
    | none => s
  | none => s

/-- The answer to a request reaches the operation that asked; a later one is dropped (spec/09_pull.md R259, R268, R272,
R274; spec/11_messages.md R319). -/
def State.answerOp (s : State) (gc id : Nat) (asked : Asked) (a : Answer) : State :=
  match asked with
  | .fetch => s.modPull gc fun u =>
    { u with fetches := u.fetches.map fun f => if f.id = id ∧ f.answer.isNone then { f with answer := some a } else f }
  | .line n => s.modPull gc fun u => { u with ops := u.ops.map fun o =>
      if o.id = id ∧ (mfind o.lines n).isNone then { o with lines := mput o.lines n a } else o }
  | .consume => s.modPull gc fun u => { u with ops := u.ops.map fun o =>
      if o.id = id ∧ (mfind o.lines 0).isNone then { o with lines := mput o.lines 0 a } else o }
  | .message => s.modPull gc fun u => { u with sends := u.sends.map fun x =>
      if x.id = id ∧ x.answer.isNone then { x with answer := some (match a with | .line _ _ _ => 0x00 | .fail n => n) } else x }
  | .watch => s.modPull gc fun u => { u with watches := u.watches.map fun w =>
      match a with
      | .fail n => if w.id = id ∧ w.answer.isNone then { w with answer := some (n, 0) } else w
      | _ => w }
  | .attest => match a with | .fail _ => s.failAttest gc id | _ => s

/-! ## Requests (R369, R373) -/

/-- The requests of a peer that have been sent. -/
def State.sentTo (s : State) (chip : Nat) : List Request := s.reqs.filter fun r => r.chip == chip && r.first.isSome

/-- Is a request the given one? -/
def Request.is (r : Request) (gc id : Nat) (asked : Asked) : Bool := r.gc == gc && r.id == id && r.asked == asked

/-- The requests that satisfy a test are kept. -/
def State.keepRequests (s : State) (f : Request → Bool) : State := { s with reqs := s.reqs.filter f }

/-- The oldest waiting request of a peer is sent while the peer's queue has room (R373). -/
def State.pump (s : State) (chip : Nat) : State :=
  match s.reqs.find? fun r => r.chip == chip && r.first.isNone with
  | none => s
  | some r =>
    if 1024 ≤ (s.sentTo chip).length then s
    else
      match s.choosePort none with
      | none => (s.keepRequests (· != r)).answerOp r.gc r.id r.asked (.fail 0x43)
      | some k =>
        let s1 := (if (s.sentTo chip).isEmpty then s.modPeer chip fun p => { p with busySince := s.now } else s).sendOn k r.bytes
        { s1 with reqs := s1.reqs.map fun q => if q = r then { q with first := some s.now, last := s.now, sends := 1, port := k } else q }

/-- A request to another chip: a failed or absent peer is unreachable (R372), else the request joins the peer's queue. -/
def State.request (s : State) (chip gc id : Nat) (asked : Asked) (bytes : Nat) : State :=
  let p := s.peer chip
  if p.failed || p.kind == .absent then s.answerOp gc id asked (.fail 0x43)
  else
    let r : Request :=
      { chip := chip, gc := gc, id := id, asked := asked, bytes := bytes, first := none, last := s.now, sends := 0, port := 0 }
    let s1 : State := { s with reqs := s.reqs ++ [r] }
    s1.pump chip

/-- An outstanding request ends, and the next one of its peer's queue is sent. -/
def State.endRequest (s : State) (r : Request) : State := (s.keepRequests (· != r)).pump r.chip

/-- A peer has sent an answer (R372). -/
def State.heard (s : State) (chip : Nat) : State := s.modPeer chip fun p => { p with answered := s.now }

/-- The answer of a peer to a request: none is taken for a request that is not outstanding (R369). Its flits are counted at
the port of the request (R364, log entry 26). -/
def State.peerAnswer (s : State) (gc id : Nat) (asked : Asked) (a : Answer) : State :=
  match s.reqs.find? fun r => r.is gc id asked && r.first.isSome with
  | none => s
  | some r => (((s.hearOn r.port r.bytes).heard r.chip).endRequest r).answerOp gc id asked a

/-- The requests of an operation that no longer waits are forgotten, and the next ones of their peer's queue are sent. -/
def State.dropRequests (s : State) (gc id : Nat) : State :=
  (s.reqs.filter fun r => r.gc == gc && r.id == id).foldl (fun s r => s.endRequest r) s

/-- Does a request that waits at an owner's port come from a chip? -/
def PortItem.from (i : PortItem) (chip : Nat) : Bool :=
  match i with
  | .peerPullc h _ _ _ => h.chip == chip
  | .order c _ _ => c == chip
  | .ringWrite h _ => h.chip == chip
  | _ => false

/-- A peer is declared failed: its outstanding requests and the watches on its words end with 0x43, and its own requests
that wait are dropped (R372). -/
def State.failPeer (s : State) (chip : Nat) : State :=
  let mine := s.reqs.filter fun r => r.chip == chip
  let quiet : State :=
    { s with
      parts := s.parts.filter fun p => p.chip != chip
      orders := s.orders.map fun o => if o.chip = chip then { o with waiting := [] } else o }
  let s1 := mine.foldl (fun s r => s.answerOp r.gc r.id r.asked (.fail 0x43))
    ((quiet.keepRequests fun r => r.chip != chip).modPeer chip fun p => { p with failed := true })
  (s1.clusters.map (·.1)).foldl (fun (s : State) gc => s.modCluster gc fun c =>
    { c with
      watchers := c.watchers.filter fun e => e.chip != chip
      inbound := c.inbound.filter fun i => !i.from chip
      pull := { c.pull with watches := c.pull.watches.map fun w =>
        if w.page.chip = chip ∧ w.answer.isNone then { w with answer := some (0x43, 0) } else w } }) s1

end Sys2Proof.Machine
end

