-- ==== Sys2Proof/Machine/MatrixCore.lean ====
section
/-!
DEFINITION. The matrix engine behind its instructions: operand ranges, launches, the arithmetic of a pass, the Onion's
groups, completions and cancellation (spec/08_matrix.md R220-R247; spec/03_numbers.md R98-R100; spec/05_commit.md R150-R152).
-/

namespace Sys2Proof.Machine

/-! ## Descriptors and operand ranges -/

/-- ACC of a descriptor (R225). -/
def descAcc (d : Word) : Nat := bits d 28 4
/-- ROW0 of a descriptor. -/
def descRow0 (d : Word) : Nat := bits d 22 6
/-- M of a descriptor. -/
def descM (d : Word) : Nat := bits d 15 7
/-- NOW of a descriptor. -/
def descNow (d : Word) : Bool := bit d 14
/-- MDOFF of a descriptor. -/
def descMdoff (d : Word) : Nat := bits d 0 11

/-- Bytes of one A row: types 0 bf16, 1 e4m3, 2 e5m2, 3 b4 (R223). -/
def rowBytes (sparse : Bool) (ty : Nat) : Nat :=
  (if ty = 0 then 128 else if ty < 3 then 64 else 32) * (if sparse then 2 else 1)

/-- Bytes of a weight tile and of its scale plane by format (R223). -/
def tileBytes (fmt : Nat) : Nat := if fmt = 0 then 8192 else if fmt < 3 then 4096 else 2048

/-- Bytes of a scale plane by format (R223). -/
def planeBytes (fmt : Nat) : Nat := if fmt = 3 then 128 else if fmt = 4 then 256 else 0

/-- Scale bytes of one A row. -/
def scaleBytes (sparse : Bool) : Nat := if sparse then 4 else 2

/-- The step from one A row to the next: the stride, or the packed row of b4 (R223). -/
def rowStep (sparse : Bool) (ty : Nat) (c : Word) : Nat := if ty = 3 then rowBytes sparse 3 else c.toNat

/-- The ranges that an operation reads after its launch, as address and length (R150). -/
def MatOp.reads (op : MatOp) (a b c : Word) : List (Nat × Nat) :=
  match op with
  | .mwld fmt => (a.toNat, tileBytes fmt) :: if planeBytes fmt = 0 then [] else [(b.toNat, planeBytes fmt)]
  | .mma sparse ty =>
    let m := descM b
    (a.toNat, (m - 1) * rowStep sparse ty c + rowBytes sparse ty)
      :: (if ty = 3 then [(c.toNat, m * scaleBytes sparse)] else [])
      ++ (if sparse then [(0x10000000 + descMdoff b * 1024, 1024)] else [])
  | .mdrain _ _ _ true => [(a.toNat, descM b * 256)]
  | _ => []

/-- The ranges that a command fetches at its enqueue: each A row, then the scale bytes and the metadata, or the rows of a
fill; bytes between strided rows are not fetched (R223, R229, R233). -/
def MatOp.fetches (op : MatOp) (a b c : Word) : List (Nat × Nat) :=
  match op with
  | .mma sparse ty =>
    (List.range (descM b)).map (fun i => (a.toNat + i * rowStep sparse ty c, rowBytes sparse ty))
      ++ (if ty = 3 then [(c.toNat, descM b * scaleBytes sparse)] else [])
      ++ (if sparse then [(0x10000000 + descMdoff b * 1024, 1024)] else [])
  | .mdrain _ _ _ true => [(a.toNat, descM b * 256)]
  | _ => []

/-- The range that a drain writes (R233). -/
def MatOp.writes (op : MatOp) (a b : Word) : List (Nat × Nat) :=
  match op with
  | .mdrain bf16 _ _ false => [(a.toNat, descM b * (if bf16 then 128 else 256))]
  | _ => []

/-- The accumulator that a command names (R237). -/
def MatOp.acc (op : MatOp) (b : Word) : Option Nat :=
  match op with
  | .mma _ _ => some (descAcc b)
  | .mzero _ => some (descAcc b)
  | .mdrain _ _ _ _ => some (descAcc b)
  | _ => none

/-- The flat address of a scratchpad address. -/
def flatPad (gc a : Nat) : Nat := flatRam gc (a - 0x10000000)

/-- The busy range of a byte range of the scratchpad: whole lines (R150). -/
def busyOf (gc engine op : Nat) (r : Nat × Nat) : BusyRange :=
  let first := lineOf (flatPad gc r.1)
  { line := first, lines := lineOf (flatPad gc (r.1 + r.2 - 1)) - first + 1, engine := engine, op := op }

/-- The lowest byte of a list of ranges that lies in a partition of another domain (R229). -/
def State.foreignByte (s : State) (gc domain : Nat) (rs : List (Nat × Nat)) : Option Nat :=
  let hits := rs.filterMap fun r => ((List.range r.2).find? fun i => s.otherPool domain (flatPad gc (r.1 + i))).map fun i => r.1 + i
  hits.foldl (fun m a => some (match m with | none => a | some b => min a b)) none

/-! ## Launches -/

/-- The ranges of an operation are released (R151). -/
def State.release (s : State) (gc engine op : Nat) : State :=
  s.modCluster gc fun c => { c with busy := c.busy.filter fun r => !(r.engine == engine && r.op == op) }

/-- The priority level of a slot's slice. -/
def Slot.level (x : Slot) : Nat := match x.slice with | some l => l.prio | none => 0

/-- A matrix launch at its commit: the command enters its core's queue and its ranges are registered (R150, R236). -/
def State.launchMat (s : State) (g : Nat) (op : MatOp) (st : Nat) (a b c : Word) : State :=
  let gc := clusterOf g
  let x := s.slot g
  s.modCluster gc fun k =>
    let q := k.mat.nextSeq
    let cmd : MatCmd :=
      { seq := q, slot := g, st := st, op := op, a := a, b := b, c := c, level := x.level,
        domain := BitVec.ofNat 16 x.domain,
        fetch := if (op.fetches a b c).isEmpty then .none else .pending, stage := .queued, entry := none }
    { k with
      busy := k.busy ++ (op.reads a b c).map (busyOf gc 0 q)
      mat := { k.mat with cmds := k.mat.cmds ++ [cmd], nextSeq := q + 1 } }

/-- The uncompleted commands of a core (R236). -/
def Matrix.queueOf (m : Matrix) (core : Nat) : Nat := (m.cmds.filter fun c => coreOf c.slot == core).length

/-- The uncompleted commands of a slot. -/
def Matrix.ofSlot (m : Matrix) (g : Nat) : List MatCmd := m.cmds.filter fun c => c.slot == g

/-- The least of some numbers. -/
def leastOf (l : List Nat) : Option Nat := match l with | [] => none | x :: xs => some (xs.foldl min x)

/-- The engine of a cluster changed. -/
def State.modMat (s : State) (gc : Nat) (f : Matrix → Matrix) : State := s.modCluster gc fun c => { c with mat := f c.mat }

/-- The engine of a cluster. -/
def State.mat (s : State) (gc : Nat) : Matrix := (s.cluster gc).mat

/-- A command of an engine by its number. -/
def Matrix.cmd (m : Matrix) (seq : Nat) : Option MatCmd := m.cmds.find? fun c => c.seq == seq

/-- A command of an engine changed. -/
def Matrix.setCmd (m : Matrix) (c : MatCmd) : Matrix :=
  { m with cmds := m.cmds.map fun x => if x.seq = c.seq then c else x }

/-- Bytes of the scratchpad from a RAW address on. -/
def State.padBytes (s : State) (gc a n : Nat) : List Byte := s.ownBytes (flatPad gc a) n

/-! ## Accumulators -/

/-- Row r, column n of an accumulator. -/
def Matrix.elem (m : Matrix) (k r n : Nat) : Word :=
  let t := mget m.acc k (Vector.replicate 64 (Vector.replicate 64 0))
  if h : r < 64 ∧ n < 64 then t[r][n] else 0

/-- Rows of an accumulator written by row and column. -/
def Matrix.setRows (m : Matrix) (k row0 cnt : Nat) (f : Nat → Nat → Word) : Matrix :=
  let t : AccTile := Vector.ofFn fun r => Vector.ofFn fun n =>
    if row0 ≤ r.val ∧ r.val < row0 + cnt then f (r.val - row0) n.val else m.elem k r.val n.val
  { m with acc := mput m.acc k t }

/-! ## The arithmetic of a pass (R223, R229-R231; spec/03_numbers.md R98-R100) -/

/-- A byte of a list. -/
def byteAt (bs : List Byte) (i : Nat) : Nat := (bs.getD i 0).toNat

/-- An element of a row or column of bytes by type: bf16, e4m3 or e5m2. -/
def elemAt (ty : Nat) (bs : List Byte) (o : Nat) : FVal :=
  match ty with
  | 0 => fmtBF16.decode (byteAt bs o + 256 * byteAt bs (o + 1))
  | 1 => fmtE4M3.decode (byteAt bs o)
  | _ => fmtE5M2.decode (byteAt bs o)

/-- Code k of packed 4-bit codes from a byte on (spec/03_numbers.md R88). -/
def codeAt (bs : List Byte) (o k : Nat) : Nat := byteAt bs (o + k / 2) / (if k % 2 = 1 then 16 else 1) % 16

/-- Element k of an A row. -/
def rowElem (ty : Nat) (row scales : List Byte) (k : Nat) : FVal :=
  match ty with
  | 0 => elemAt 0 row (2 * k)
  | 3 => b4Value (byteAt scales (k / 32)) (codeAt row 0 k)
  | t => elemAt t row k

/-- Stored value s of column n of a weight tile, with the scale byte of its block: 32 stored values a block in a dense
tile, 16 in a sparse one. -/
def weightElem (sparse : Bool) (ty : Nat) (tile plane : List Byte) (n k : Nat) : FVal :=
  match ty with
  | 0 => elemAt 0 tile (128 * k + 2 * n)
  | 3 => b4Value (byteAt plane (if sparse then 4 * n + k / 16 else 2 * n + k / 32)) (codeAt (tile.drop (32 * n)) 0 k)
  | t => elemAt t tile (64 * k + n)

/-- The metadata half-byte of group j of column n (R223). -/
def metaOf (mdata : List Byte) (n j : Nat) : Nat := byteAt mdata (16 * n + j / 2) / (if j % 2 = 1 then 16 else 1) % 16

/-- The set bits of a half-byte, lowest first. -/
def nibbleBits (h : Nat) : List Nat := (List.range 4).filter fun b => h / 2 ^ b % 2 = 1

/-- The index of the first metadata byte with a half-byte that has not exactly two bits set: the lowest of several (R230,
R251, log entry 65). -/
def badMeta (mdata : List Byte) : Option Nat :=
  (List.range 1024).find? fun i =>
    (nibbleBits (byteAt mdata i % 16)).length != 2 || (nibbleBits (byteAt mdata i / 16)).length != 2

/-- The stored row that expanded row k of column n takes, or none where it is skipped (R230). -/
def storedRow (mdata : List Byte) (n k : Nat) : Option Nat :=
  match nibbleBits (metaOf mdata n (k / 4)) with
  | [b0, b1] => if k % 4 = b0 then some (k / 4 * 2) else if k % 4 = b1 then some (k / 4 * 2 + 1) else none
  | _ => none

/-- The product of row k, as its operands; a skipped row counts a signed zero for a finite A only (R231). -/
def product (a : FVal) (w : Option FVal) : List (FVal × FVal) :=
  match w with
  | some v => [(a, v)]
  | none =>
    match a with
    | .fin s m e => [(.fin s m e, .fin false 0 0)]
    | _ => []

/-- One output element over its groups, with the flags it raises (R98). -/
def accumulate (acc : Word) (groups : List (List (FVal × FVal))) : Word × Flags :=
  groups.foldl (fun a g =>
    let r := groupRound g
    let t := accAdd (f32 a.1) (f32 r.1)
    (t.1, a.2 ||| r.2 ||| t.2)) (acc, 0)

/-- The groups of one output element: 16 values of K a group, or 32 for b4 (R98, R100). -/
def groupsOf (sparse : Bool) (ty : Nat) (row scales tile plane mdata : List Byte) (n : Nat) : List (List (FVal × FVal)) :=
  let sz := if ty = 3 then 32 else 16
  let k := if sparse then 128 else 64
  (List.range (k / sz)).map fun g =>
    (List.range sz).flatMap fun j =>
      let i := g * sz + j
      product (rowElem ty row scales i)
        (if sparse then (storedRow mdata n i).map (weightElem true ty tile plane n) else some (weightElem false ty tile plane n i))

/-- The rows that a member of a pass leaves in its accumulator, with the flags of its rows (R229). -/
def Matrix.multiply (m : Matrix) (c : MatCmd) (sparse : Bool) (ty : Nat) : Vector (Vector (Word × Flags) 64) 64 :=
  match c.fetch, (c.entry.bind fun e => mfind m.staging e).bind Staging.data with
  | .done rows scales mdata, some (tile, plane) =>
    Vector.ofFn fun i => Vector.ofFn fun n =>
      if i.val < descM c.b then
        accumulate (m.elem (descAcc c.b) (descRow0 c.b + i.val) n.val)
          (groupsOf sparse ty (rows.getD i.val []) (scales.getD i.val []) tile plane mdata n.val)
      else (0, 0)
  | _, _ => Vector.replicate 64 (Vector.replicate 64 (0, 0))

/-- The metadata of a command, once it is in staging. -/
def MatCmd.meta (c : MatCmd) : Option (List Byte) :=
  match c.op, c.fetch with
  | .mma true _, .done _ _ m => some m
  | _, _ => none

/-- The fault of a fetched MMA or MMAS: its STATE, asynchronous cause and address (R229, R230). -/
def MatCmd.fetchFault (c : MatCmd) : Option (Nat × Nat × Nat) :=
  match c.fetch with
  | .fault a => some (0x40, 0x150, a.toNat)
  | .error a => some (0x81, 0x153, a.toNat)
  | .done _ _ m =>
    match c.op with
    | .mma true _ => (badMeta m).map fun i => (0x82, 0x154, 0x10000000 + descMdoff c.b * 1024 + i)
    | _ => none
  | _ => none

/-! ## The Onion (R241-R244) -/

/-- The hold budget of a priority level (R243). -/
def holdBudget (level : Nat) : Nat :=
  if level < 4 then 1023 else if level < 8 then 256 else if level < 12 then 64 else if level < 15 then 16 else 0

/-- The key of a request: staging entry, operation, format and MDOFF (R242). -/
def MatCmd.key (c : MatCmd) : Option Nat × MatOp × Nat :=
  (c.entry, c.op, match c.op with | .mma true _ => descMdoff c.b | _ => 0)

/-- The commands of a group, in order of joining. -/
def Matrix.cmdsOf (m : Matrix) (g : Group) : List MatCmd := g.members.filterMap fun k => m.cmd k.seq

/-- The rows of a group. -/
def Matrix.rowsOf (m : Matrix) (g : Group) : Nat := (m.cmdsOf g).foldl (fun n c => n + descM c.b) 0

/-- Does the tile of a staging entry lie in a partition that confines stacking to its domain (R242)? -/
def State.confined (s : State) (gc : Nat) (e : Staging) : Bool :=
  (s.cluster gc).parts.any fun p =>
    p.2.conf && p.2.base < e.addr.toNat + tileBytes e.fmt && e.addr.toNat < p.2.base + p.2.count * 2 ^ p.2.szlog

/-- Cross-domain stacking is on in a cluster (spec/15_taproot.md R411). -/
def State.xstk (s : State) (gc : Nat) : Bool := bit (s.modeOf gc) 2

/-- May a request join a group (R242)? -/
def State.joins (s : State) (gc : Nat) (c : MatCmd) (g : Group) : Bool :=
  let m := s.mat gc
  let cs := m.cmdsOf g
  match cs with
  | [] => false
  | r :: _ =>
    let entry := c.entry.bind fun e => mfind m.staging e
    r.key == c.key && m.rowsOf g + descM c.b ≤ 64
      && ((cs.all fun x => x.domain == c.domain) || (s.xstk gc && !(match entry with | some e => s.confined gc e | none => false)))
      && (match r.meta, c.meta with | some x, some y => x == y | _, _ => true)

/-- The first group of a list that satisfies a test gets a member; none found opens a new one. -/
def joinFirst (f : Group → Bool) (k : Member) : List Group → List Group
  | [] => [{ members := [k], due := false }]
  | g :: gs => if f g then { g with members := g.members ++ [k] } :: gs else g :: joinFirst f k gs

/-- The due time of a group: the least of E + H over its present members (R244). -/
def Group.dueAt (g : Group) : Nat := match leastOf (g.members.map fun k => k.entered + k.hold) with | some d => d | none => 0

/-- A request joins the oldest group that admits it, or opens one; 64 rows make a group due (R242, R244). -/
def State.joinOnion (s : State) (gc : Nat) (c : MatCmd) (k : Member) : State :=
  let m := s.mat gc
  let gs := joinFirst (s.joins gc c) k m.groups
  s.modMat gc fun m => { m with groups := gs.map fun g => if 64 ≤ m.rowsOf g then { g with due := true } else g }

/-- Members go out of their groups. A group that they made due is due no longer, and one that is left empty ceases to exist
(R244, R247). -/
def State.takeMembers (s : State) (gc : Nat) (seqs : List Nat) : State :=
  let ck := s.ckOf gc
  s.modMat gc fun m =>
    { m with groups := (m.groups.map fun g =>
        let h : Group := { g with members := g.members.filter fun k => !seqs.contains k.seq }
        { h with due := g.due && (h.dueAt ≤ ck || 64 ≤ m.rowsOf h) }).filter fun g => !g.members.isEmpty }

/-- Members leave their group and enter again, keeping their entry time and hold (R244). -/
def State.leaveGroup (s : State) (gc : Nat) (ks : List Member) : State :=
  ks.foldl (fun s k => match (s.mat gc).cmd k.seq with | some c => s.joinOnion gc c k | none => s)
    (s.takeMembers gc (ks.map Member.seq))

/-- Members whose metadata differs from that of the oldest present member (R242, R244). -/
def Matrix.misfits (m : Matrix) (g : Group) : List Member :=
  match (m.cmdsOf g).head?.bind MatCmd.meta with
  | none => []
  | some x => g.members.filter fun k =>
    match (m.cmd k.seq).bind MatCmd.meta with
    | some y => y != x
    | none => false

/-- Metadata is compared, where it has come into staging or another member has become the oldest; members that differ leave.
At most 16 groups are open (R242). -/
def State.regroupIn (s : State) (gc : Nat) : Nat → State
  | 0 => s
  | n + 1 =>
    match (s.mat gc).groups.findSome? fun g => match (s.mat gc).misfits g with | [] => none | ks => some ks with
    | some ks => (s.leaveGroup gc ks).regroupIn gc n
    | none => s

/-- The groups after a change of their members or of what is in staging (R242). -/
def State.regroup (s : State) (gc : Nat) : State := s.regroupIn gc 16

/-! ## Completions (R26, R239, R247) -/

/-- Staging entries that no binding and no command refers to are freed; the array's latch forgets them (R222). -/
def Matrix.tidy (m : Matrix) : Matrix :=
  { m with staging := m.staging.filter fun e =>
      (m.bind.any fun b => b.2 == e.1) || (m.cmds.any fun c => c.entry == some e.1) }

/-- The accumulator port falls free, if it serves a command. -/
def Matrix.freePort (m : Matrix) (seq : Nat) : Matrix :=
  if m.port.cmd = some seq then { m with port := { m.port with cmd := none } } else m

/-- A command leaves the engine. -/
def Matrix.drop (m : Matrix) (seq : Nat) : Matrix := { m.freePort seq with cmds := m.cmds.filter fun c => c.seq != seq }

/-- A command completes: its change of the engine, its bytes and its token form one commit; its flags go to the launching
slot (R26, R239). -/
def State.completeMat (s : State) (gc : Nat) (c : MatCmd) (state : Nat) (ws : FMap Byte) (f : Flags)
    (change : Matrix → Matrix) : State :=
  let s1 := ((s.release gc 0 c.seq).modMat gc fun m => ((change m).drop c.seq).tidy).commitBegin gc ws
  ((s1.writeToken gc c.slot c.st state).orFlags c.slot f).commitEnd gc (engineRec 0 c.slot) [] (sigOf ws)

/-- A command completes with a STATE and no other effect. -/
def State.failMat (s : State) (gc : Nat) (c : MatCmd) (state : Nat) : State := s.completeMat gc c state [] 0 id

/-- A command completes with a STATE and an asynchronous cause for its slot (R45). -/
def State.faultMat (s : State) (gc : Nat) (c : MatCmd) (state code addr : Nat) : State :=
  (s.failMat gc c state).postAsync c.slot code (BitVec.ofNat 32 addr)

/-- Has the work of a command ended, so that only its completion commit is to come? -/
def MatCmd.isEnded (c : MatCmd) : Bool := match c.stage with | .ended _ _ => true | _ => false

/-- The work of a command has ended: it leaves the Onion, its ranges are released, and its completion is ready to commit
(R151, R239, R247). -/
def State.endMat (s : State) (gc : Nat) (c : MatCmd) (state : Nat) (cause : Option (Nat × Nat)) : State :=
  ((((s.release gc 0 c.seq).takeMembers gc [c.seq]).modMat gc fun m =>
    m.setCmd { c with stage := .ended state cause }).regroup gc).pushDone gc
      { engine := 0, slot := c.slot, st := c.st, state := state, disc := false, no := c.seq }

/-- A member of a pass completes: its rows, its token and its flags (R229, R239, R246). -/
def State.endMember (s : State) (gc : Nat) (c : MatCmd) (sparse : Bool) (ty : Nat) : State :=
  let r := (s.mat gc).multiply c sparse ty
  let at_ (i n : Nat) : Word × Flags := if h : i < 64 ∧ n < 64 then r[i][n] else (0, 0)
  let f := (List.range (descM c.b)).foldl (fun x i => (List.range 64).foldl (fun x n => x ||| (at_ i n).2) x) 0
  s.completeMat gc c 0x00 [] f fun m => m.setRows (descAcc c.b) (descRow0 c.b) (descM c.b) fun i n => (at_ i n).1

/-- A command whose work has ended completes: a pass's member with its rows, any other with its STATE and its cause. -/
def State.finishMat (s : State) (gc : Nat) (c : MatCmd) : State :=
  match c.stage with
  | .ended state (some (code, addr)) => s.faultMat gc c state code addr
  | .ended state none =>
    match c.op with
    | .mma sparse ty => if state = 0 then s.endMember gc c sparse ty else s.failMat gc c state
    | _ => s.failMat gc c state
  | _ => s

/-- A ready completion is committed: a matrix command's that the engine still holds, or a token and DISCARD (R26). -/
def State.finishDone (s : State) (gc : Nat) (d : Done) : State :=
  match if d.engine = 0 then (s.mat gc).cmd d.no else none with
  | some c => s.finishMat gc c
  | none => (if d.disc then s.modSlot d.slot Slot.markDiscard else s).complete gc d.engine d.slot d.st d.state []

/-- A ready completion is committed, if it still waits (R156). -/
def State.tryDone (s : State) (gc : Nat) (t : Nat × Done) : State :=
  if (s.cluster gc).ready.contains t then (s.modCluster gc fun c => { c with ready := c.ready.erase t }).finishDone gc t.2 else s

/-! ## Ownership and cancellation (R221, R240) -/

/-- Does a slot own an accumulator, with its domain (R221)? -/
def Matrix.owns (m : Matrix) (k g : Nat) : Bool := match mfind m.owner k with | some o => o.1 == g | none => false

/-- Every accumulator of a slot is freed (R221). -/
def Matrix.freeAcc (m : Matrix) (g : Nat) : Matrix := { m with owner := m.owner.filter fun o => o.2.1 != g }

/-- Does a cancellation end a command: it has not started, or lies in the Onion (R240)? -/
def MatCmd.cancels (c : MatCmd) : Bool := c.stage == .queued || c.stage == .onion

/-- The commands of a slot that a failure or a cancel of its slice cancels, each to complete with 0x44 (R240): those that
have not started, and those in the Onion that have not issued. -/
def State.cancelMat (s : State) (g : Nat) : State :=
  let gc := clusterOf g
  let m := s.mat gc
  let issued := match m.array with | some (.pass qs) => qs | _ => []
  ((m.ofSlot g).filter fun c => c.cancels && !issued.contains c.seq).foldl (fun s c => s.endMat gc c 0x44 none) s

end Sys2Proof.Machine
end

