-- ==== Sys2Proof/Machine/PullCore.lean ====
section
/-!
DEFINITION. The pull unit behind its instructions: launches, lines, completions, watches and cancellation
(spec/09_pull.md R253-R278; spec/05_commit.md R150-R152).
-/

namespace Sys2Proof.Machine

/-! ## Lines of an operation -/

/-- The lines that cover some rows of bytes, each once, as line numbers. -/
def linesOfRows (rows : List Nat) (len : Nat) : List Nat :=
  (rows.flatMap fun a => (List.range ((a + len - 1) / 64 - a / 64 + 1)).map fun i => a / 64 + i).dedup

/-- The page of a list that holds a pod address. -/
def pageAt (pages : List Page) (a : Nat) : Option Page := pages.find? fun p => p.base ≤ a && a < p.base + p.size

/-- What an operation asks of an owner's port (R254, spec/13_fabric.md R358). -/
def PullKind.ask : PullKind → Ask
  | .pull acq => if acq then .acquire else .read
  | .pulld acq _ => if acq then .digestAcquire else .digest
  | .take => .acquire
  | .footprint acq _ => if acq then .acquire else .read
  | .refresh acq _ => if acq then .acquire else .read
  | .pullc _ => .consume
  | _ => .read

/-- Is an operation an acquire (R273)? -/
def PullKind.acquires (k : PullKind) : Bool := k.ask.acquires

/-- Does an operation read its own cluster's memory (R271, R275)? -/
def PullKind.isLocal : PullKind → Bool
  | .cpy => true
  | .verify _ => true
  | _ => false

/-- The memory of a cluster that a flat address lies in: HBM, scratchpad or shared SRAM, TCM of a core. -/
def memoryOf (a : Nat) : Nat :=
  let o := a % 2 ^ 33
  if o < 2 ^ 32 then 0 else if o < 2 ^ 32 + 2 ^ 24 then 1 else 2 + (o - 2 ^ 32 - 2 ^ 24) / 2 ^ 18

/-- The smallest run of lines that covers the rows in one memory (spec/05_commit.md R150). -/
def coverRows (rows : List Nat) (len engine op : Nat) : List BusyRange :=
  ((rows.map memoryOf).dedup).filterMap fun m =>
    match rows.filter fun a => memoryOf a == m with
    | [] => none
    | a :: as =>
      let lo := as.foldl min a
      let hi := as.foldl max a + len - 1
      some { line := lo / 64, lines := hi / 64 - lo / 64 + 1, engine := engine, op := op }

/-- The ranges that a pull-unit launch registers (spec/05_commit.md R150). -/
def pullRanges (kind : PullKind) (src : List Nat) (len op : Nat) : List BusyRange :=
  match kind with
  | .cpy => coverRows src len 1 op
  | .verify dig => coverRows src len 1 op ++ coverRows [dig] 64 1 op
  | _ => []

/-! ## Cleaning the reader cache (R261) -/

/-- The number under which an owner is known to a reader cache. -/
def ownerId (chip owner : Nat) : Nat := chip * 4096 + owner

/-- An acquire of an owner at a stamp: its older lines are dropped, and a fetch in flight brings none of them (R261). -/
def State.clean (s : State) (gc chip owner k : Nat) : State :=
  s.modPull gc fun u =>
    { u with
      cache := u.cache.filter fun l => !(l.chip == chip && l.owner == owner && l.stamp < k)
      fetches := u.fetches.map fun f =>
        if f.page.chip = chip ∧ f.page.owner = owner then { f with floor := max k f.floor } else f }

/-! ## Completions -/

/-- The slice number of the slice on a slot. -/
def Slot.sliceId (x : Slot) : Nat := match x.slice with | some l => l.id | none => 0

/-- A footprint pull of a slot's slice ends: with STATE 0x00 or 0x02 it no longer runs, any other fails the dispatch
(spec/12_tasks.md R343, R350). -/
def Slot.footDone (x : Slot) (range state code : Nat) : Slot :=
  { x with
    slice := x.slice.map fun l => { l with pulling := l.pulling.filter (· != range) }
    footFail := if state = 0x00 ∨ state = 0x02 then x.footFail else x.footFail.or (some (state, code)) }

/-- An operation leaves the pull unit. -/
def State.dropOp (s : State) (gc id : Nat) : State :=
  ((s.release gc 1 id).dropRequests gc id).modPull gc fun u => { u with ops := u.ops.filter fun o => o.id != id }

/-- An operation ends without writing memory: its token waits for its commit, or its slice's dispatch fails (R276). -/
def State.failPull (s : State) (gc : Nat) (o : PullOp) (state : Nat) (disc : Bool) : State :=
  let s1 := s.dropOp gc o.id
  match o.kind with
  | .footprint _ k => s1.modSlot o.slot fun x => if x.sliceId = o.slice then x.footDone k state 0 else x
  | _ => s1.pushDone gc { engine := 1, slot := o.slot, st := o.st, state := state, disc := disc, no := o.id }

/-- The STATE of the first line of an operation that failed, if any: of several the lowest line's, the model's choice (log entry
74). -/
def PullOp.failure (o : PullOp) : Option Nat :=
  o.lines.findSome? fun l => match l.2 with | .fail n => some n | _ => none

/-- The byte of an answered line at a pod address. -/
def PullOp.byte (o : PullOp) (a : Nat) : Byte :=
  match mfind o.lines (a / 64) with
  | some (.line d _ _) => d.getD (a % 64) 0
  | _ => 0

/-- Every line of an operation has been answered (R272). -/
def PullOp.complete (o : PullOp) : Bool := (linesOfRows o.src o.len).all fun n => (mfind o.lines n).isSome

/-- Some line came from a discarded page (R276). -/
def PullOp.disc (o : PullOp) : Bool := o.lines.any fun l => match l.2 with | .line _ _ d => d | _ => false

/-- The greatest stamp of the lines (R273). -/
def PullOp.stamp (o : PullOp) : Nat :=
  o.lines.foldl (fun k l => match l.2 with | .line _ n _ => max k n | _ => k) 0

/-- Bytes by row written from the destination rows on; the higher row is written last (R257). -/
def placeRows (dst : List Nat) (len : Nat) (f : Nat → Nat → Byte) : FMap Byte :=
  (dst.zipIdx).flatMap fun r => (List.range len).map fun i => (r.1 + i, f r.2 i)

/-- The destination bytes of an operation whose lines have arrived (R276). -/
def PullOp.gather (o : PullOp) : FMap Byte := placeRows o.dst o.len fun r i => o.byte (o.src.getD r 0 + i)

/-- May a completion write some bytes: none in another domain's partition (R276), none sealed or discarded
(spec/14_host.md R397)? -/
def State.mayWrite (s : State) (domain : Nat) (ws : FMap Byte) : Bool :=
  !(ws.any fun c => s.otherPool domain c.1) && !s.writesSealed ws

/-- A completion writes its bytes and its token in one commit; a footprint pull's token goes to the task engine. -/
def State.finishPull (s : State) (gc : Nat) (o : PullOp) (state : Nat) (disc : Bool) (ws : FMap Byte) : State :=
  let s1 := s.dropOp gc o.id
  let s2 := if disc then s1.modSlot o.slot Slot.markDiscard else s1
  match o.kind with
  | .footprint _ k =>
    ((s2.commitBegin gc ws).modSlot o.slot fun x => if x.sliceId = o.slice then x.footDone k state 0 else x).commitEnd gc
      (engineRec 1 o.slot) [] (sigOf ws)
  | _ => s2.complete gc 1 o.slot o.st state ws

/-! ## Launches -/

/-- Why an operation is refused at its launch, as a STATE: an acquire over several owners, from outside the domain or of
a foreign owner, and a consuming pull of a foreign owner (R273; spec/13_fabric.md R374). A PULLD of a foreign owner without ACQ is sent
as plain reads: the model's choice (log entry 76). -/
def State.pullRefused (s : State) (gc : Nat) (kind : PullKind) (pages : List Page) : Bool :=
  let owners := (pages.map fun p => ownerId p.chip p.owner).dedup
  let foreign := pages.any fun p => s.foreign p.chip
  match kind with
  | .pullc _ => foreign
  | _ => kind.acquires && (foreign || 1 < owners.length || pages.any fun p => !s.within gc p)

/-- A line of a new operation: a discarded page needs no request, and is in the wrong state for a TAKE; another chip's line
is asked for (R272, R276; spec/14_host.md R396, R402). -/
def State.askLine (s : State) (gc id : Nat) (kind : PullKind) (pages : List Page) (n : Nat) : State :=
  match pageAt pages (64 * n) with
  | none => s
  | some p =>
    if p.disc then s.answerOp gc id (.line n) (if kind = .take then .fail 0x84 else .line (List.replicate 64 0) 0 true)
    else if p.chip = s.chip then s
    else s.request p.chip gc id (.line n) 64

/-- Does a page go on from another: the same range of its owner's memory under the same key? -/
def Page.follows (q p : Page) : Bool :=
  q.base == p.base + p.size && q.chip == p.chip && q.key == p.key && q.disc == p.disc && (p.disc || q.off == p.off + p.size)

/-- Do the pages of a run of bytes go on from one another, in the order of their addresses, so that the bytes can lie within one tile
(R274, log entry 70)? -/
def runsOn : List Page → Bool
  | p :: q :: ps => q.follows p && runsOn (q :: ps)
  | _ => true

/-- A pull-unit operation at its launch commit (R253, R271-R275). -/
def State.launchPull (s : State) (g : Nat) (kind : PullKind) (st : Nat) (src dst : List Nat) (len : Nat) (pages : List Page)
    (domain : Nat) : State :=
  let gc := clusterOf g
  let (id, s1) := s.takeId gc
  let o : PullOp :=
    { id := id, slot := g, st := st, kind := kind, src := src, dst := dst, len := len, pages := pages, domain := domain,
      slice := (s.slot g).sliceId, lines := [], bytes := none }
  if pages.any fun p => s.cutOff p then s1.failPull gc o 0x43 false
  else if s.pullRefused gc kind pages then s1.failPull gc o 0x40 false
  else
    let s2 := (s1.modPull gc fun u => { u with ops := u.ops ++ [o] }).modCluster gc fun c =>
      { c with busy := c.busy ++ pullRanges kind src len id }
    match kind with
    | .cpy => s2
    | .verify _ => s2
    | .pullc _ =>
      match pages with
      | p :: _ =>
        if !runsOn pages then s1.failPull gc o 0x82 false
        else if p.disc then s2.answerOp gc id .consume (.line (List.replicate len 0) 0 true)
        else if p.chip = s.chip then s2 else s2.request p.chip gc id .consume len
      | [] => s2
    | _ => (linesOfRows src len).foldl (fun s n => s.askLine gc id kind pages n) s2

/-! ## Watches (R267-R270) -/

/-- A placement of a watch as it reaches an owner's port: the watching chip, cluster and watch, the requester's slot or
identifier, the key and offset, the threshold, and whether only the state at placement counts (R267). -/
structure Placement where
  chip : Nat
  gc : Nat
  id : Nat
  who : Nat
  key : Nat
  off : Nat
  thr : Word
  once : Bool
  deriving DecidableEq, Repr

/-- The owner's port takes a placement or a refresh; the answer of a word of an alias whose latest commit has not reached host memory
waits for it (R267, R254; spec/13_fabric.md R371; spec/14_host.md R401). -/
def State.placeWatch (s : State) (owner : Nat) (p : Placement) : State :=
  let e0 : WatchEntry := { chip := p.chip, gc := p.gc, id := p.id, addr := 0, thr := p.thr, key := p.key, hit := none }
  if (s.cluster owner).fenced then s.answerWatch e0 0x43 0
  else
    match s.keyFault owner p.key p.chip .acquire p.off 4, s.keyOf owner p.key with
    | none, some k =>
      let a := k.base + p.off
      let e := { e0 with addr := a }
      let reached : Bool := p.thr.toNat ≤ (s.ownWord a).toNat
      let add (e : WatchEntry) : State := s.modCluster owner fun c => { c with watchers := c.watchers ++ [e] }
      if reached && !s.writingThrough (lineOf a) then s.answerWatch e 0x01 (s.stamp owner (lineOf a))
      else if (s.cluster owner).watchers.any fun w => w.chip == p.chip && w.gc == p.gc && w.id == p.id then s
      else if reached then add { e with hit := some (0x01, s.stamp owner (lineOf a)) }
      else if p.once then s.answerWatch e 0x42 0
      else if 1024 ≤ ((s.cluster owner).watchers.filter fun w => w.hit.isNone).length then s.answerWatch e 0x80 0
      else add e
    | r, _ => (s.logRefusal owner (s.refusal owner .acquire (r.getD 1) p.chip p.who p.key p.off)).answerWatch e0 0x40 0

/-- The placement of a watch of this module. -/
def Watch.placement (w : Watch) (chip gc : Nat) : Placement :=
  { chip := chip, gc := gc, id := w.id, who := w.slot, key := w.page.key, off := w.page.off + (w.addr - w.page.base),
    thr := w.thr, once := w.once }

/-- A watch at its launch commit: placed at the own port, ended in a fenced cluster, refused from outside the domain and for a
foreign owner, or sent to the owner, of another chip by a request of its own (R267; spec/01_engines.md R46;
spec/13_fabric.md R366, R372, R374). -/
def State.launchWatch (s : State) (g st addr : Nat) (page : Page) (thr : Word) (timeout : Option Nat) : State :=
  let gc := clusterOf g
  let (id, s1) := s.takeId gc
  let w : Watch :=
    { id := id, slot := g, st := st, slice := (s.slot g).sliceId, addr := addr, page := page, thr := thr,
      expiry := timeout.map fun d => s.ckOf gc + d, once := timeout == some 0, placed := false, answer := none,
      heldAnswer := none, cancel := none, sent := s.now, acked := s.now }
  let fail (n : Nat) : State := s1.pushDone gc { engine := 1, slot := g, st := st, state := n, disc := false, no := id }
  let add (w : Watch) : State := s1.modPull gc fun u => { u with watches := u.watches ++ [w] }
  if page.chip = s.chip ∧ page.owner = gc then (add { w with placed := true }).placeWatch gc (w.placement s.chip gc)
  else if s.cutOff page then fail 0x43
  else if !s.within gc page || s.foreign page.chip then fail 0x40
  else if page.chip = s.chip then add w
  else (add w).request page.chip gc id .watch 64

/-- A watch leaves the pull unit, with its withdrawal, and its entry leaves the owner's port (R267, R269). -/
def State.dropWatch (s : State) (gc : Nat) (w : Watch) : State :=
  ((s.dropRequests gc w.id).modCluster gc fun c =>
    { c with
      ready := c.ready.filter fun r => r.2.work != .cancel w.id
      pull := { c.pull with watches := c.pull.watches.filter fun x => x.id != w.id } }).modCluster w.page.owner fun c =>
    if w.page.chip = s.chip then
      { c with watchers := c.watchers.filter fun e => !(e.chip == s.chip && e.gc == gc && e.id == w.id) }
    else c

/-- A watch completes with a STATE and no acquire. -/
def State.endWatch (s : State) (gc : Nat) (w : Watch) (state : Nat) : State :=
  (s.dropWatch gc w).pushDone gc { engine := 1, slot := w.slot, st := w.st, state := state, disc := false, no := w.id }

/-- WCANCEL at its commit: an answer that the pull unit holds stands, and an expiry that has come wins. The watch is withdrawn when
the ck has passed, in which an answer still wins (R269). -/
def State.cancelWatch (s : State) (g st : Nat) : State :=
  let gc := clusterOf g
  let ck := s.ckOf gc
  match (s.pull gc).watches.find? fun w =>
      w.slot == g && w.st == st && w.slice == (s.slot g).sliceId && w.heldAnswer.isNone && w.cancel.isNone with
  | some w =>
    let expired : Bool := match w.expiry with | some t => t ≤ ck | none => false
    if bit (s.slot g).live.pend st then
      (s.modPull gc fun u => { u with watches := u.watches.map fun x => if x.id = w.id then { x with cancel := some ck } else x }).pushDone gc
        { engine := 1, slot := g, st := st, state := if expired then 0x42 else 0x44, disc := false, no := w.id, work := .cancel w.id }
    else s
  | none => s

/-- The withdrawal of a watch is committed, if it has not been answered (R269). -/
def State.tryCancel (s : State) (gc id : Nat) (t : Nat × Done) : State :=
  match (s.pull gc).watches.find? fun w => w.id == id with
  | some w => if (s.cluster gc).ready.contains t then (s.dropWatch gc w).finishDone gc t.2 else s
  | none => s

/-- Every pending watch of a slot's slice completes with 0x44 (R270). -/
def State.endWatches (s : State) (g : Nat) : State :=
  let gc := clusterOf g
  ((s.pull gc).watches.filter fun w => w.slot == g && w.slice == (s.slot g).sliceId && w.cancel.isNone).foldl
    (fun s w => s.endWatch gc w 0x44) s

/-- Has an operation started: some of its bytes have been read (R270, log entry 15)? -/
def PullOp.started (o : PullOp) : Bool := !o.lines.isEmpty || o.bytes.isSome

/-- The operations of a failed slice that have not started complete with 0x44 (R270); a TAKE, whose token has no such STATE,
runs on (spec/14_host.md R402). -/
def State.cancelPulls (s : State) (g : Nat) : State :=
  let gc := clusterOf g
  ((s.pull gc).ops.filter fun o => o.slot == g && !o.started && o.kind != .take).foldl (fun s o => s.failPull gc o 0x44 false) s

end Sys2Proof.Machine
end

