-- ==== Sys2Proof/Machine/MessageCore.lean ====
section
/-!
DEFINITION. Rings and sends behind their instructions: reservation, opening, closing, delivery and launches
(spec/11_messages.md R310-R325; spec/13_fabric.md R367).
-/

namespace Sys2Proof.Machine

/-! ## Rings -/

/-- Ring k of a core's ring table (R310). -/
def Core.ring (c : Core) (k : Nat) : Ring := mget c.rings k Ring.reset

/-- The bytes that a ring occupies (R311). -/
def ringBytes (logn : Nat) : Nat := 256 + 64 * 2 ^ logn

/-- The rings that the regions of a core's slots have reserved (R315, spec/14_host.md R395). -/
def State.reservedRings (s : State) (core : Nat) : List (Nat × Word × Nat) :=
  (List.range 4).flatMap fun i =>
    let x := s.slot (core * 4 + i)
    x.region.res.rings ++ x.region.kept.rings ++ (match x.parked with | some r => r.res.rings | none => [])

/-- The header addresses and sizes of the cluster's rings that are open or reserved (R315). -/
def State.ringsOf (s : State) (gc : Nat) : List (Nat × Nat) :=
  (List.range 8).flatMap fun c =>
    (((s.core (gc * 8 + c)).rings.filter fun r => r.2.isOpen).map fun r => (r.2.header.toNat, ringBytes r.2.logn))
      ++ (s.reservedRings (gc * 8 + c)).map fun r => (r.2.1.toNat, ringBytes r.2.2)

/-- A ring opens at its commit (R315). -/
def State.openRing (s : State) (g k : Nat) (header : Word) (logn : Nat) (foreign : Bool) (gen : Nat) : State :=
  let gc := clusterOf g
  let r : Ring :=
    { isOpen := true, gen := gen, slot := g, domain := (s.slot g).domain, header := header, logn := logn,
      foreign := foreign, no := (s.cluster gc).ringOpens + 1 }
  (s.modCore (g / 4) fun c => { c with rings := mput c.rings k r }).modCluster gc fun c =>
    { c with ringOpens := c.ringOpens + 1 }

/-- A ring closes (R316). -/
def State.closeRing (s : State) (core k : Nat) : State :=
  s.modCore core fun c => { c with rings := c.rings.map fun r => if r.1 = k then (r.1, { r.2 with isOpen := false }) else r }

/-- Every ring of a slot closes (R317). -/
def State.closeRings (s : State) (g : Nat) : State :=
  s.modCore (g / 4) fun c => { c with rings := c.rings.map fun r => if r.2.slot = g then (r.1, { r.2 with isOpen := false }) else r }

/-- The ring of a cluster that has a header address: the open one, else the one that held it last (R319). -/
def State.ringAt (s : State) (gc h : Nat) : Option (Nat × Nat × Ring) :=
  let all := (List.range 8).flatMap fun c =>
    ((s.core (gc * 8 + c)).rings.filter fun r => r.2.header.toNat == h).map fun r => (c, r.1, r.2)
  match all.find? fun r => r.2.2.isOpen with
  | some r => some r
  | none => all.foldl (fun b r => match b with | none => some r | some x => if x.2.2.no < r.2.2.no then some r else some x) none

/-! ## Delivery (R312, R319) -/

/-- A message as it reaches an owner's port. -/
structure Arrival where
  /-- KIND of the envelope: 1 SEND, 2 SENDV, 3 pool event, 4 foreign write. -/
  kind : Nat
  chip : Nat
  who : Nat
  key : Nat
  header : Nat
  gen : Nat
  payload : List Byte
  deriving DecidableEq, Repr

/-- Payload lines of a message: none for inline payloads (R312). -/
def Arrival.lines (m : Arrival) : Nat := if m.kind = 1 ∨ m.kind = 3 then 0 else (m.payload.length + 63) / 64

/-- The envelope (R312). -/
def Arrival.envelope (m : Arrival) (seq : Word) : List Byte :=
  leBytes 4 (m.kind * 2 ^ 28 + m.lines * 2 ^ 24 + (if m.kind = 1 ∨ m.kind = 3 then 16 else m.payload.length))
    ++ leBytes 4 m.who ++ leBytes 4 m.chip ++ leBytes 4 seq.toNat
    ++ (if m.kind = 1 ∨ m.kind = 3 then m.payload.take 16 else List.replicate 16 0) ++ List.replicate 32 0

/-- The bytes that a delivery writes into a ring of a cluster (R319). -/
def State.messageBytes (s : State) (gc : Nat) (r : Ring) (m : Arrival) : FMap Byte :=
  let h := flatPad gc r.header.toNat
  let tail := s.ownWord h
  let msgs := s.ownWord (h + 4)
  let at_ (e : Nat) : Nat := h + 256 + 64 * (e % 2 ^ r.logn)
  let pay := m.payload ++ List.replicate (64 * m.lines - m.payload.length) 0
  placed (at_ tail.toNat) (m.envelope msgs)
    ++ (List.range m.lines).flatMap (fun i => placed (at_ (tail.toNat + 1 + i)) ((pay.drop (64 * i)).take 64))
    ++ placed h (leBytes 4 (tail.toNat + 1 + m.lines)) ++ placed (h + 4) (leBytes 4 (msgs.toNat + 1))

/-- The checks of R319 on a message to a ring: open with its generation, with room for it, and not in a sealed range (R397). -/
def State.checkRing (s : State) (gc : Nat) (r : Ring) (m : Arrival) : Except (Nat × Option Nat) Ring :=
  if !r.isOpen || r.gen != m.gen then .error (0x41, some 6)
  else
    let h := flatPad gc r.header.toNat
    let used := ((s.ownWord h) - (s.ownWord (h + 0x40))).toNat
    if 2 ^ r.logn < used + 1 + m.lines then .error (0x80, none)
    else if s.writesSealed (s.messageBytes gc r m) then .error (0x40, none)
    else .ok r

/-- The checks of R319 on a message behind the key check: the ring, or the STATE and the reason of the refusal that is
logged, if it is. -/
def State.checkMessage (s : State) (gc : Nat) (m : Arrival) : Except (Nat × Option Nat) Ring :=
  match s.ringAt gc m.header with
  | none => .error (0x40, some 4)
  | some (_, _, r) =>
    if m.kind = 4 ∧ !r.foreign then .error (0x40, some 5) else s.checkRing gc r m

/-! ## Sends (R318, R367) -/

/-- The key of the count of a slot's sends to a ring. -/
def sendKey (g header : Nat) : Nat := g * 2 ^ 56 + header

/-- The parts of a send as an Oxgor command (spec/13_fabric.md R357). -/
def Message.parts (m : Message) : Nat := if m.vector then 1 + (m.len + 63) / 64 else 1

/-- A send at its launch commit (R318; spec/13_fabric.md R367, R374). -/
def State.launchSend (s : State) (g st : Nat) (m : Message) : State :=
  let gc := clusterOf g
  let (id, s1) := s.takeId gc
  let n := mget (s.pull gc).sendNos (sendKey g m.header) 0
  let x : SendRec :=
    { id := id, slot := g, st := st, slice := (s.slot g).sliceId, msg := m, num := n,
      payload := if m.vector then none else some m.words, answer := if s.foreign m.page.chip then some 0x40 else none }
  let s2 := (s1.modPull gc fun u =>
    { u with sends := u.sends ++ [x], sendNos := mput u.sendNos (sendKey g m.header) (n + 1) }).modCluster gc fun c =>
    { c with busy := c.busy ++ (if m.vector then coverRows [m.src] m.len 3 id else []) }
  if m.page.chip = s.chip ∨ s.foreign m.page.chip then s2 else s2.request m.page.chip gc id .message (64 * m.parts)

/-- A send leaves the pull unit's port logic. -/
def State.dropSend (s : State) (gc id : Nat) : State :=
  ((s.release gc 3 id).dropRequests gc id).modPull gc fun u => { u with sends := u.sends.filter fun x => x.id != id }

/-- Has a send left its cluster: an answer is on its way, or a request to its peer has been sent (R327, log entry 15)? -/
def State.sendStarted (s : State) (gc : Nat) (x : SendRec) : Bool :=
  x.answer.isSome || s.reqs.any fun r => r.is gc x.id .message && r.first.isSome

/-- The sends of a failed slice that have not been sent complete with 0x44 (R317, R327). -/
def State.cancelSends (s : State) (g : Nat) : State :=
  let gc := clusterOf g
  ((s.pull gc).sends.filter fun x => x.slot == g && !s.sendStarted gc x).foldl (fun s x =>
    (s.dropSend gc x.id).pushDone gc { engine := 3, slot := g, st := x.st, state := 0x44, disc := false, no := x.id }) s

end Sys2Proof.Machine
end

