-- ==== Sys2Proof/Machine/TaskCore.lean ====
section
/-!
DEFINITION. The task engines behind their instructions: entries, their checks, queues, failure records, submissions and
placement (spec/12_tasks.md R329-R350).
-/

namespace Sys2Proof.Machine

/-! ## Queues -/

/-- Memory cluster 288 of a die, in which its task engine acts (R329, spec/01_engines.md R21). -/
def taskCluster (d : Nat) : Nat := d * Config.clustersPerDie + Config.computeClusters

/-- A queue before its descriptor is written: disabled (log entry 5). -/
def Queue.blank : Queue :=
  { en := false, domain := 0, cap := 0, flog := 0, flogn := 0, image := List.replicate 32 0, logged := 0 }

/-- The queue that a queue target names (R329). -/
def State.queue (s : State) (target : Nat) : Queue := mget (s.die (target / 64)).queues (target % 64) Queue.blank

/-- A die changed. -/
def State.modDie (s : State) (d : Nat) (f : Die → Die) : State := s.setDie d (f (s.die d))

/-- A queue written. -/
def State.setQueue (s : State) (target : Nat) (q : Queue) : State :=
  s.modDie (target / 64) fun d => { d with queues := mput d.queues (target % 64) q }

/-- Queued and timed entries of a queue (R329). -/
def Die.entries (d : Die) (target : Nat) : Nat :=
  (d.queued.filter fun l => l.target == target).length + (d.timed.filter fun l => l.2.target == target).length

/-- Entries of a die. -/
def Die.total (d : Die) : Nat := d.queued.length + d.timed.length

/-! ## Entries (R331) -/

/-- The words of the fields of an entry, in the order of their MASK bits. -/
def fieldWords : List Nat := [1, 1, 1, 1, 1, 1, 1, 1, 1, 2, 1, 16, 1, 1, 1, 1]

/-- The 32 field words of an entry: present fields from the record, absent ones from the delta image (R331). -/
def expandFields : List Nat → Nat → List Word → List Word → List Word
  | [], _, _, _ => []
  | n :: ns, mask, ws, image =>
    if mask % 2 = 1 then (ws ++ List.replicate n 0).take n ++ expandFields ns (mask / 2) (ws.drop n) (image.drop n)
    else image.take n ++ expandFields ns (mask / 2) ws (image.drop n)

/-- The 32 field words of a record for a queue. -/
def Queue.expand (q : Queue) (record : List Word) : List Word :=
  expandFields fieldWords ((record.getD 0 0).toNat % 2 ^ 16) (record.drop 1) q.image

/-- A field word of an expanded entry: 0 ENTRY, 1-8 ARG, 9-10 DEADLINE, 11 BUDGET, 12-27 FP, 28 PLACE, 29 PRIO, 30 DOMAIN,
31 FLAGS. -/
def fieldAt (ws : List Word) (i : Nat) : Word := ws.getD i 0

/-- FLAGS.RT, REQ, DROP and MAXR (R331). -/
def flagRT (f : Word) : Bool := bit f 0
/-- REQ. -/
def flagREQ (f : Word) : Bool := bit f 1
/-- DROP. -/
def flagDROP (f : Word) : Bool := bit f 2
/-- MAXR. -/
def flagMAXR (f : Word) : Nat := bits f 4 4

/-- KIND, GSZ, CLUSTER, CORE and SLOT of PLACE (R332). -/
def placeKind (p : Word) : Nat := bits p 30 2
/-- GSZ. -/
def placeGsz (p : Word) : Nat := bits p 28 2
/-- CLUSTER. -/
def placeCluster (p : Word) : Nat := bits p 5 9
/-- CORE. -/
def placeCore (p : Word) : Nat := bits p 2 3
/-- SLOT. -/
def placeSlot (p : Word) : Nat := bits p 0 2

/-- A malformed placement (R332, R333). -/
def badPlace (p : Word) : Bool :=
  let k := placeKind p
  bits p 14 14 != 0 || (k != 3 && placeGsz p != 0) || (k == 3 && placeGsz p == 0) || (k == 0 && placeCluster p != 0)
    || 319 < placeCluster p || (k != 2 && placeCore p != 0) || (k < 2 && placeSlot p != 0)

/-- LEN of a footprint range (R334). -/
def footLen (w3 : Word) : Nat := bits w3 0 20

/-- A footprint range that breaks R334, for a memory cluster or not. -/
def badRange (mem : Bool) (w0 w1 w2 w3 : Word) : Bool :=
  let len := footLen w3
  let a := w2.toNat
  let ram := if mem then 0x400000 else 0x200000
  bits w1 24 7 != 0 || bits w3 20 12 != 0 ||
    (len != 0 && (len % 4 != 0 || 262144 < len || w0.toNat % 4 != 0 || a % 4 != 0 ||
      !(a + len ≤ 0x40000 || (0x10000000 ≤ a && a + len ≤ 0x10000000 + ram))))

/-- An entry that R333 refuses with 0x81. -/
def badEntry (ws : List Word) : Bool :=
  let p := fieldAt ws 28
  let f := fieldAt ws 31
  let mem := placeKind p != 0 && 288 ≤ placeCluster p
  15 < (fieldAt ws 29).toNat || 2 ^ 16 ≤ (fieldAt ws 30).toNat || bit f 3 || bits f 8 24 != 0
    || (flagMAXR f != 0 && !flagREQ f) || badPlace p
    || (List.range 4).any fun k => badRange mem (fieldAt ws (12 + 4 * k)) (fieldAt ws (13 + 4 * k)) (fieldAt ws (14 + 4 * k)) (fieldAt ws (15 + 4 * k))

/-- The slice of an expanded entry (R331). -/
def Slice.ofWords (id : Nat) (sid : BitVec 16) (target : Nat) (ws : List Word) : Slice :=
  { id := id, sid := sid, target := target, entry := fieldAt ws 0, args := Vector.ofFn fun i => fieldAt ws (1 + i.val),
    deadline := (fieldAt ws 9).toNat + 2 ^ 32 * (fieldAt ws 10).toNat, budget := fieldAt ws 11,
    fp := Vector.ofFn fun k => Vector.ofFn fun i => fieldAt ws (12 + 4 * k.val + i.val),
    place := fieldAt ws 28, prio := (fieldAt ws 29).toNat, domain := (fieldAt ws 30).setWidth 16, flags := fieldAt ws 31,
    attempt := 0, left := (fieldAt ws 11).toNat, since := none, last := none, pins := [], pulling := [] }

/-! ## Submissions (R333, R336) -/

/-- The STATE with which an entry is refused, if it is (R333, log entry 16). -/
def State.refusesEntry (s : State) (target : Nat) (ws : List Word) (domain : Nat) (rt : Bool) : Option Nat :=
  let q := s.queue target
  let d := s.die (target / 64)
  if badEntry ws then some 0x81
  else if (fieldAt ws 30).toNat ≠ q.domain || (domain != q.domain && !rt) || (flagRT (fieldAt ws 31) && !rt) || !q.en then some 0x40
  else if q.cap ≤ d.entries target || 4096 ≤ d.total then some 0x80
  else none

/-- The tick at which an entry with a release time is released: a time at or before the current one at the next (R338). -/
def State.releaseTick (s : State) (t : Nat) : Nat := max t (s.podUs + 1)

/-- A record reaches the engine of its target: the entry enters its queue or the wheel in one commit of cluster 288, or is
refused (R333, R336). Gives the STATE and the number of the accepting commit, 0 for none. -/
def State.submitRecord (s : State) (target : Nat) (record : List Word) (time : Option Nat) (who domain : Nat) (rt : Bool) :
    (Nat × Nat) × State :=
  let gc := taskCluster (target / 64)
  let q := s.queue target
  let ws := q.expand record
  if (s.cluster gc).fenced then ((0x43, 0), s)
  else
    match s.refusesEntry target ws domain rt with
    | some 0x40 =>
      ((0x40, 0), s.logRefusal gc { kind := 5, reason := 3, chip := s.chip, who := who, key := 0, addr := target })
    | some n => ((n, 0), s)
    | none =>
      let l := Slice.ofWords (s.slices + 1) (BitVec.ofNat 16 (bits (record.getD 0 0) 16 16)) target ws
      let s1 := ({ s with slices := s.slices + 1 }).setQueue target { q with image := ws }
      let s2 := s1.modDie (target / 64) fun d =>
        match time with
        | none => { d with queued := d.queued ++ [l] }
        | some t => { d with timed := d.timed ++ [(s.releaseTick t, l)] }
      let s3 := s2.agentCommit gc 4 [] []
      ((0x00, (s3.cluster gc).commits), s3)

/-- The bytes of a record: its header and the fields that its MASK names (R331). -/
def recordBytes (w0 : Word) : Nat :=
  4 + 4 * (fieldWords.zipIdx.foldl (fun n f => if bit w0 f.2 then n + f.1 else n) 0)

/-- A submission or a cancel at its launch commit: the record is read as it stands after the commit's own stores; a discarded
byte of it sets DISCARD (R336, R339, spec/14_host.md R397). -/
def State.launchSub (s : State) (g st target : Nat) (addr : Option Nat) (sid : Option Nat) (time : Option Nat) : State :=
  let gc := clusterOf g
  let (id, s1) := s.takeId gc
  let x := s.slot g
  let words := match addr with | some a => (List.range 33).map fun i => s.ownWord (a + 4 * i) | none => []
  let gone := match addr with
    | some a => (List.range (recordBytes (words.headD 0))).any fun i => s.isDiscarded (a + i)
    | none => false
  (if gone then s1.modSlot g Slot.markDiscard else s1).modPull gc fun u =>
    { u with subs := u.subs ++ [{ id := id, slot := g, st := st, target := target, words := words, sid := sid, time := time,
                                  domain := x.domain, rt := x.live.rt, answer := none }] }

/-! ## Failures (R350) -/

/-- The bytes that the record of a failure and the advance of the log word write (R350). -/
def State.failBytes (s : State) (l : Slice) (reason state code : Nat) : FMap Byte :=
  let gc := taskCluster (l.target / 64)
  let q := s.queue l.target
  let a := flatRam gc (q.flog.toNat - 0x10000000)
  placed a (leBytes 4 (q.logged + 1))
    ++ placed (a + 64 + 16 * (q.logged % 2 ^ q.flogn))
      (leBytes 4 (reason * 2 ^ 24 + l.attempt % 256 * 2 ^ 16 + l.sid.toNat) ++ leBytes 4 (l.last.getD 0xFFFFFFFF)
        ++ leBytes 4 (state * 2 ^ 24 + code % 1024) ++ leBytes 4 (s.nextCommit gc))

/-- The record of a failure and the advance of the log word, as one commit of cluster 288; a queue without a log records
nothing (R350), a fenced cluster 288 makes no commit (spec/01_engines.md R46), and no record reaches a sealed byte
(spec/14_host.md R397, log entry 68). -/
def State.failSlice (s : State) (l : Slice) (reason state code : Nat) : State :=
  let gc := taskCluster (l.target / 64)
  let q := s.queue l.target
  let ws := s.failBytes l reason state code
  if q.flog = 0 ∨ (s.cluster gc).fenced ∨ s.writesSealed ws then s
  else (s.setQueue l.target { q with logged := q.logged + 1 }).agentCommit gc 4 ws []

/-- The lines that the next n records of a queue's failure log and its log word write (R350). -/
def State.recordLines (s : State) (target n : Nat) : List Nat :=
  let q := s.queue target
  let a := flatRam (taskCluster (target / 64)) (q.flog.toNat - 0x10000000)
  if q.flog = 0 then []
  else lineOf a :: (List.range n).map fun i => lineOf (a + 64 + 16 * ((q.logged + i) % 2 ^ q.flogn))

/-! ## The order of a die's task engine within one ck (R340) -/

/-- May the engine of a die take a step of R340's order now: 1 releases and drops, 2 arrivals and requeues, 3 the dispatch
decision, 4 the pre-emption that follows it, 5 cancels, 6 deliveries of aborts; it has taken no later step in this ck, and no ck
passes while the die's clock stands still (spec/15_taproot.md R411, log entry 69)? -/
def State.mayTurn (s : State) (d step : Nat) : Bool :=
  !s.stopped (taskCluster d) && ((s.die d).turn.1 != s.ckDie d || (s.die d).turn.2 ≤ step)

/-- The engine of a die has come to a step of R340's order in this ck. -/
def State.turned (s : State) (d step : Nat) : State := s.modDie d fun x => { x with turn := (s.ckDie d, step) }

/-- Is there room for one more entry in a queue and its die (R329)? -/
def State.hasRoom (s : State) (target : Nat) : Bool :=
  (s.die (target / 64)).entries target < (s.queue target).cap && (s.die (target / 64)).total < 4096

/-! ## Placement (R332, R344) -/

/-- A destination of a footprint range on a slot, as a flat address. -/
def footPlace (g : Nat) (w2 : Word) : Nat :=
  if w2.toNat < 0x40000 then flatTcm (clusterOf g) (coreOf g) w2.toNat else flatRam (clusterOf g) (w2.toNat - 0x10000000)

/-- The ranges of a cluster's memory that slices other than the given one have pinned, on their slots or away from them
(R344). -/
def State.pinned (s : State) (gc id : Nat) : List (Nat × Nat) :=
  let d := s.die (dieOf gc)
  let slices := ((s.slotsOf gc).filterMap fun g => (s.slot g).slice) ++ d.queued ++ d.timed.map Prod.snd
  (slices.filter fun l => l.id != id).flatMap fun l => (l.pins.map fun p => p.2).filter fun p => ownerOf p.1 == gc

/-- Do two byte ranges overlap? -/
def overlaps (a n b m : Nat) : Bool := a < b + m && b < a + n

/-- The footprint ranges of a slice with a length: number, source words, destination word, length and ACQ (R334). -/
def Slice.ranges (l : Slice) : List (Nat × Nat × Word × Nat × Bool) :=
  (List.range 4).filterMap fun k =>
    let w (i : Nat) : Word := if h : k < 4 ∧ i < 4 then l.fp[k][i] else 0
    if footLen (w 3) = 0 then none
    else some (k, (w 0).toNat + 2 ^ 32 * bits (w 1) 0 24, w 2, footLen (w 3), bit (w 1) 31)

/-- Would a slot admit an entry if it held no slice (R332)? -/
def State.suits (s : State) (g : Nat) (l : Slice) : Bool :=
  let x := s.slot g
  !x.halted && !(s.cluster (clusterOf g)).fenced && (x.heldFor.isNone || x.heldFor == some l.id)
    && l.ranges.all fun r => (s.pinned (clusterOf g) l.id).all fun p => !overlaps (footPlace g r.2.2.1) r.2.2.2.1 p.1 p.2

/-- Does a free slot admit an entry (R332)? -/
def State.admits (s : State) (g : Nat) (l : Slice) : Bool := (s.slot g).slice.isNone && s.suits g l

/-- The groups of slots that PLACE names on a die, the lowest first (R332). -/
def placeGroups (d : Nat) (p : Word) : List (List Nat) :=
  let c := d * 320 + placeCluster p
  match placeKind p with
  | 0 => (List.range (288 * 32)).map fun i => [d * 320 * 32 + i]
  | 1 => (List.range 32).map fun i => [c * 32 + i]
  | 2 => [[c * 32 + placeCore p * 4 + placeSlot p]]
  | _ =>
    let n := gangSize (placeGsz p)
    (List.range (8 / n)).map fun k => (List.range n).map fun i => c * 32 + (k * n + i) * 4 + placeSlot p

/-- The slots that are held for a slice (R348). -/
def State.heldSlots (s : State) (id : Nat) : List Nat := (s.slots.filter fun c => c.2.heldFor == some id).map (·.1)

/-- The slots that take an entry: the lowest admitting slot or group, of those that are held for the slice (R341, R348). -/
def State.seat (s : State) (l : Slice) : Option (List Nat) :=
  (placeGroups (l.target / 64) l.place).find? fun gs => (gs.all fun g => s.admits g l) && (s.heldSlots l.id).all gs.contains

/-- Does an entry come before another by the keys of R341: level, deadline, queue; the older entry stands first? -/
def Slice.before (a b : Slice) : Bool :=
  if a.prio ≠ b.prio then b.prio < a.prio
  else if a.deadline ≠ b.deadline then b.deadline = 0 || (a.deadline != 0 && a.deadline < b.deadline)
  else a.target % 64 ≤ b.target % 64

/-- The first of some entries by R341. -/
def firstEntry : List Slice → Option Slice
  | [] => none
  | l :: ls => match firstEntry ls with | none => some l | some m => if l.before m then some l else some m

/-- FPIN at its commit: a refresh pulls the range again into its pinned destination (R344). -/
def State.launchPin (s : State) (g st range : Nat) (refresh : Bool) : State :=
  let gc := clusterOf g
  let done (s : State) (n : Nat) : State := s.pushDone gc { engine := 4, slot := g, st := st, state := n, disc := false, no := (s.pull gc).nextId }
  match (s.slot g).slice with
  | none => done s 0x03
  | some l =>
    match l.ranges.find? fun r => r.1 == range with
    | none => done s 0x03
    | some (k, src, _, len, acq) =>
      match l.pins.find? fun p => p.1 == k with
      | none => done s 0x03
      | some pin =>
      if !refresh then
        done ((s.slotsWith l.id).foldl (fun s m => s.modSlot m fun x =>
          { x with slice := x.slice.map fun l => { l with pins := l.pins.filter fun p => p.1 != k } }) s) 0x00
      else
        let pages := ((linesOfRows [src] len).map fun n => 64 * n).foldl (fun (r : Except Nat (List Page)) a =>
          match r with
          | .error c => .error c
          | .ok ps => if (pageAt ps a).isSome then .ok ps else (s.translateNow g l.domain.toNat a).map fun p => ps ++ [p]) (.ok [])
        match pages with
        | .error _ => done s 0x40
        | .ok ps => s.launchPull g (.refresh acq k) st [src] [pin.2.1] len ps l.domain.toNat

end Sys2Proof.Machine
end

