-- ==== Sys2Proof/Machine/HostCore.lean ====
section
/-!
DEFINITION. Barrier arrivals, keys and partners, invalidations, seals and host regions at their commits
(spec/04_control.md R128-R133; spec/13_fabric.md R358-R376; spec/14_host.md R392-R401).
-/

namespace Sys2Proof.Machine

/-! ## Barriers (spec/04_control.md R128-R133) -/

/-- The quadrant of a cluster of a die (R128). -/
def quadrantOf (c : Nat) : Nat :=
  if c < 288 then (if 144 ≤ c then 2 else 0) + (if 9 ≤ c % 18 then 1 else 0) else (c - 288) / 8

/-- The scope instance of a slot at a level (R128). -/
def State.barScope (s : State) (g level : Nat) : Nat :=
  let gc := clusterOf g
  match level with
  | 0 => g / 4
  | 1 => (s.gangOf g).headD g
  | 2 => gc
  | 3 => dieOf gc * 4 + quadrantOf (gc % 320)
  | 4 => dieOf gc
  | _ => 0

/-- Every counted arrival of a phase, by its slot. -/
def Phase.all (p : Phase) : List Nat := p.arrived ++ p.gone

/-- Has a phase as many arrivals as it counts (R133)? -/
def Phase.full (p : Phase) : Bool := p.count ≤ p.all.length

/-- Does a phase count a slot of a fenced cluster, so that it never completes (R135)? -/
def State.deadPhase (s : State) (p : Phase) : Bool := p.all.any fun g => (s.cluster (clusterOf g)).fenced

/-- Does a cluster lie in a scope instance that spans several clusters (R128)? -/
def inScope (level scope gc : Nat) : Bool :=
  match level with
  | 3 => dieOf gc * 4 + quadrantOf (gc % 320) == scope
  | 4 => dieOf gc == scope
  | 5 => true
  | _ => false

/-- May a phase never complete: it counts a slot of a fenced cluster, or still waits for arrivals while a cluster of its scope is
fenced, whose slot it may count (R135, log entry 21)? -/
def State.stuckPhase (s : State) (p : Phase) : Bool :=
  s.deadPhase p || (!p.full && s.clusters.any fun c => c.2.fenced && inScope p.level p.scope c.1)

/-- Is a phase of the given instance, and still gathering? -/
def Phase.open_ (p : Phase) (level scope domain b : Nat) : Bool :=
  p.level == level && p.scope == scope && p.domain == domain && p.b == b && !p.full

/-- An arrival at its commit: the first one of a phase fixes the count; another count is not counted and raises 0x023; a
counted one marks the slot outstanding (R130). -/
def State.arrive (s : State) (g b count : Nat) : State :=
  let x := s.slot g
  let level := barmLevel x.live.barm
  let scope := s.barScope g level
  let mark (s : State) : State := s.modSlot g fun x => { x with arrivals := b :: x.arrivals }
  match s.phases.find? fun p => p.open_ level scope x.domain b with
  | none =>
    mark { s with phases := s.phases ++ [{ level := level, scope := scope, domain := x.domain, b := b, count := count, arrived := [g], gone := [] }] }
  | some p =>
    if p.count ≠ count then s.postAsync g 0x023 (BitVec.ofNat 32 b)
    else mark { s with phases := s.phases.map fun q => if q = p then { q with arrived := q.arrived ++ [g] } else q }

/-- Has a slot an outstanding arrival in a phase that is sure to be able to complete (R135, log entry 21)? -/
def State.marked (s : State) (g : Nat) : Bool :=
  (s.slot g).arrivals.any fun b => !s.phases.any fun p => p.b == b && p.arrived.contains g && s.stuckPhase p

/-- A slot's marks end with its slice: its arrivals stay counted and mark no later slice (R135, log entry 21). -/
def State.dropMarks (s : State) (g : Nat) : State :=
  ({ s with phases := s.phases.map fun (p : Phase) =>
      if p.arrived.contains g then { p with arrived := p.arrived.filter (· != g), gone := p.gone ++ [g] } else p }).modSlot g
    fun x => { x with arrivals := [] }

/-! ## Keys and partners (spec/13_fabric.md R358-R376) -/

/-- A key is registered (R358). -/
def State.registerKey (s : State) (g key base len flags : Nat) : State :=
  s.modCluster (clusterOf g) fun c =>
    { c with keys := c.keys ++ [{ key := key, base := base, len := len, flags := flags, domain := (s.slot g).domain, revoked := none }] }

/-- A key is revoked: watches placed under it are answered with 0x40 (R360). -/
def State.revokeKey (s : State) (g key : Nat) : State :=
  let gc := clusterOf g
  let hit := (s.cluster gc).watchers.filter fun e => e.key == key
  let s1 := s.modCluster gc fun c =>
    { c with
      keys := c.keys.map fun e => if e.key = key ∧ e.revoked.isNone then { e with revoked := some s.now } else e
      watchers := c.watchers.filter fun e => e.key != key }
  hit.foldl (fun s e => s.answerWatch e 0x40 0) s1

/-- CKREG at its commit: a chip that cannot be a partner is refused, else the partner's report is awaited (R376). -/
def State.registerPartner (s : State) (g st chip : Nat) (override : Bool) : State :=
  let gc := clusterOf g
  if chip = s.chip ∨ (s.peer chip).kind ≠ .punosko then
    s.pushDone gc { engine := 5, slot := g, st := st, state := 0x40, disc := false, no := (s.pull gc).nextId }
  else
    let (id, s1) := s.takeId gc
    let a : Attest := { chip := chip, ckreg := some (gc, g, st, override), since := s.now, id := id }
    State.request { s1 with attests := s1.attests ++ [a] } chip gc id .attest 64

/-- CKDEL at its commit (R376). -/
def State.removePartner (s : State) (g st chip : Nat) : State :=
  { s with partners := s.partners.filter (· != chip) }.pushDone (clusterOf g)
    { engine := 5, slot := g, st := st, state := if s.partners.contains chip then 0x00 else 0x01, disc := false,
      no := (s.pull (clusterOf g)).nextId }

/-! ## Invalidations (spec/14_host.md R393) -/

/-- Does a page or line of n bytes from a pod address on meet a range; length 0 means every address? -/
def meets (addr len a n : Nat) : Bool := len == 0 || overlaps a n addr len

/-- The PLB entries of a range are dropped in every core; with `all` also its translations and reader-cache lines in every
cluster (R393). -/
def State.dropRange (s : State) (all : Bool) (addr len : Nat) : State :=
  { s with
    cores := s.cores.map fun c => (c.1, { c.2 with plb := c.2.plb.filter fun e => !meets addr len e.page e.size })
    slots := if all then s.slots.map fun c => (c.1, { c.2 with pages := c.2.pages.filter fun p => !meets addr len p.base p.size })
      else s.slots
    clusters := if all then s.clusters.map fun c =>
        (c.1, { c.2 with
          xcache := c.2.xcache.filter fun p => !meets addr len p.base p.size
          pull := { c.2.pull with
            cache := c.2.pull.cache.filter fun l => !meets addr len l.addr 64
            fetches := c.2.pull.fetches.map fun f => { f with keep := f.keep && !meets addr len f.addr 64 } } })
      else s.clusters }

/-- A translation request in progress. -/
def State.addXlat (s : State) (g st : Nat) (op : XlatOp) : State :=
  let gc := clusterOf g
  let (id, s1) := s.takeId gc
  s1.modPull gc fun u => { u with xlats := u.xlats ++ [{ id := id, slot := g, st := st, op := op }] }

/-- The token of a translation request waits for its commit, under its place among the launches of its engine. -/
def State.xlatEnds (s : State) (g st state no : Nat) : State :=
  s.pushDone (clusterOf g) { engine := 5, slot := g, st := st, state := state, disc := false, no := no }

/-- The token of a translation request that its launch commit ends waits for its commit. -/
def State.xlatDone (s : State) (g st state : Nat) : State := s.xlatEnds g st state (s.pull (clusterOf g)).nextId

/-- A range is dropped at its launch commit and again when the drop is complete (R393, log entry 17). -/
def State.invalidate (s : State) (g st : Nat) (all : Bool) (addr len : Nat) : State :=
  (s.dropRange all addr len).addXlat g st (.invalidate all addr len)

/-! ## Seals (R396) -/

/-- The seal table after SEAL, DISCARD or RECLAIM of a range, or the STATE that refuses it. -/
def sealStep (seals : List Seal) (op addr len : Nat) : Except Nat (List Seal) :=
  let is (d : Bool) (r : Seal) : Bool := r.addr == addr && r.len == len && r.discarded == d
  match op with
  | 0 => if 16 ≤ seals.length then .error 0x80 else .ok (seals ++ [⟨addr, len, false⟩])
  | 2 =>
    if seals.any (is false) then .ok (seals.map fun r => if is false r then { r with discarded := true } else r) else .error 0x84
  | _ => if seals.any (is true) then .ok (seals.filter fun r => !is true r) else .error 0x84

/-- The commit of a SEAL stamps its lines with its own number and discards every region that buffers a store to them; those
that read them its write signature discards. -/
def State.stampSealed (s : State) (g : Nat) (lines : List Nat) : State :=
  let gc := clusterOf g
  let s1 := s.modCluster gc fun c => { c with stamps := lines.foldl (fun m l => mput m l c.commits) c.stamps }
  let hit := (s.slotsOf gc).filter fun m =>
    !(s.gangOf g).contains m && (s.slot m).slice.isSome && (s.slot m).region.stores.any fun c => lines.contains (lineOf c.1)
  ((hit.map fun m => (s.gangOf m).headD m).eraseDups).foldl (fun s m => s.conflict m) s1

/-- SEAL, DISCARD and RECLAIM at their commits: a SEAL stamps the lines of its range, a RECLAIM writes zeros to it. -/
def State.sealOp (s : State) (g st op addr len : Nat) : State :=
  let gc := clusterOf g
  match sealStep (s.cluster gc).seals op addr len with
  | .error n => s.xlatDone g st n
  | .ok seals =>
    let s1 := s.modCluster gc fun c => { c with seals := seals }
    let s2 := match op with
      | 0 => s1.stampSealed g (linesOfRows [addr] len)
      | 2 => s1
      | _ => s1.land gc (placed addr (List.replicate len 0))
    s2.xlatDone g st 0x00

/-! ## Host regions (R399-R401) -/

/-- A region slot of BAR0. -/
def State.region (s : State) (n : Nat) : RegionSlot := mget s.host.regions n RegionSlot.reset
/-- The host port changed. -/
def State.modHost (s : State) (f : HostPort → HostPort) : State := { s with host := f s.host }
/-- A region slot written. -/
def State.setHostRegion (s : State) (n : Nat) (r : RegionSlot) : State := s.modHost fun h => { h with regions := mput h.regions n r }

/-- A kicked region is bound to its proxy and its pod range is invalidated; the token follows (R400). A region whose
length has been set since the bundle so that the alias leaves the slice is in the wrong state (log entry 18). -/
def State.bindRegion (s : State) (g st n proxy offset addr : Nat) : State :=
  let r := s.region n
  if hbmSize < offset + r.len.toNat then s.xlatDone g st 0x84 else
  let x : Alias :=
    { proxy := proxy, offset := offset, len := r.len.toNat, take := s.host.takes, bytes := [], through := [] }
  let s1 := (s.setHostRegion n { r with state := 2, alia := some x }).modHost fun h => { h with takes := h.takes + 1 }
  s1.invalidate g st true addr r.len.toNat

/-- HOVR at its commit (R400). -/
def State.hovr (s : State) (g st : Nat) (give : Bool) (n proxy offset addr : Nat) : State :=
  let r := s.region n
  if give then
    match r.alia with
    | some x => if r.state = 2 ∧ x.proxy = proxy then s.addXlat g st (.give n proxy addr) else s.xlatDone g st 0x84
    | none => s.xlatDone g st 0x84
  else
    match r.state with
    | 0 => s.addXlat g st (.take n proxy offset addr s.now)
    | 1 => s.bindRegion g st n proxy offset addr
    | _ => s.xlatDone g st 0x84

end Sys2Proof.Machine
end

