-- ==== Sys2Proof/Machine/Effects.lean ====
section
/-!
DEFINITION. The deferred effects of a region at its commit (spec/05_commit.md R148, R149, R152), and what becomes of what
the region reserved (spec/10_pool.md R292).
-/

namespace Sys2Proof.Machine

/-- The lines that the effects of a commit write or stamp, and that hold it while they are busy: a sequence advance, the header
of a ring that opens, a range sealed or reclaimed as the seal table then allows (spec/05_commit.md R152; spec/09_pull.md
R264; spec/11_messages.md R315; spec/14_host.md R396). -/
def effectLines (gc : Nat) : List Seal → List Effect → List Nat
  | _, [] => []
  | seals, .seqadv a _ :: es => linesOfRows [a] 4 ++ effectLines gc seals es
  | seals, .ropen _ h _ _ _ :: es => linesOfRows [flatPad gc h.toNat] 256 ++ effectLines gc seals es
  | seals, .migr _ op addr len :: es =>
    match sealStep seals op addr len with
    | .ok t => (if op = 2 then [] else linesOfRows [addr] len) ++ effectLines gc t es
    | .error _ => effectLines gc seals es
  | seals, _ :: es => effectLines gc seals es

/-- The busy ranges that an effect's launch registers (R150). -/
def effectRanges : Effect → Nat
  | .mat op _ a b c => (op.reads a b c).length
  | .pull kind _ src _ len _ => (pullRanges kind src len 0).length
  | .send _ m => if m.vector then 1 else 0
  | _ => 0

/-- Does an effect enter the matrix queue of its core, the operation queue or the watch slots of the pull unit (R152)? -/
def Effect.isMat : Effect → Bool
  | .mat _ _ _ _ _ => true
  | _ => false
/-- The operation queue: a refresh by FPIN is a pull too (spec/12_tasks.md R344). -/
def Effect.isOp : Effect → Bool
  | .pull _ _ _ _ _ _ => true
  | .fpin _ _ refresh => refresh
  | _ => false
/-- The watch slots. -/
def Effect.isWatch : Effect → Bool
  | .watch _ _ _ _ _ => true
  | _ => false

/-- Is a commit held because a launch of it finds its engine's queue or the busy-range table full (R152)? -/
def State.launchHeld (s : State) (gc : Nat) (es : List (Nat × Effect)) : Bool :=
  let k := s.cluster gc
  let count (f : Effect → Bool) : Nat := (es.filter fun e => f e.2).length
  let mats (core : Nat) := (es.filter fun e => coreOf e.1 == core && e.2.isMat).length
  Config.busyRanges < k.busy.length + es.foldl (fun n e => n + effectRanges e.2) 0
    || ((List.range 8).any fun core => mats core != 0 && Config.matQueue < k.mat.queueOf core + mats core)
    || (count Effect.isOp != 0 && 32 < k.pull.ops.length + count Effect.isOp)
    || (count Effect.isWatch != 0 && 256 < k.pull.watches.length + count Effect.isWatch)

/-- A partition change (spec/10_pool.md R287). -/
def State.configure (s : State) (gc k : Nat) (q0 q1 q2 q3 : Word) : State :=
  s.modCluster gc fun c =>
    if bits q1 9 13 = 0 then { c with parts := mdel c.parts k, cfgs := c.cfgs + 1 }
    else
      let p : Partition :=
        { base := q0.toNat, szlog := bits q1 0 5, count := bits q1 9 13, domain := bits q2 0 16, pol := bit q1 22,
          conf := bit q1 23, evring := q3, free := List.range (bits q1 9 13), waiters := [], tiles := [],
          gen0 := bits q1 24 8, aband := 0, lost := 0, cfg := c.cfgs }
      { c with parts := mput c.parts k p, cfgs := c.cfgs + 1 }

/-- A decrement or a giving up of reads acts on the configuration that it was made under. -/
def State.takeCfg (s : State) (gc k t cfg n : Nat) : State :=
  match s.part gc k with
  | some p => if p.cfg = cfg then s.takeReads gc k t n else s
  | none => s

/-- Do the regions of a slot's gang advance a word further than to a value? Of several advances only the last is written
(spec/09_pull.md R264). -/
def State.advancesOn (s : State) (g a : Nat) (v : Word) : Bool :=
  (s.gangEffects g).any fun e => match e with | .seqadv b w => b == a && v.toNat < w.toNat | _ => false

/-- One effect is performed (R148, R149). -/
def State.performEffect (s : State) (g : Nat) (e : Effect) : State :=
  let gc := clusterOf g
  match e with
  | .mat op st a b c => s.launchMat g op st a b c
  | .pull kind st src dst len pages => s.launchPull g kind st src dst len pages (s.slot g).domain
  | .watch st addr page thr timeout => s.launchWatch g st addr page thr timeout
  | .wcancel st => s.cancelWatch g st
  | .seqadv a v => if s.advancesOn g a v then s else s.land gc (placed a (leBytes 4 v.toNat))
  | .consume k t cfg => s.takeCfg gc k t cfg 1
  | .giveUp k t cfg n => s.takeCfg gc k t cfg n
  | .tpart k q0 q1 q2 q3 => s.configure gc k q0 q1 q2 q3
  | .ropen k h logn foreign gen => (s.land gc (placed (flatPad gc h.toNat) (List.replicate 256 0))).openRing g k h logn foreign gen
  | .rclose k => s.closeRing (g / 4) k
  | .send st m => s.launchSend g st m
  | .submit st target addr time => s.launchSub g st target (some addr) none time
  | .cancel st target sid => s.launchSub g st target none (some sid) none
  | .fpin st range refresh => s.launchPin g st range refresh
  | .rkreg key base len flags => s.registerKey g key base len flags
  | .rkrev key => s.revokeKey g key
  | .ckreg st chip override => s.registerPartner g st chip override
  | .ckdel st chip => s.removePartner g st chip
  | .hovr st give n proxy offset addr => s.hovr g st give n proxy offset addr
  | .invalidate st all addr len => s.invalidate g st all addr len
  | .migr st op addr len => s.sealOp g st op addr len
  | .arrive b count => s.arrive g b count
  | .trace mask value => s.modCluster gc fun c => { c with traceCtl := merge c.traceCtl value (mask &&& 3) }

/-- A provisional tile of a committed region becomes live, and its lifetime starts (spec/10_pool.md R292). -/
def State.publish (s : State) (gc : Nat) (r : Nat × Nat × Nat × Nat) : State :=
  match s.part gc r.1 with
  | some p =>
    let x := p.tile r.2.1
    if p.cfg = r.2.2.1 ∧ x.state = .provisional then
      s.setPart gc r.1 (p.setTile r.2.1
        { x with state := .live, expiry := if x.life = 0 then none else some (s.ckOf gc + x.life) })
    else s
  | none => s

/-- What a committed region reserved: its tiles are live, but for one granted to a TALLOC that has not run again, which the next
region holds; reservations of a parked region that its replay left unused are released (R291, R292, spec/14_host.md R395). -/
def State.settleRegion (s : State) (g : Nat) : State :=
  let x := s.slot g
  let s1 := s.modSlot g fun x => { x with region := { x.region with res := ⟨x.granted, [], []⟩, kept := ⟨[], [], []⟩ } }
  ((x.region.res.tiles.filter fun t => !x.granted.contains t).foldl (fun s t => s.publish (clusterOf g) t) s1).giveBack (clusterOf g)
    x.region.kept.tiles

/-- A slot joins the waiters of a partition whose free tiles are no more than those that the members of its gang before it are to take
(spec/10_pool.md R291). -/
def State.joinWaiters (s : State) (g k free : Nat) : State :=
  let gc := clusterOf g
  match s.part gc k with
  | none => s
  | some p =>
    if (p.waiters.any fun w => w.slot == g) || (s.slot g).grant.isSome then s
    else if p.free.length ≤ free then s.setPart gc k { p with waiters := p.waiters ++ [⟨g, s.ckOf gc, (s.slot g).level⟩] } else s

end Sys2Proof.Machine
end

