-- ==== Sys2Proof/Machine/Issue.lean ====
section
/-!
DEFINITION. The ends of regions and the execution of one bundle (spec/02_encoding.md R48-R50, R60;
spec/04_control.md R121-R126, R136-R138; spec/05_commit.md R142-R147, R156, R163; spec/01_engines.md R28, R43).
-/

namespace Sys2Proof.Machine

/-! ## Asynchronous causes at a boundary (spec/01_engines.md R43; spec/12_tasks.md R347) -/

/-- A slot waits, unless an abort has ended its slice at this boundary (spec/12_tasks.md R345). -/
def Slot.waits (x : Slot) (w : Wait) : Slot := if x.abort then x else { x with wait := some w }

/-- Does a slot wait to leave for good: its slice has failed or its budget is exhausted? -/
def Slot.leaves (x : Slot) : Bool :=
  match x.wait with
  | some (.leave (.failed _ _ _)) => true
  | some (.leave .budget) => true
  | _ => false

/-- Has the budget of the slice on a slot come to 0 on one of its slots (spec/12_tasks.md R346, R347)? -/
def State.exhausted (s : State) (g : Nat) : Bool :=
  match (s.slot g).slice with
  | none => false
  | some l =>
    l.budget != 0 && (s.slotsWith l.id).any fun m => match (s.slot m).slice with
      | some k => k.leftAt (s.ckOf (clusterOf m)) == 0
      | none => false

/-- The asynchronous cause that a slot takes at a boundary: an exhausted budget is 0x2C0 whatever TA holds, unless a pending
cause comes before it by R43 (spec/12_tasks.md R347). -/
def State.dueCause (s : State) (m : Nat) : Option (Nat × Word) :=
  let x := s.slot m
  firstAsync ((if s.exhausted m then [(0x2C0, 0)] else []) ++ if x.live.ta then [] else x.async)

/-- The asynchronous causes of a slot's gang at a boundary are taken (R43). A slot that takes 0x2C0 does not vector: its watches
complete with 0x44, and it waits to leave (spec/12_tasks.md R347). -/
def State.takeDue (s : State) (g : Nat) : State :=
  let cs := (s.gangOf g).map fun m => (m, s.dueCause m)
  (cs.filter fun c => c.2 == some (0x2C0, 0)).foldl (fun s c => (s.endWatches c.1).modSlot c.1 fun x => x.waits (.leave .budget))
    (s.takePending cs)

/-! ## Region commits -/

/-- The size word of a region: A, EFF, LINES, BUNDLES, as RGNQ reads it (R147). -/
def Region.sizeWord (r : Region) : Word :=
  BitVec.ofNat 32 ((if r.atomic then 2 ^ 31 else 0) + r.effects.length % 64 * 2 ^ 25
    + (linesOf r.stores).length % 512 * 2 ^ 16 + r.bundles % 8192)

/-- The bytes of owner memory that some slots' regions have buffered, the leader's first (R123, R149). -/
def State.regionWrites (s : State) (gs : List Nat) : FMap Byte :=
  gs.flatMap fun g => (s.slot g).region.stores.filter fun c => c.1 < scratchBase

/-- The lines that the commit of some slots' regions writes or stamps: those of its stores and of its effects (R152). -/
def State.regionLines (s : State) (gs : List Nat) : List Nat :=
  let gc := clusterOf (gs.headD 0)
  linesOf (s.regionWrites gs) ++ effectLines gc (s.cluster gc).seals (gs.flatMap fun g => (s.slot g).region.effects)

/-- The write signature of the regions of a list of slots: the union over the members (R155). -/
def State.regionSig (s : State) (gs : List Nat) : BitVec 1024 :=
  gs.foldl (fun x g => x ||| (s.slot g).region.wsig) 0

/-- The bytes that a region stored to the slot's trap scratch become its contents (spec/04_control.md R118). -/
def Slot.scratched (x : Slot) : Slot :=
  let ws := x.region.stores.filter fun c => scratchBase ≤ c.1
  { x with scratch := ws.foldl (fun m c => mput m (c.1 - scratchBase) c.2) x.scratch }

/-- Is the commit of the regions of some slots held (R152, R163; a fenced cluster makes no commit, R46; nor does a die that
stands still, spec/15_taproot.md R411, R414)? -/
def State.regionHeld (s : State) (gs : List Nat) : Bool :=
  let gc := clusterOf (gs.headD 0)
  s.stopped gc || (s.cluster gc).fenced || s.soloHolds gc gs || s.busyHolds gc (s.regionLines gs)
    || s.launchHeld gc (gs.flatMap fun g => (s.slot g).region.effects.map fun e => (g, e))

/-- The commit of the regions of some slots as one commit: their bytes, then their effects in order, the leader's first, then
the trace entry, of the leader's region (log entry 59), and the conflicts; CONF is cleared (R123, R149, R156, log entry
60). -/
def State.commitRegions (s : State) (gs : List Nat) (last : Nat) : State :=
  let g := gs.headD 0
  let gc := clusterOf g
  let x := s.slot g
  let rec_ : CommitRec :=
    { kind := 0, engine := 0, solo := s.soloActive g, last := last, slot := slotIx g, pc := x.region.first,
      size := x.region.sizeWord, conf := x.stat.conf }
  let wsig := s.regionSig gs
  let s1 := s.commitBegin gc (s.regionWrites gs)
  let s2 := gs.foldl (fun s m => s.modSlot m Slot.scratched) s1
  let s3 := gs.foldl (fun s m => (s.slot m).region.effects.foldl (fun s e => s.performEffect m e) s) s2
  let s4 := gs.foldl (fun s m => s.settleRegion m) s3
  let s5 := gs.foldl (fun s m => s.modSlot m fun y => { y with stat := { y.stat with last := last, conf := 0 } }) s4
  s5.commitEnd gc rec_ gs wsig

/-- The LAST code of what follows a commit (R144). -/
def After.last : After → Nat
  | .reopen last => last
  | .talloc _ _ => 4
  | .recv _ => 4
  | _ => 0

/-- The return from a trap (R137): TA returns to 0, and a region of the recorded kind opens at EPC. A gang's is one region (R123):
the leader, whose return comes first, fixes its first bundle and its kind for every member (log entry 62). At the first bundle of
the parked region that region is reinstated: it keeps its kind, its signatures and its reservations (R142; spec/14_host.md
R395). -/
def State.returnTrap (s : State) (g : Nat) : State :=
  let x := s.slot g
  let h := (s.gangOf g).headD g
  let pc := (s.slot h).live.epc
  let atomic := if h = g then x.stat.ea else (s.slot h).region.atomic
  let s1 := s.modSlot g fun x =>
    { x with live := { x.live with status := withBit x.live.status 9 false }, stat := { x.stat with ea := false } }
  let s2 := s1.openRegion g pc atomic true
  match x.parked with
  | none => s2
  | some r =>
    if r.first ≠ pc then s2
    else s2.modSlot g fun y =>
      { y with
        parked := none
        region := { y.region with atomic := if h = g then r.atomic else atomic, rsig := r.rsig, wsig := r.wsig, kept := r.res } }

/-- The forced commit of a slot: FC is set, and an ordinary region opens at the bundle (R144, spec/01_engines.md R28). -/
def State.reopenForced (s : State) (g : Nat) : State :=
  (s.modSlot g fun x => { x with stat := { x.stat with fc := true } }).openRegion g (s.slot g).pc false true

/-- What follows a region's commit on one slot (R138, R145, R147). The cause of a TRAP becomes pending in the region that
its commit opens (R136). A slot that then waits by R12 stands in a region that opens at the instruction itself, which a trap that
ends the wait runs again (spec/00_scope.md R12; spec/12_tasks.md R348, log entry 21). -/
def State.afterCommit (s : State) (g : Nat) (a : After) (next : Word) : State :=
  let here := (s.slot g).pc
  match a with
  | .next atomic => (s.endSolo g).openRegion g next atomic true
  | .reopen last =>
    (s.modSlot g fun x =>
      { x with stat := if last = 4 then { x.stat with fc := true } else { x.stat with ic := true } }).openRegion g here false true
  | .talloc k n => (s.reopenForced g).joinWaiters g k n
  | .recv h => (s.reopenForced g).modCluster (clusterOf g) fun c => { c with recvs := c.recvs ++ [(g, h)] }
  | .gang n => ((s.endSolo g).openRegion g here false true).modSlot g fun x => x.waits (.gang n next)
  | .split => ((s.endSolo g).ungang g).openRegion g next false true
  | .barw => (s.endSolo g).openRegion g next false true
  | .trap code v => ((s.endSolo g).openRegion g next false true).postAsync g code v
  | .eret => (s.endSolo g).returnTrap g
  | .retire => ((s.endSolo g).openRegion g here false true).modSlot g fun x => x.waits (.leave .retire)
  | .yield e a0 => ((s.endSolo g).openRegion g here false true).modSlot g fun x => x.waits (.leave (.yield e a0))
  | .sleep e t => ((s.endSolo g).openRegion g here false true).modSlot g fun x => x.waits (.leave (.sleep e t))

/-- Members in a gang forming: every member waits in GANG with the same code, so the gang is formed and every member
goes on behind the leader's GANG, in a region that has the leader's first bundle (R121, R126); the gang's budget is the
leader's slice's, and that of another slice stands still (spec/12_tasks.md R346, log entry 61). -/
def State.formGang (s : State) (g n : Nat) : State :=
  let size := gangSize n
  let c0 := coreOf g - coreOf g % size
  let ms := (List.range size).map fun i => (clusterOf g * 8 + c0 + i) * 4 + g % 4
  let ready := ms.all fun m => match (s.slot m).wait with | some (.gang k _) => k == n | _ => false
  if ready then
    let lead := s.slot (ms.headD g)
    let next := match lead.wait with | some (.gang _ p) => p | _ => 0
    ms.foldl (fun s m => s.modSlot m fun x =>
      let st := (x.live.status &&& 0xF1FFFFFF) ||| BitVec.ofNat 32 (n * 2 ^ 26) |||
        (if m = ms.headD g then 0x02000000 else 0)
      { x with
        live := { x.live with status := st }
        pc := next
        wait := none
        region := { x.region with first := lead.region.first }
        slice := x.slice.map fun l => l.count (s.ckOf (clusterOf m)) (l.id = lead.sliceId) }) s
  else s

/-- The commit of the regions of some slots, and what follows on each (R156). The cause of a TRAP is taken at the boundary
right after its commit, unless a cause that the commit posted comes first (R136, spec/01_engines.md R43). -/
def State.finishRegions (s : State) (afters : List (Nat × After)) (next : Word) : State :=
  let gs := afters.map (·.1)
  let last := ((afters.map fun a => a.2.last).head?).getD 0
  let s1 := s.commitRegions gs last
  let s2 := afters.foldl (fun s a => (s.modSlot a.1 fun x => { x with wait := none }).afterCommit a.1 a.2 next) s1
  match afters with
  | [(g, .gang n)] => s2.formGang g n
  | (g, .trap _ _) :: _ => if (s2.slot g).wait.isNone then s2.takeDue g else s2
  | _ => s2

/-- The held commit of a slot's region, tried again: the slot's gang commits as one (R123, R156). -/
def State.retryCommit (s : State) (g : Nat) : State :=
  let gs := s.gangOf g
  let afters := gs.filterMap fun m => match (s.slot m).wait with | some (.commit a _ _) => some (m, a) | _ => none
  match (s.slot g).wait with
  | some (.commit _ next _) => if s.regionHeld gs then s else s.finishRegions afters next
  | _ => s

/-! ## The order of requests (R156, log entry 71) -/

/-- A request for a commit, with the ck at which it became ready: an engine's, or the region of a slot, a gang's by its leader. -/
inductive CommitRequest where
  | done (d : Done)
  | region (g : Nat)
  deriving DecidableEq, Repr

/-- Does a request come before another: the older first; of one ck the engines' by their order, then the regions by slot (R156)? -/
def requestBefore (a b : Nat × CommitRequest) : Bool :=
  a.1 < b.1 || (a.1 == b.1 && match a.2, b.2 with
    | .done d, .done e => d.before e
    | .done _, .region _ => true
    | .region g, .region h => slotIx g < slotIx h
    | .region _, .done _ => false)

/-- A request put in its place among others, which those that it does not come before precede. -/
def insertRequest (r : Nat × CommitRequest) : List (Nat × CommitRequest) → List (Nat × CommitRequest)
  | [] => [r]
  | q :: qs => if requestBefore r q then r :: q :: qs else q :: insertRequest r qs

/-- Is there still what a request of an engine is for? -/
def State.stands (s : State) (gc : Nat) (w : Work) : Bool :=
  let c := s.cluster gc
  let d := s.die (dieOf gc)
  match w with
  | .token => true
  | .cancel id => c.pull.watches.any fun x => x.id == id
  | .port seq => c.mat.port.cmd == some seq
  | .mwait seq => match c.mat.cmd seq with | some x => !x.isEnded | none => false
  | .op id => c.pull.ops.any fun o => o.id == id
  | .lifetime k t e => match s.part gc k with | some p => (p.tile t).state == .live && (p.tile t).expiry == some e | none => false
  | .entry => match c.served with | e :: _ => e.time + usUnits 64 ≤ s.now | [] => false
  | .event => !c.events.isEmpty
  | .item i => c.inbound.contains i
  | .submission g id => (s.pull g).subs.any fun x => x.id == id && x.answer.isNone
  | .dismissal g id => (s.pull g).subs.any fun x => x.id == id && x.answer.isNone
  | .late id => (d.queued ++ d.timed.map Prod.snd).any fun l => l.id == id
  | .leave g => (s.slot g).slice.isSome && (match (s.slot g).wait with | some (.leave _) => true | _ => false)
  | .violation => match d.viol with | some l => !l.waiting.isEmpty | none => false
  | .hostEntry _ => s.host.sqhead != s.host.sqtail
  | .manage => bit s.man.mbstat 31 && s.man.mbres.isNone

/-- The requests of a cluster in the order of R156. -/
def State.requests (s : State) (gc : Nat) : List (Nat × CommitRequest) :=
  (s.slotsOf gc).foldl (fun rs g =>
    match (s.slot g).wait with
    | some (.commit _ _ t) => if (s.gangOf g).headD g = g then insertRequest (t, .region g) rs else rs
    | _ => rs) (((s.cluster gc).ready.filter fun d => s.stands gc d.2.work).map fun d => (d.1, .done d.2))

/-- Does the work of a request wait for another time: the next ck for the withdrawal of a watch (spec/09_pull.md R269), its place in
R340's order for a task engine's? -/
def State.workHeld (s : State) (gc t : Nat) (w : Work) : Bool :=
  match w with
  | .cancel _ => s.ckOf gc ≤ t
  | .submission _ _ => !s.mayTurn (dieOf gc) 2
  | .hostEntry _ => !s.mayTurn (dieOf gc) 2
  | .dismissal _ _ => !s.mayTurn (dieOf gc) 5
  | .late _ => !s.mayTurn (dieOf gc) 1
  | _ => false

/-- Is a request held (R152, R163)? -/
def State.requestHeld (s : State) (gc : Nat) (r : Nat × CommitRequest) : Bool :=
  match r.2 with
  | .done d => s.linesHeld gc d.lines || s.workHeld gc r.1 d.work
  | .region g => s.regionHeld (s.gangOf g)

/-- Is the commit of a request made by a step of its own? -/
def CommitRequest.own : CommitRequest → Bool
  | .done d => match d.work with | .token => false | .cancel _ => false | _ => true
  | .region _ => false

/-- A request is committed unless it is held (R156). -/
def State.tryRequest (s : State) (gc : Nat) (r : Nat × CommitRequest) : State :=
  match r.2 with
  | .done d =>
    if s.requestHeld gc r then s
    else match d.work with
      | .token => s.tryDone gc (r.1, d)
      | .cancel id => s.tryCancel gc id (r.1, d)
      | _ => s
  | .region g => s.retryCommit g

/-- Requests are committed in their order unless they are held, up to one whose own step comes first. -/
def State.settleIn (s : State) (gc : Nat) : List (Nat × CommitRequest) → State
  | [] => s
  | r :: rs => if r.2.own && !s.requestHeld gc r then s else (s.tryRequest gc r).settleIn gc rs

/-- The requests of a cluster that are ready and not held are committed, the oldest first, up to one whose own step comes first
(R156). -/
def State.settle (s : State) (gc : Nat) : State := s.settleIn gc (s.requests gc)

/-- Are two requests for the same commit: the same token, the same work, or the same region? -/
def CommitRequest.same (a b : CommitRequest) : Bool :=
  match a, b with
  | .done d, .done e => d == e || (d.work != .token && d.work == e.work)
  | .region g, .region h => g == h
  | _, _ => false

/-- Does another request that is not held come before one (R156)? -/
def State.preceded (s : State) (gc : Nat) (r : Nat × CommitRequest) : Bool :=
  (s.requests gc).any fun q => !q.2.same r.2 && !requestBefore r q && !s.requestHeld gc q

/-- May the commit of a request be made now: it is not held, and no other that is not held comes before it (R156)? -/
def State.mayCommit (s : State) (gc : Nat) (r : Nat × CommitRequest) : Bool := !s.requestHeld gc r && !s.preceded gc r

/-- The request of a cluster for some work, with the ck at which it became ready. -/
def State.asked (s : State) (gc : Nat) (w : Work) : Option (Nat × Done) := (s.cluster gc).ready.find? fun r => r.2.work == w

/-- Some work asks for its commit no longer. -/
def State.unasked (s : State) (gc : Nat) (w : Work) : State :=
  if (s.asked gc w).isNone then s else s.modCluster gc fun c => { c with ready := c.ready.filter fun r => r.2.work != w }

/-- Some work asks for its commit: from the ck on at which it first did; requests whose work is gone are forgotten. -/
def State.ask (s : State) (gc t : Nat) (d : Done) : State :=
  let gone := (s.cluster gc).ready.filter fun r => r.2.work == d.work || !s.stands gc r.2.work
  s.modCluster gc fun c => { c with ready := insertDone t d (c.ready.filter fun r => !gone.contains r) }

/-- The ck from which on some work asks for its commit. -/
def State.askedAt (s : State) (gc : Nat) (w : Work) : Nat := ((s.asked gc w).map (·.1)).getD (s.ckOf gc)

/-- May the commit of some work be made now (R152, R156)? -/
def State.grants (s : State) (gc : Nat) (d : Done) : Bool := s.mayCommit gc (s.askedAt gc d.work, .done d)

/-- Some work asks for its commit, from the ck on at which it first did. -/
def State.defer (s : State) (gc : Nat) (d : Done) : State := s.ask gc (s.askedAt gc d.work) d

/-- Some work that ends in a commit of a cluster: the commit is made, by `f`, or requested (R152, R156). -/
def State.attempt (s : State) (gc : Nat) (d : Done) (f : State → State) : State :=
  if s.grants gc d then f (s.unasked gc d.work) else s.defer gc d

/-- What an agent of a cluster asks of the commit unit that no slot has launched. -/
def agentAsk (engine : Nat) (w : Work) (lines : List Nat) : Done :=
  { engine := engine, slot := Config.slots, st := 0, state := 0, disc := false, no := 0, work := w, lines := lines }

/-- The commit of the regions of some slots is requested, after the older requests of the cluster: it is made at once when it may be;
otherwise the slots wait for it by R12. An older commit may discard the region instead (R146, R152, R156). -/
def State.requestCommit (s : State) (afters : List (Nat × After)) (next : Word) : State :=
  let gs := afters.map (·.1)
  let g := gs.headD 0
  let s1 := s.settle (clusterOf g)
  let ck := s1.ckOf (clusterOf g)
  if (s1.slot g).region.no ≠ (s.slot g).region.no then s1
  else if s1.regionHeld gs || s1.preceded (clusterOf g) (ck, .region g) then
    afters.foldl (fun s a => s.modSlot a.1 fun x => { x with wait := some (.commit a.2 next ck) }) s1
  else s1.finishRegions afters next

/-! ## Bundles -/

/-- What a word uses: the scalar registers it reads or writes, the main-file registers and bulbs it reads or writes, and
its main-file reads (R28, R49, R60). -/
structure Uses where
  s : List Nat := []
  v : List Nat := []
  q : List Nat := []
  reads : List Nat := []
  deriving DecidableEq, Repr

/-- Does a load in flight write something the word uses (R49)? -/
def Load.blocks (l : Load) (u : Uses) : Bool :=
  match l.dest with
  | .sreg n => n != 0 && u.s.contains n
  | .vreg n _ => u.v.contains n
  | .bulb n => u.q.contains n

/-- One word of a bundle: it stalls on what it uses (R28, R49), else its body acts. -/
def guarded (u : Uses) (body : State → State) (s : State) : State :=
  let x := s.me
  let waiting := u.s.filter fun n => n != 0 && bit s.src.pend n
  match waiting.filter fun n => !bit x.region.ckpt.pend n with
  | n :: _ =>
    if x.region.atomic then s.raise 0x081 (BitVec.ofNat 32 n) else s.stallFor (.force (.reopen 4))
  | [] =>
    if !waiting.isEmpty then s.stallFor (.wait true)
    else if s.bundleD.loads.any fun l => l.blocks u then s.stallFor (.wait false)
    else body (s.modBundle fun b => { b with reads := b.reads ++ u.reads })

/-- The bundle of a slot begins: both words will read the registers as they stand (R49). -/
def State.beginBundle (s : State) (g : Nat) (pc next : Word) : State :=
  { s with
    cur := g
    bundle := some { src := (s.slot g).live, loads := (s.slot g).loads, pc := pc, next := next, raised := none, stall := none, target := none,
                     ends := none, abort := none, reads := [], extra := 0, logs := [] } }

/-- The forced commit a bundle asks for, if it stalls on one. -/
def Bundle.forces (b : Bundle) : Option After :=
  match b.stall with
  | some (.force a) => some a
  | _ => none

/-- The extra ck of a bundle: one for each main-file read beyond two, and the replays (R60, R171). -/
def Bundle.ck (b : Bundle) : Nat := 1 + (b.reads.eraseDups.length - 2) + b.extra

/-- A stalled bundle leaves no effect; a ck passes; a solo run ends when only another agent can end the wait (R12,
R163); an abort request discards the region of a slot that stalls (spec/12_tasks.md R345). -/
def State.stalled (s : State) (gs : List Nat) (other : Bool) : State :=
  let s1 := if other then gs.foldl (fun s g => s.endSolo g) s else s
  (if gs.any fun g => (s.slot g).abort then gs.foldl (fun s g => (s.rerun g 6).endSolo g) (s1.giveUpAll gs) else s1).tick (gs.headD 0) 1

/-- A host page is requested by PRI, unless its request is outstanding or 64 are (spec/14_host.md R384, R401). -/
def State.askPage (s : State) (pasid page : Nat) : State :=
  let h := s.host
  if (h.pri.any fun r => r.pasid == pasid && r.page == page) || 64 ≤ h.pri.length then s
  else { s with host := { h with pri := h.pri ++ [⟨pasid, page, s.now⟩] } }

/-- What a stalled bundle leaves: the walk or the host page that its slot waits for (spec/14_host.md R390, R401). -/
def State.noteStall (s : State) (g : Nat) (b : Bundle) : State :=
  match b.stall with
  | some (.walk a kind) => s.modSlot g fun x => { x with walk := some ⟨a, kind, none⟩ }
  | some (.hostPage pasid page a) =>
    (s.askPage pasid page).modSlot g fun x => { x with hostWait := some (pasid, page, a, b.pc) }
  | _ => s

/-- The refusals of a bundle that raised a cause are logged in its cluster's die (spec/01_engines.md R19). -/
def State.takeLogs (s : State) (g : Nat) (b : Bundle) : State := b.logs.foldl (fun s v => s.logRefusal (clusterOf g) v) s

/-- The forced commit of a TALLOC with the number of free tiles that the members of the gang found before the bundle
(spec/10_pool.md R291). -/
def State.countFree (s : State) (g : Nat) (a : After) : After :=
  match a with
  | .talloc k _ => .talloc k (match s.part (clusterOf g) k with | some p => p.free.length | none => 0)
  | a => a

/-- What the forcing words of some members have entered in their signatures: a TALLOC its keys, a RECV its lines
(spec/10_pool.md R291; spec/11_messages.md R323). -/
def State.enterForced (s : State) (afters : List (Nat × After)) : State :=
  afters.foldl (fun s a => match a.2 with
    | .talloc k _ => s.modSlot a.1 fun x => { x with region := x.region.keyed [cfgKey k] [useKey k] }
    | .recv h => s.modSlot a.1 fun x => { x with region := { x.region with rsig := x.region.rsig ||| sigBits h ||| sigBits (h + 0x40) } }
    | _ => s) s

/-- A discard by ABORT on one slot (R147). -/
def State.abortRegion (s : State) (g : Nat) (code : Byte) : State :=
  ((s.rerun g 7).endSolo g).modSlot g fun x => { x with stat := { x.stat with acode := code, conf := 0 } }

/-- The end of a bundle that ran on a list of members, the leader first: `s` is the state before the bundle, `t` the
state its words left, and each member has its bundle record. The order is that of R12, R43 and R145: a stall, a cause,
the line and effect limits, then the bundle's own end. -/
def State.endBundle (s t : State) (ctxs : List (Nat × Bundle)) : State :=
  let gs := ctxs.map (·.1)
  let lead := (ctxs.head?.map (·.2)).getD s.bundleD
  let ck := ctxs.foldl (fun n c => max n c.2.ck) 1
  match ctxs.findSome? fun c => c.2.forces with
  | some _ =>
    let afters := ctxs.map fun c => (c.1, s.countFree c.1 (c.2.forces.getD (.reopen 4)))
    ((s.enterForced afters).requestCommit afters lead.pc).stalled gs false
  | none =>
    match ctxs.filterMap fun c => c.2.stall with
    | k :: _ => (ctxs.foldl (fun s c => s.noteStall c.1 c.2) s).stalled gs (match k with | .wait o => o | _ => false)
    | [] =>
      if ctxs.any fun c => c.2.raised.isSome then
        ((ctxs.foldl (fun s c => s.takeLogs c.1 c.2) s).takeCauses
          (ctxs.map fun c => (c.1, c.2.raised.map fun r => (r.1, r.2, some c.2.pc)))).stalled gs false
      else
        let lines := gs.any fun g => Config.maxLines < (linesOf (t.slot g).region.stores).length
        let effs := gs.any fun g => Config.maxEffects < (t.slot g).region.effects.length
        if lines || effs then
          let code := if lines then 2 else 3
          if (s.slot (gs.headD 0)).region.atomic then
            (s.takeCauses (ctxs.map fun c => (c.1, some (0x080, BitVec.ofNat 32 code, some c.2.pc)))).stalled gs false
          else (s.requestCommit (gs.map fun g => (g, .reopen code)) lead.pc).stalled gs false
        else if ctxs.any fun c => c.2.abort.isSome then
          (ctxs.foldl (fun (s : State) c => s.abortRegion c.1 (c.2.abort.getD 0)) ({ t with bundle := none }.giveUpAll gs)).tick
            (gs.headD 0) ck
        else
          let t1 := ctxs.foldl (fun s c =>
            s.modSlot c.1 fun x => { x with region := { x.region with bundles := x.region.bundles + 1 } })
            { t with bundle := none }
          let t2 :=
            if ctxs.any fun c => c.2.ends.isSome then
              t1.requestCommit (ctxs.map fun c => (c.1, c.2.ends.getD (.next false))) lead.next
            else ctxs.foldl (fun s c => s.modSlot c.1 fun x => { x with pc := lead.target.getD lead.next }) t1
          t2.tick (gs.headD 0) ck

/-- One bundle of the acting slot, of `len` bytes, whose words act by `f`: on every member of its gang, the leader
first (R122). The bundle limit is checked before the words execute (R145). -/
def runBundle (len : Nat) (f : State → State) (s : State) : State :=
  let gs := s.gangOf s.cur
  let lead := s.slot (gs.headD 0)
  let pc := lead.pc
  let home := s.cur
  if gs.any fun g => Config.maxBundles ≤ (s.slot g).region.bundles then
    if lead.region.atomic then
      (s.takeCauses (gs.map fun g => (g, some (0x080, 1, some pc)))).stalled gs false
    else (s.requestCommit (gs.map fun g => (g, .reopen 1)) pc).stalled gs false
  else
    let r := gs.foldl (fun (a : State × List (Nat × Bundle)) g =>
      let t := f (a.1.beginBundle g pc (pc + BitVec.ofNat 32 len))
      (t, a.2 ++ [(g, t.bundleD)])) (s, [])
    { s.endBundle r.1 r.2 with cur := home, bundle := none }

/-- The meaning of a word over its body: outside a bundle the word is a bundle of its own (a solo word, R47); inside a
pair only its own part acts. -/
def word (u : Uses) (body : State → State) (s : State) : Host.Outcome State Fault Refusal :=
  match s.bundle with
  | some _ => .next (guarded u body s)
  | none => .next (runBundle 4 (guarded u body) s)

end Sys2Proof.Machine
end

