-- ==== Sys2Proof/Machine/Operands.lean ====
section
/-!
DEFINITION. The operand forms: scalar registers, the operand specifier of B-words, predicates and masks, local addresses
with their checks, and the bytes that loads and stores of a region see (spec/02_encoding.md R53-R61; spec/03_numbers.md
R92-R97; spec/04_control.md R114-R118; spec/01_engines.md R33-R36; spec/05_commit.md R154, R155).
-/

namespace Sys2Proof.Machine

/-! ## Registers -/

/-- A scalar register of a register file; s0 reads 0 (R61). -/
def Regs.sreg (r : Regs) (n : Nat) : Word := if h : n < 32 then (if n = 0 then 0 else r.s[n]) else 0

/-- A scalar source, as it stood before the bundle (R49). -/
def State.rS (s : State) (n : BitVec 5) : Word := s.src.sreg n.toNat

/-- A register file with a scalar written; writes to s0 are ignored (R61). -/
def Regs.setS (r : Regs) (n : Nat) (v : Word) : Regs :=
  if h : n < 32 then (if n = 0 then r else { r with s := r.s.set n v }) else r

/-- A scalar destination. -/
def State.wS (s : State) (n : BitVec 5) (v : Word) : State := s.modLive fun r => r.setS n.toNat v

/-- A predicate of a register file; p0 reads all-true (R61). -/
def Regs.preg (r : Regs) (n : Nat) : BitVec 16 := if h : n < 8 then (if n = 0 then 0xFFFF else r.p[n]) else 0

/-- A predicate source. -/
def State.rP (s : State) (n : Nat) : BitVec 16 := s.src.preg n

/-- A predicate destination; writes to p0 are ignored (R61). -/
def State.wP (s : State) (n : Nat) (v : BitVec 16) : State :=
  s.modLive fun r => if h : n < 8 then (if n = 0 then r else { r with p := r.p.set n v }) else r

/-- Lane i of a mask. -/
def lane (m : BitVec 16) (i : Nat) : Bool := m.toNat / 2 ^ i % 2 == 1

/-- A mask from its lanes. -/
def maskOf (f : Nat → Bool) : BitVec 16 :=
  BitVec.ofNat 16 ((List.range 16).foldl (fun x i => x + if f i then 2 ^ i else 0) 0)

/-- A vector from its lanes. -/
def vecOf (f : Nat → Word) : Vec := Vector.ofFn fun i => f i.val

/-- Lane i of a vector. -/
def laneOf (v : Vec) (i : Nat) : Word := if h : i < 16 then v[i] else 0

/-- The operand a specifier names as a source: v, w, lx, or a scalar broadcast to all lanes (R56, R58). -/
def Regs.operand (r : Regs) (x : BitVec 7) : Vec :=
  let n := x.toNat
  if h : n < 64 then r.v[n]
  else if h : n < 72 then r.w[n - 64]
  else if n = 72 then r.lx
  else if 96 ≤ n then vecOf fun _ => r.sreg (n - 96)
  else vecOf fun _ => 0

/-- A vector source operand, as it stood before the bundle (R49). -/
def State.rV (s : State) (x : BitVec 7) : Vec := s.src.operand x

/-- A register file with the vector named by a specifier written, and lx written with the same value (R57). -/
def Regs.setOperand (r : Regs) (x : BitVec 7) (v : Vec) : Regs :=
  let n := x.toNat
  if h : n < 64 then { r with v := r.v.set n v, lx := v }
  else if h : n < 72 then { r with w := r.w.set (n - 64) v, lx := v }
  else if n = 72 then { r with lx := v }
  else r

/-- A main-file register written by an A-word, which leaves lx alone (R57). -/
def Regs.setV (r : Regs) (n : Nat) (v : Vec) : Regs := if h : n < 64 then { r with v := r.v.set n v } else r

/-- A main-file register of a register file. -/
def Regs.vreg (r : Regs) (n : Nat) : Vec := if h : n < 64 then r.v[n] else vecOf fun _ => 0

/-- A bulb register of a register file. -/
def Regs.bulb (r : Regs) (n : Nat) : Bulb := if h : n < 8 then r.q[n] else Bulb.reset

/-- A register file with a bulb written. -/
def Regs.setBulb (r : Regs) (n : Nat) (b : Bulb) : Regs := if h : n < 8 then { r with q := r.q.set n b } else r

/-- A load in flight to a destination is dropped, since a later write of the register follows (R49). -/
def State.dropLoad (s : State) (d : LoadDest → Bool) : State :=
  s.modMe fun x => { x with loads := x.loads.filter fun l => !d l.dest }

/-- The lanes of a result under a write mask: an excluded lane keeps the destination's value from before the bundle
(R57, R59, log entry 12). -/
def masked (m : BitVec 16) (old new : Vec) : Vec := vecOf fun i => if lane m i then laneOf new i else laneOf old i

/-- A B-word's vector destination under the write mask pg; lx receives the same merged value (R57, R59). -/
def State.wV (s : State) (d : BitVec 7) (pg : BitVec 2) (v : Vec) : State :=
  (s.dropLoad fun x => match x with | .vreg n _ => n == d.toNat | _ => false).modLive fun r =>
    r.setOperand d (masked (s.rP pg.toNat) (s.rV d) v)

/-- Flags enter STATUS (R85). -/
def State.orLive (s : State) (f : Flags) : State := s.modLive fun r => { r with status := setFlags r.status f }

/-- The union of the flags of the lanes of a mask. -/
def maskFlags (m : BitVec 16) (f : Nat → Flags) : Flags :=
  (List.range 16).foldl (fun x i => if lane m i then x ||| f i else x) 0

/-! ## What words use (R28, R49, R60) -/

/-- Scalar registers alone. -/
def useS (l : List (BitVec 5)) : Uses := { s := l.map BitVec.toNat }

/-- Consecutive scalar registers from one on: a descriptor quad and the like. -/
def regsFrom (c : BitVec 5) (n : Nat) : List Nat := (List.range n).map fun i => c.toNat + i

/-- The uses of the source specifiers of a B-word. -/
def useSrc (l : List (BitVec 7)) : Uses :=
  let main := (l.map BitVec.toNat).filter fun n => n < 64
  { s := ((l.map BitVec.toNat).filter fun n => 96 ≤ n).map fun n => n - 96, v := main, reads := main }

/-- The uses of a B-word that writes d from sources; merging under a predicate is no read (R60). -/
def useB (d : BitVec 7) (l : List (BitVec 7)) : Uses :=
  let u := useSrc l
  { u with v := if d.toNat < 64 then d.toNat :: u.v else u.v }

/-! ## Local addresses -/

/-- What a local address reaches (R33). -/
inductive Place where
  /-- A byte of owner memory by flat address. -/
  | mem (a : Nat)
  /-- A byte of the trap scratch. -/
  | scratch (o : Nat)
  /-- The read-only part of the control and status page. -/
  | page (o : Nat)
  /-- An element of a narrow format at a flat address. -/
  | narrow (f : Fmt) (a : Nat)
  /-- A 4-bit code: flat addresses of its byte and of its scale byte, and whether it is the high half. -/
  | block (a scale : Nat) (high : Bool)
  deriving DecidableEq, Repr

/-- The place of a local address of the acting slot, or `none` where there is none (R33-R35, R92, R96, R97). -/
def State.locate (s : State) (a : Word) : Option Place :=
  let n := a.toNat
  let gc := s.myCluster
  let ram := ramSize gc
  if n < 0x40000 then some (.mem (flatTcm gc (coreOf s.cur) n))
  else if n < 0x10000000 then none
  else if n < 0x20000000 then
    if n - 0x10000000 < ram then some (.mem (flatRam gc (n - 0x10000000))) else none
  else if n < 0x30000000 then
    if n - 0x20000000 < 2 * ram then some (.narrow fmtBF16 (flatRam gc (2 * ((n - 0x20000000) / 4)))) else none
  else if n < 0x38000000 then
    if n - 0x30000000 < 4 * ram then some (.narrow fmtE4M3 (flatRam gc ((n - 0x30000000) / 4))) else none
  else if n < 0x40000000 then
    if n - 0x38000000 < 4 * ram then some (.narrow fmtE5M2 (flatRam gc ((n - 0x38000000) / 4))) else none
  else if n < 0x70000000 then
    if isMem gc || 0x1000000 ≤ n - 0x40000000 then none
    else
      let e := (n - 0x40000000) / 4
      let d := e / 2
      let bs := s.src.bscale
      let db := bits bs 15 12 * 512
      let sp := bits bs 0 15 * 64 + (d - db) / 16
      if bit bs 31 && db ≤ d && sp ≤ 0x1FFFFF then some (.block (flatRam gc d) (flatRam gc sp) (e % 2 == 1)) else none
  else if n < 0x80000000 then
    if n < 0x70000400 then some (.scratch (n - 0x70000000))
    else if n < 0x70001000 then some (.page (n - 0x70000000)) else none
  else
    if isMem gc then some (.mem (flatHbm gc (n - 0x80000000 + if bit s.src.hwin 0 then 0x40000000 else 0))) else none

/-- A place reached through a format window (R95). -/
def Place.isWindow : Place → Bool
  | .narrow _ _ => true
  | .block _ _ _ => true
  | _ => false

/-- A place that no store may reach (R34, R118). -/
def Place.readOnly : Place → Bool
  | .block _ _ _ => true
  | .page _ => true
  | _ => false

/-- The bytes behind an access of n bytes at a place, as flat places (R92, R97). -/
def Place.bytes (n : Nat) : Place → List Nat
  | .mem a => (List.range n).map fun i => a + i
  | .scratch o => (List.range n).map fun i => scratchBase + o + i
  | .page _ => []
  | .narrow f a => if f.ebits + f.fbits = 15 then [a, a + 1] else [a]
  | .block a sc _ => [a, sc]

/-- The checks of R114 on one address, in their order: `size` bytes, `elem` for the accesses that format windows permit
(R95), `store` for a store, an AMO or a QST, the alignment test and its cause. -/
def State.checkLocal (s : State) (a : Word) (size : Nat) (elem store aligned : Bool) (alignCause : Nat) : Option Nat :=
  match s.locate a with
  | none => some 0x012
  | some p =>
    if p.isWindow && !elem then some 0x014
    else if store && p.readOnly then some 0x013
    else if !aligned then some alignCause
    else if (p.bytes size).any fun b => s.otherPool s.me.domain b then some 0x240
    else if store && ((p.bytes size).any fun b => (s.sealOf b).isSome) then some 0x386
    else none

/-! ## Bytes that a region sees and buffers -/

/-- A byte of a slot's trap scratch: a free value until it is written (R118). -/
def Slot.scratchByte (x : Slot) (g o : Nat) : Byte := (mfind x.scratch o).getD (Config.scratchByte g x.epoch o)

/-- A byte as the acting slot's region sees it: its own latest store, else the committed byte (R115, R154). -/
def State.peek (s : State) (a : Nat) : Byte :=
  match mfind s.me.region.stores a with
  | some b => b
  | none => if scratchBase ≤ a then s.me.scratchByte s.cur (a - scratchBase) else s.ownByte a

/-- The number held in n bytes from a flat place on, as the region sees it. -/
def State.peekNat (s : State) (a n : Nat) : Nat := leNat ((List.range n).map fun i => s.peek (a + i))

/-- The host page of a byte of a bound alias that is not in the cache of host translations: address space and page (R401,
spec/14_host.md R384). -/
def State.absentPage (s : State) (a : Nat) : Option (Nat × Nat) :=
  match s.aliasOf a with
  | some (_, r, x) =>
    let page := (r.val.toNat + 2 ^ 32 * r.vah.toNat + (a - x.start)) / 4096
    if s.host.ats.contains (r.pasid.toNat, page) then none else some (r.pasid.toNat, page)
  | none => none

/-- The first host page of some ranges of flat addresses that is not in the cache of host translations (R401). -/
def State.absentIn (s : State) (rs : List (Nat × Nat)) : Option (Nat × Nat) :=
  rs.findSome? fun r => (linesOfRows [r.1] r.2).findSome? fun l => s.absentPage (64 * l)

/-- The host page that the read of a line of this module waits for, if the line lies in a bound alias and the page is not in the
cache of host translations (spec/14_host.md R401). -/
def State.pageAwaited (s : State) (p : Page) (a : Nat) : Option (Nat × Nat) :=
  if p.disc || p.chip != s.chip || s.cutOff p then none
  else (s.flatOf p (a / 64 * 64)).bind fun f => s.absentPage f

/-- The local address by which the acting slot reaches a byte of owner memory: of HBM behind its window as HWIN places it
(spec/01_engines.md R35). -/
def State.localOf (s : State) (a : Nat) : Nat :=
  if a % 2 ^ 33 < 2 ^ 32 ∧ bit s.src.hwin 0 then (localAddr a + 0xC0000000) % 2 ^ 32 else localAddr a

/-- An access to some places stalls its bundle while a host page of theirs is absent (R401, log entry 72). -/
def State.awaitPages (s : State) (ps : List Nat) : State :=
  match ps.findSome? fun a => (s.absentPage a).map fun p => (p, a) with
  | some (p, a) => s.stallFor (.hostPage p.1 p.2 (BitVec.ofNat 32 (s.localOf a)))
  | none => s

/-- Reads of places enter the region's read signature, and a discarded byte sets STATUS.DISCARD (R155, R397); a byte whose
host page is absent stalls the bundle (R401); a line with an uncorrectable error raises 0x3C1 (spec/15_taproot.md R419). A load that the
region's own stores serve wholly enters its line too: the model's choice (log entry 73). -/
def State.noteRead (s : State) (ps : List Nat) : State :=
  let s1 := match ps.find? fun a => s.faulty.contains (lineOf a) && (mfind s.me.region.stores a).isNone with
    | some a => s.raiseMachine 0x3C1 (BitVec.ofNat 32 (s.localOf a))
    | none => s
  (s1.awaitPages ps).modMe fun x =>
    { x with
      region := { x.region with rsig := ps.foldl (fun r a => r ||| sigBits a) x.region.rsig }
      live := if ps.any s.isDiscarded then { x.live with status := withBit x.live.status 16 true } else x.live }

/-- Bytes are buffered by the region; their lines enter its write signature (R148, R155); a byte whose host page is absent stalls the
bundle (spec/14_host.md R401). -/
def State.buffer (s : State) (ws : FMap Byte) : State :=
  (s.awaitPages (ws.map Prod.fst)).modMe fun x =>
    { x with region :=
        { x.region with
          stores := ws.foldl (fun m c => mput m c.1 c.2) x.region.stores
          wsig := ws.foldl (fun r c => r ||| sigBits c.1) x.region.wsig } }

/-- COMMIT_EFFECT: an effect is appended to the region's list (R10). -/
def State.effect (s : State) (e : Effect) : State :=
  s.modMe fun x => { x with region := { x.region with effects := x.region.effects ++ [e] } }

/-- The ck count of the acting slot's die. -/
def State.cycles (s : State) : Nat := s.ckOf s.myCluster

/-- A word of the read-only part of the control and status page (R118). -/
def State.pageWord (s : State) (o : Nat) : Word :=
  match o with
  | 0x400 => BitVec.ofNat 32 s.cur
  | 0x404 => s.src.pend
  | 0x408 => BitVec.ofNat 32 s.cycles
  | 0x40C => s.me.cycleH
  | _ => 0

/-- The value of n bytes read at a place: raw bytes, or the FP32 value of the element (R93, R97). -/
def State.readPlace (s : State) (n : Nat) : Place → Word
  | .mem a => BitVec.ofNat 32 (s.peekNat a n)
  | .scratch o => BitVec.ofNat 32 (s.peekNat (scratchBase + o) n)
  | .page o => BitVec.ofNat 32 ((s.pageWord (o / 4 * 4)).toNat / 2 ^ (8 * (o % 4)) % 2 ^ (8 * n))
  | .narrow f a => f.widen (s.peekNat a ((f.ebits + f.fbits + 1) / 8))
  | .block a sc high => decodeB4 (s.peek sc).toNat ((s.peek a).toNat / (if high then 16 else 1) % 16)

/-- What a read does to the state besides its value: the signature, DISCARD, and the capture of CYCLE by a read of any of
its bytes, after the values of the access have been read (R109, log entry 63). -/
def State.touchPlace (s : State) (n : Nat) (p : Place) : State :=
  match p with
  | .page o =>
    if o / 4 * 4 = 0x408 then s.modMe fun x => { x with cycleH := BitVec.ofNat 32 (s.cycles / 2 ^ 32) } else s
  | _ => s.noteRead (p.bytes n)

/-- The bytes that a store of n bytes of a value writes at a place, with the flags of its narrowing (R94). -/
def storeAt (n : Nat) (v : Word) : Place → FMap Byte × Flags
  | .mem a => (placed a (leBytes n v.toNat), 0)
  | .scratch o => (placed (scratchBase + o) (leBytes n v.toNat), 0)
  | .page _ => ([], 0)
  | .narrow f a =>
    let r := f.narrow v
    (placed a (leBytes ((f.ebits + f.fbits + 1) / 8) r.1), r.2)
  | .block _ _ _ => ([], 0)

/-- The address of an AM word: sa + n * SEXT(off14, 14) modulo 2^32 (R114). -/
def State.addrAM (s : State) (a : BitVec 5) (o : BitVec 14) (n : Nat) : Word :=
  s.rS a + BitVec.ofInt 32 (o.toInt * n)

/-- The address a of an AV word with an offset: sa + 64 * SEXT(off10, 10) (R116). -/
def State.addrAV (s : State) (a : BitVec 5) (o : BitVec 10) : Word := s.rS a + BitVec.ofInt 32 (o.toInt * 64)

/-- A pod address pair g:[sh:sl] (spec/01_engines.md R36). -/
def podAddr (hi lo : Word) : Nat := hi.toNat % 2 ^ 24 * 2 ^ 32 + lo.toNat

/-- A high register whose bits [31:24] are not 0 names no pod address (R36). -/
def notCanonical (hi : Word) : Bool := 2 ^ 24 ≤ hi.toNat

/-- A load arrives in its destination of a register file. -/
def Regs.arrive (r : Regs) (l : Load) : Regs :=
  match l.dest with
  | .sreg n => r.setS n l.word
  | .vreg n m => r.setV n (masked m (r.vreg n) l.vec)
  | .bulb n => r.setBulb n l.bulb

/-- The data of a local load: they arrive at once, or later by a step of their own (R143, log entry 3). -/
def State.deliver (s : State) (l : Load) : State :=
  if s.lateLoads then s.modMe fun x => { x with loads := x.loads ++ [{ l with region := x.region.no }] }
  else s.modLive fun r => r.arrive l

/-- A load of a scalar register. -/
def loadS (n : BitVec 5) (v : Word) : Load :=
  { dest := .sreg n.toNat, word := v, vec := vecOf fun _ => 0, bulb := Bulb.reset, region := 0, fetch := none, addr := 0,
    pc := 0 }

/-- A load of the included lanes of a main-file register. -/
def loadV (n : BitVec 6) (m : BitVec 16) (v : Vec) : Load :=
  { dest := .vreg n.toNat m, word := 0, vec := v, bulb := Bulb.reset, region := 0, fetch := none, addr := 0, pc := 0 }

/-- A load of a bulb register. -/
def loadQ (n : Nat) (b : Bulb) : Load :=
  { dest := .bulb n, word := 0, vec := vecOf fun _ => 0, bulb := b, region := 0, fetch := none, addr := 0, pc := 0 }

end Sys2Proof.Machine
end

