-- ==== Sys2Proof/Machine/Alu.lean ====
section
/-!
DEFINITION. The scalar arithmetic of the control engine (spec/04_control.md R104-R106).
-/

namespace Sys2Proof.Machine

/-- An ALU word of three registers: sd := f(sa, sb), the sources as they stood before the bundle (R104). -/
def alu3 (f : Word → Word → Word) (d a b : BitVec 5) (s : State) : Host.Outcome State Fault Refusal :=
  word (useS [d, a, b]) (fun s => s.wS d (f (s.rS a) (s.rS b))) s

/-- An ALU word of two registers: sd := f(sa). -/
def alu2 (f : Word → Word) (d a : BitVec 5) (s : State) : Host.Outcome State Fault Refusal :=
  word (useS [d, a]) (fun s => s.wS d (f (s.rS a))) s

/-- 1 or 0. -/
def ofBool (b : Bool) : Word := if b then 1 else 0

/-- CLZ: the leading zero bits of a word (R8). -/
def clz32 (x : Word) : Word := BitVec.ofNat 32 (32 - bitLength x.toNat)

/-- The number of 1 bits of a word. -/
def popCount (x : Word) : Word :=
  BitVec.ofNat 32 ((List.range 32).foldl (fun n i => n + x.toNat / 2 ^ i % 2) 0)

/-- The quotient and remainder of the signed division of R105. -/
def divSigned (x y : Int) : Int × Int :=
  if y = 0 then (-1, x) else if x = -(2 ^ 31) ∧ y = -1 then (-(2 ^ 31), 0) else (x.tdiv y, x - x.tdiv y * y)

/-- The quotient and remainder of the natural division of R105. -/
def divNatural (x y : Nat) : Nat × Nat := if y = 0 then (2 ^ 32 - 1, x) else (x / y, x - x / y * y)

/-- The arithmetic right shift of a word. -/
def sra32 (x : Word) (n : Nat) : Word := x.sshiftRight n

/-- ZEXT(imm14, 14) as a word. -/
def zext14 (i : BitVec 14) : Word := i.setWidth 32

/-- SEXT(imm14, 14) as a word. -/
def sext14 (i : BitVec 14) : Word := i.signExtend 32

/-- ADD: x + y (R104). -/
def execAdd (d a b : BitVec 5) (s : State) : Host.Outcome State Fault Refusal :=
  alu3 (fun x y => x + y) d a b s

/-- SUB: x - y (R104). -/
def execSub (d a b : BitVec 5) (s : State) : Host.Outcome State Fault Refusal :=
  alu3 (fun x y => x - y) d a b s

/-- AND: x & y (R104). -/
def execAnd (d a b : BitVec 5) (s : State) : Host.Outcome State Fault Refusal :=
  alu3 (fun x y => x &&& y) d a b s

/-- OR: x | y (R104). -/
def execOr (d a b : BitVec 5) (s : State) : Host.Outcome State Fault Refusal :=
  alu3 (fun x y => x ||| y) d a b s

/-- XOR: x ^ y (R104). -/
def execXor (d a b : BitVec 5) (s : State) : Host.Outcome State Fault Refusal :=
  alu3 (fun x y => x ^^^ y) d a b s

/-- ANDN: x & ~y (R104). -/
def execAndn (d a b : BitVec 5) (s : State) : Host.Outcome State Fault Refusal :=
  alu3 (fun x y => x &&& ~~~y) d a b s

/-- SHL: x << y[4:0] (R104). -/
def execShl (d a b : BitVec 5) (s : State) : Host.Outcome State Fault Refusal :=
  alu3 (fun x y => x <<< (y.toNat % 32)) d a b s

/-- SHR: x >> y[4:0], logical (R104). -/
def execShr (d a b : BitVec 5) (s : State) : Host.Outcome State Fault Refusal :=
  alu3 (fun x y => x >>> (y.toNat % 32)) d a b s

/-- SRA: arithmetic right shift by y[4:0] (R104). -/
def execSra (d a b : BitVec 5) (s : State) : Host.Outcome State Fault Refusal :=
  alu3 (fun x y => sra32 x (y.toNat % 32)) d a b s

/-- SLT: signed x < y (R104). -/
def execSlt (d a b : BitVec 5) (s : State) : Host.Outcome State Fault Refusal :=
  alu3 (fun x y => ofBool (x.toInt < y.toInt)) d a b s

/-- SLTN: natural x < y (R104). -/
def execSltn (d a b : BitVec 5) (s : State) : Host.Outcome State Fault Refusal :=
  alu3 (fun x y => ofBool (x.toNat < y.toNat)) d a b s

/-- SEQ: x = y (R104). -/
def execSeq (d a b : BitVec 5) (s : State) : Host.Outcome State Fault Refusal :=
  alu3 (fun x y => ofBool (x == y)) d a b s

/-- MIN: the signed lesser (R104). -/
def execMin (d a b : BitVec 5) (s : State) : Host.Outcome State Fault Refusal :=
  alu3 (fun x y => if x.toInt ≤ y.toInt then x else y) d a b s

/-- MINN: the natural lesser (R104). -/
def execMinn (d a b : BitVec 5) (s : State) : Host.Outcome State Fault Refusal :=
  alu3 (fun x y => if x.toNat ≤ y.toNat then x else y) d a b s

/-- MAX: the signed greater (R104). -/
def execMax (d a b : BitVec 5) (s : State) : Host.Outcome State Fault Refusal :=
  alu3 (fun x y => if y.toInt ≤ x.toInt then x else y) d a b s

/-- MAXN: the natural greater (R104). -/
def execMaxn (d a b : BitVec 5) (s : State) : Host.Outcome State Fault Refusal :=
  alu3 (fun x y => if y.toNat ≤ x.toNat then x else y) d a b s

/-- ADDX4: x + 4 * y (R104). -/
def execAddx4 (d a b : BitVec 5) (s : State) : Host.Outcome State Fault Refusal :=
  alu3 (fun x y => x + 4 * y) d a b s

/-- ADDX64: x + 64 * y (R104). -/
def execAddx64 (d a b : BitVec 5) (s : State) : Host.Outcome State Fault Refusal :=
  alu3 (fun x y => x + 64 * y) d a b s

/-- MUL: (x * y)[31:0] (R104). -/
def execMul (d a b : BitVec 5) (s : State) : Host.Outcome State Fault Refusal :=
  alu3 (fun x y => x * y) d a b s

/-- MULH: (S(x) * S(y))[63:32] (R104). -/
def execMulh (d a b : BitVec 5) (s : State) : Host.Outcome State Fault Refusal :=
  alu3 (fun x y => BitVec.ofInt 32 (x.toInt * y.toInt / 2 ^ 32)) d a b s

/-- MULHN: (Z(x) * Z(y))[63:32] (R104). -/
def execMulhn (d a b : BitVec 5) (s : State) : Host.Outcome State Fault Refusal :=
  alu3 (fun x y => BitVec.ofNat 32 (x.toNat * y.toNat / 2 ^ 32)) d a b s

/-- DIV: the signed quotient (R105). -/
def execDiv (d a b : BitVec 5) (s : State) : Host.Outcome State Fault Refusal :=
  alu3 (fun x y => BitVec.ofInt 32 (divSigned x.toInt y.toInt).1) d a b s

/-- DIVN: the natural quotient (R105). -/
def execDivn (d a b : BitVec 5) (s : State) : Host.Outcome State Fault Refusal :=
  alu3 (fun x y => BitVec.ofNat 32 (divNatural x.toNat y.toNat).1) d a b s

/-- REM: the signed remainder (R105). -/
def execRem (d a b : BitVec 5) (s : State) : Host.Outcome State Fault Refusal :=
  alu3 (fun x y => BitVec.ofInt 32 (divSigned x.toInt y.toInt).2) d a b s

/-- REMN: the natural remainder (R105). -/
def execRemn (d a b : BitVec 5) (s : State) : Host.Outcome State Fault Refusal :=
  alu3 (fun x y => BitVec.ofNat 32 (divNatural x.toNat y.toNat).2) d a b s

/-- MOVZ: sd := sa if sb = 0, else sd is unchanged (R104). -/
def execMovz (d a b : BitVec 5) (s : State) : Host.Outcome State Fault Refusal :=
  word (useS [d, a, b]) (fun s => if s.rS b == 0 then s.wS d (s.rS a) else s) s

/-- MOVNZ: sd := sa if sb is not 0, else sd is unchanged (R104). -/
def execMovnz (d a b : BitVec 5) (s : State) : Host.Outcome State Fault Refusal :=
  word (useS [d, a, b]) (fun s => if s.rS b != 0 then s.wS d (s.rS a) else s) s

/-- CLZ: the number of leading zero bits (R104). -/
def execClz (d a : BitVec 5) (s : State) : Host.Outcome State Fault Refusal := alu2 clz32 d a s

/-- POPC: the number of 1 bits (R104). -/
def execPopc (d a : BitVec 5) (s : State) : Host.Outcome State Fault Refusal := alu2 popCount d a s

/-- PRD: sd := ZEXT(predicate pa, 16) (R104). -/
def execPrd (d a : BitVec 5) (s : State) : Host.Outcome State Fault Refusal :=
  word (useS [d]) (fun s => s.wS d ((s.rP a.toNat).setWidth 32)) s

/-- PWR: predicate pd := sa[15:0] (R104). -/
def execPwr (d a : BitVec 5) (s : State) : Host.Outcome State Fault Refusal :=
  word (useS [a]) (fun s => s.wP d.toNat ((s.rS a).setWidth 16)) s

/-- ADDI: sa + SEXT(imm14, 14) (R106). -/
def execAddi (d a : BitVec 5) (i : BitVec 14) (s : State) : Host.Outcome State Fault Refusal :=
  alu2 (fun x => x + sext14 i) d a s

/-- ANDI: sa & ZEXT(imm14, 14) (R106). -/
def execAndi (d a : BitVec 5) (i : BitVec 14) (s : State) : Host.Outcome State Fault Refusal :=
  alu2 (fun x => x &&& zext14 i) d a s

/-- ORI: sa | ZEXT(imm14, 14) (R106). -/
def execOri (d a : BitVec 5) (i : BitVec 14) (s : State) : Host.Outcome State Fault Refusal :=
  alu2 (fun x => x ||| zext14 i) d a s

/-- XORI: sa ^ ZEXT(imm14, 14) (R106). -/
def execXori (d a : BitVec 5) (i : BitVec 14) (s : State) : Host.Outcome State Fault Refusal :=
  alu2 (fun x => x ^^^ zext14 i) d a s

/-- SLTI: SEXT(sa, 32) < SEXT(imm14, 14) (R106). -/
def execSlti (d a : BitVec 5) (i : BitVec 14) (s : State) : Host.Outcome State Fault Refusal :=
  alu2 (fun x => ofBool (x.toInt < i.toInt)) d a s

/-- SLTNI: ZEXT(sa, 32) < SEXT(imm14, 14) mod 2^32 (R106). -/
def execSltni (d a : BitVec 5) (i : BitVec 14) (s : State) : Host.Outcome State Fault Refusal :=
  alu2 (fun x => ofBool (x.toNat < (sext14 i).toNat)) d a s

/-- SHLI: sa << n (R106). -/
def execShli (d a n : BitVec 5) (s : State) : Host.Outcome State Fault Refusal :=
  alu2 (fun x => x <<< n.toNat) d a s

/-- SHRI: sa >> n, logical (R106). -/
def execShri (d a n : BitVec 5) (s : State) : Host.Outcome State Fault Refusal :=
  alu2 (fun x => x >>> n.toNat) d a s

/-- SRAI: arithmetic right shift by n (R106). -/
def execSrai (d a n : BitVec 5) (s : State) : Host.Outcome State Fault Refusal :=
  alu2 (fun x => sra32 x n.toNat) d a s

/-- LUI: sd := e << 13, e = [18:0] (R106). -/
def execLui (d : BitVec 5) (i : BitVec 19) (s : State) : Host.Outcome State Fault Refusal :=
  word (useS [d]) (fun s => s.wS d (i.setWidth 32 <<< 13)) s

end Sys2Proof.Machine
end

