-- ==== Sys2Proof/Machine/Csr.lean ====
section
/-!
DEFINITION. CSR access (spec/04_control.md R107-R109, R127; spec/02_encoding.md R62 and the register maps that R62 names).
-/

namespace Sys2Proof.Machine

/-- The assigned CSR numbers (R62). -/
def csrAssigned (n : Nat) : Bool :=
  [0x000, 0x001, 0x002, 0x003, 0x004, 0x010, 0x011, 0x020, 0x021, 0x022, 0x030, 0x040, 0x400, 0x401, 0x402, 0x410, 0x411,
   0x420, 0x421, 0x422, 0x423, 0x810].contains n || (0x800 ≤ n && n ≤ 0x807)

/-- The bits of a CSR that software may write: its RW fields. HWIN exists on memory cores and BSCALE on compute cores
only (spec/01_engines.md R35, R41, R42; spec/03_numbers.md R96; spec/05_commit.md R144; spec/06_vector.md R193;
spec/07_bulb.md R201; spec/14_host.md R389, R391). -/
def csrMask (mem : Bool) (n : Nat) : Word :=
  match n with
  | 0x000 => statusRW
  | 0x001 => 0xE00003FF
  | 0x002 => 0xFFFFFFFC
  | 0x003 => 0xFFFFFFFF
  | 0x004 => 0xFFFFFFC0
  | 0x010 => if mem then 1 else 0
  | 0x011 => if mem then 0 else 0x87FFFFFF
  | 0x020 => 0x0000FFFF
  | 0x021 => 0xFFFFFFFF
  | 0x022 => 0xFFFFFFFF
  | 0x030 => 0xFBFFFFFF
  | 0x040 => 0x00004003
  | 0x810 => 0x00000002
  | _ => if 0x800 ≤ n ∧ n ≤ 0x807 then (if n % 2 = 0 then 0xFFFFFFFF else 0x800000FF) else 0

/-- RGNST of a slot as it reads (R144). -/
def State.rgnst (s : State) : Word := rgnstWord s.me.region.atomic (s.soloActive s.cur) s.me.stat

/-- PLBCFG of a slot as it reads (spec/14_host.md R391). -/
def Slot.plb (x : Slot) : Word := withBit x.plbcfg 0 x.parked.isSome

/-- BUDGET: the budget left in ck, all ones when the slice has none (spec/12_tasks.md R346). -/
def State.budgetWord (s : State) : Word :=
  match s.me.slice with
  | none => 0
  | some l => if l.budget = 0 then 0xFFFFFFFF else BitVec.ofNat 32 (l.leftAt s.cycles)

/-- DEADLINE: deadline minus pod time in us, clamped; 0x7FFFFFFF without one (R346). -/
def State.deadlineWord (s : State) : Word :=
  match s.me.slice with
  | none => 0x7FFFFFFF
  | some l =>
    if l.deadline = 0 then 0x7FFFFFFF
    else BitVec.ofInt 32 (max (-(2 ^ 31)) (min (2 ^ 31 - 1) ((l.deadline : Int) - s.podUs)))

/-- A CSR of the acting slot as it stood before the bundle (R62, R107). -/
def State.csrRead (s : State) (n : Nat) : Word :=
  match n with
  | 0x000 => s.src.status
  | 0x001 => s.src.cause
  | 0x002 => s.src.epc
  | 0x003 => s.src.tval
  | 0x004 => s.src.tvec
  | 0x010 => s.src.hwin
  | 0x011 => s.src.bscale
  | 0x020 => s.src.qtagc
  | 0x021 => s.src.rngkey
  | 0x022 => s.src.rngctr
  | 0x030 => s.src.barm
  | 0x040 => s.rgnst
  | 0x400 => BitVec.ofNat 32 s.cur
  | 0x401 => s.src.pend
  | 0x402 => s.me.xpc
  | 0x410 => s.budgetWord
  | 0x411 => s.deadlineWord
  | 0x420 => BitVec.ofNat 32 s.cycles
  | 0x421 => s.me.cycleH
  | 0x422 => BitVec.ofNat 32 s.podNs
  | 0x423 => s.me.ptimeH
  | 0x810 => s.me.plb
  | _ => if h : 0x800 ≤ n ∧ n ≤ 0x807 then (s.core (s.cur / 4)).psz[n - 0x800] else 0

/-- What reading a CSR does: CYCLE and PTIMEL capture their high halves (R109, spec/12_tasks.md R337). -/
def State.csrTouch (s : State) (n : Nat) : State :=
  match n with
  | 0x420 => s.modMe fun x => { x with cycleH := BitVec.ofNat 32 (s.cycles / 2 ^ 32) }
  | 0x422 => s.modMe fun x => { x with ptimeH := BitVec.ofNat 32 (s.podNs / 2 ^ 32) }
  | _ => s

/-- A CSR of the acting slot written with a value that keeps its read-only bits; QTAGC stores 1 for 0 (R201). -/
def State.csrPut (s : State) (n : Nat) (v : Word) : State :=
  match n with
  | 0x000 => s.modLive fun r => { r with status := v }
  | 0x001 => s.modLive fun r => { r with cause := v }
  | 0x002 => s.modLive fun r => { r with epc := v }
  | 0x003 => s.modLive fun r => { r with tval := v }
  | 0x004 => s.modLive fun r => { r with tvec := v }
  | 0x010 => s.modLive fun r => { r with hwin := v }
  | 0x011 => s.modLive fun r => { r with bscale := v }
  | 0x020 => s.modLive fun r => { r with qtagc := if v = 0 then 1 else v }
  | 0x021 => s.modLive fun r => { r with rngkey := v }
  | 0x022 => s.modLive fun r => { r with rngctr := v }
  | 0x030 => s.modLive fun r => { r with barm := v }
  | 0x040 => s.modMe fun x => { x with stat := { x.stat with ea := bit v 14, fc := bit v 1, ic := bit v 0 } }
  | 0x810 => s.modMe fun x => { x with plbcfg := v }
  | _ =>
    if h : 0x800 ≤ n ∧ n ≤ 0x807 then s.modCore (s.cur / 4) fun c => { c with psz := c.psz.set (n - 0x800) v } else s

/-- The barriers at which a slot has an outstanding or uncommitted arrival (R103, R130). -/
def Slot.arrived (x : Slot) : List Nat :=
  x.arrivals ++ x.region.effects.filterMap fun e => match e with | .arrive b _ => some b | _ => none

/-- The lowest number of a list. -/
def lowest (l : List Nat) : Nat := l.foldl min (l.headD 0)

/-- The operations of R107. -/
inductive CsrOp where
  | read
  | write
  | set
  | clear
  deriving DecidableEq, Repr

/-- The value an operation writes over an old value, of which only the bits of a mask may change. -/
def CsrOp.value (o : CsrOp) (old x mask : Word) : Word :=
  match o with
  | .read => old
  | .write => merge old x mask
  | .set => old ||| (x &&& mask)
  | .clear => old &&& ~~~(x &&& mask)

/-- Does an operation write its CSR at all? CSRS and CSRC with sa = 0 write nothing (R107). -/
def CsrOp.writes (o : CsrOp) (x : Word) : Bool :=
  match o with
  | .read => false
  | .write => true
  | _ => x != 0

/-- The privilege that a CSR number asks for is missing: class 11 always, class 10 without STATUS.RT (R62, R107). -/
def csrDenied (n : Nat) (rt : Bool) : Bool := n / 0x400 == 3 || (n / 0x400 == 2 && !rt)

/-- CSRR, CSRW, CSRS and CSRC (R107), with the check of BARM (R127). -/
def csrAccess (o : CsrOp) (d a : BitVec 5) (n : BitVec 12) (s : State) : State :=
  let k := n.toNat
  if !csrAssigned k then s.raise 0x00C (BitVec.ofNat 32 k)
  else if csrDenied k s.src.rt then s.raise 0x00D (BitVec.ofNat 32 k)
  else
    let x := s.rS a
    let old := s.csrRead k
    let new := o.value old x (csrMask (isMem s.myCluster) k)
    if o.writes x && k == 0x030 && (old ^^^ new) &&& 0xF001FFFF != 0 && !s.me.arrived.isEmpty then
      s.raise 0x026 (BitVec.ofNat 32 (lowest s.me.arrived))
    else
      let s1 := s.csrTouch k
      (if o.writes x then s1.csrPut k new else s1).wS d old

/-- CSRR (R107). -/
def execCsrr (d : BitVec 5) (n : BitVec 12) (s : State) : Host.Outcome State Fault Refusal :=
  word (useS [d]) (csrAccess .read d 0 n) s

/-- CSRW (R107). -/
def execCsrw (d a : BitVec 5) (n : BitVec 12) (s : State) : Host.Outcome State Fault Refusal :=
  word (useS [d, a]) (csrAccess .write d a n) s

/-- CSRS (R107). -/
def execCsrs (d a : BitVec 5) (n : BitVec 12) (s : State) : Host.Outcome State Fault Refusal :=
  word (useS [d, a]) (csrAccess .set d a n) s

/-- CSRC (R107). -/
def execCsrc (d a : BitVec 5) (n : BitVec 12) (s : State) : Host.Outcome State Fault Refusal :=
  word (useS [d, a]) (csrAccess .clear d a n) s

end Sys2Proof.Machine
end

