-- ==== Sys2Proof/Machine/Branch.lean ====
section
/-!
DEFINITION. Branches, jumps and loops (spec/04_control.md R110-R113, spec/02_encoding.md R55).
-/

namespace Sys2Proof.Machine

/-- A control transfer, which takes effect after the bundle (spec/02_encoding.md R49). -/
def State.jump (s : State) (t : Word) : State := s.modBundle fun b => { b with target := some t }

/-- A + 4 * SEXT(disp, n), A the bundle's address (R55). -/
def State.rel (s : State) {n : Nat} (i : BitVec n) : Word := s.bundleD.pc + BitVec.ofInt 32 (4 * i.toInt)

/-- A conditional branch on two scalars (R110). -/
def branch (c : Word → Word → Bool) (d a : BitVec 5) (i : BitVec 14) (s : State) : Host.Outcome State Fault Refusal :=
  word (useS [d, a]) (fun s => if c (s.rS d) (s.rS a) then s.jump (s.rel i) else s) s

/-- BEQ: taken when sd = sa (R110). -/
def execBeq (d a : BitVec 5) (i : BitVec 14) (s : State) : Host.Outcome State Fault Refusal :=
  branch (fun x y => x == y) d a i s

/-- BNE: taken when sd differs from sa (R110). -/
def execBne (d a : BitVec 5) (i : BitVec 14) (s : State) : Host.Outcome State Fault Refusal :=
  branch (fun x y => x != y) d a i s

/-- BLT: taken when sd < sa as signed values (R110). -/
def execBlt (d a : BitVec 5) (i : BitVec 14) (s : State) : Host.Outcome State Fault Refusal :=
  branch (fun x y => x.toInt < y.toInt) d a i s

/-- BGE: taken when sd ≥ sa as signed values (R110). -/
def execBge (d a : BitVec 5) (i : BitVec 14) (s : State) : Host.Outcome State Fault Refusal :=
  branch (fun x y => y.toInt ≤ x.toInt) d a i s

/-- BLTN: taken when sd < sa as natural values (R110). -/
def execBltn (d a : BitVec 5) (i : BitVec 14) (s : State) : Host.Outcome State Fault Refusal :=
  branch (fun x y => x.toNat < y.toNat) d a i s

/-- BGEN: taken when sd ≥ sa as natural values (R110). -/
def execBgen (d a : BitVec 5) (i : BitVec 14) (s : State) : Host.Outcome State Fault Refusal :=
  branch (fun x y => y.toNat ≤ x.toNat) d a i s

/-- The condition of BP on a predicate: any, all or none (R111). -/
def bpTaken (c : Nat) (p : BitVec 16) : Bool :=
  match c with
  | 0 => p != 0
  | 1 => p == 0xFFFF
  | 2 => p == 0
  | _ => false

/-- BP (R111). -/
def execBp (c : BitVec 2) (p : BitVec 3) (i : BitVec 14) (s : State) : Host.Outcome State Fault Refusal :=
  word {} (fun s => if bpTaken c.toNat (s.rP p.toNat) then s.jump (s.rel i) else s) s

/-- LOOP: sd counts down, and the branch is taken while the new value is not 0 (R112). -/
def execLoop (d : BitVec 5) (i : BitVec 14) (s : State) : Host.Outcome State Fault Refusal :=
  word (useS [d]) (fun s =>
    let n := s.rS d - 1
    let s1 := s.wS d n
    if n != 0 then s1.jump (s1.rel i) else s1) s

/-- J (R113). -/
def execJ (i : BitVec 24) (s : State) : Host.Outcome State Fault Refusal :=
  word {} (fun s => s.jump (s.rel i)) s

/-- JAL: the link goes to s31 (R113). -/
def execJal (i : BitVec 24) (s : State) : Host.Outcome State Fault Refusal :=
  word (useS [31]) (fun s => (s.wS 31 s.bundleD.next).jump (s.rel i)) s

/-- JR (R113). -/
def execJr (a : BitVec 5) (s : State) : Host.Outcome State Fault Refusal :=
  word (useS [a]) (fun s => s.jump (s.rS a)) s

/-- JALR: the target is sa as it stood before the bundle (R113). -/
def execJalr (d a : BitVec 5) (s : State) : Host.Outcome State Fault Refusal :=
  word (useS [d, a]) (fun s => (s.wS d s.bundleD.next).jump (s.rS a)) s

end Sys2Proof.Machine
end

