-- ==== Sys2Proof/Decode.lean ====
section
/-!
DEFINITION. The decoder and the encoder of Colurn words (spec/02_encoding.md R47-R70, with the word tables of the
engine chapters). The decoder is total: a word that is no assigned instruction is refused with the decode cause of R69.
The checks of one word come in the order of R68: major or opcode, selecting field, reserved fields; the operand fields
are the last check, `Instr.fieldCause`. The decoder is marked noncomputable for one reason: the compiled runtime of Lean
has no room for more than 245 constructors with fields in one type. It is a plain definition that the kernel evaluates. Bit [30] (S) belongs to the pairing of words (R47) and is not looked at here.
-/

namespace Sys2Proof

/-- What the decoder says of a word: the instruction, or the cause of R69 that refuses it. -/
inductive Decoded where
  | ok (i : Instr)
  | bad (cause : BitVec 10)
  deriving DecidableEq, Repr

/-- Bits [lo+n-1:lo] of a word, as a number (R2). -/
def fld (w lo n : Nat) : Nat := w / 2 ^ lo % 2 ^ n

/-- Bits [lo+n-1:lo] of a word, as a bit vector. -/
def bitsOf (w lo n : Nat) : BitVec n := BitVec.ofNat n (w / 2 ^ lo)

/-- Major 0x01: ADD, ADDX4, ADDX64, AND, ANDN, CLZ, ... (R64, R66). -/
noncomputable def decodeA01 (w : Nat) : Decoded :=
  match fld w 0 9 with
  | 0 => .ok (.add (bitsOf w 19 5) (bitsOf w 14 5) (bitsOf w 9 5))
  | 1 => .ok (.sub (bitsOf w 19 5) (bitsOf w 14 5) (bitsOf w 9 5))
  | 2 => .ok (.and (bitsOf w 19 5) (bitsOf w 14 5) (bitsOf w 9 5))
  | 3 => .ok (.or (bitsOf w 19 5) (bitsOf w 14 5) (bitsOf w 9 5))
  | 4 => .ok (.xor (bitsOf w 19 5) (bitsOf w 14 5) (bitsOf w 9 5))
  | 5 => .ok (.andn (bitsOf w 19 5) (bitsOf w 14 5) (bitsOf w 9 5))
  | 6 => .ok (.shl (bitsOf w 19 5) (bitsOf w 14 5) (bitsOf w 9 5))
  | 7 => .ok (.shr (bitsOf w 19 5) (bitsOf w 14 5) (bitsOf w 9 5))
  | 8 => .ok (.sra (bitsOf w 19 5) (bitsOf w 14 5) (bitsOf w 9 5))
  | 9 => .ok (.slt (bitsOf w 19 5) (bitsOf w 14 5) (bitsOf w 9 5))
  | 10 => .ok (.sltn (bitsOf w 19 5) (bitsOf w 14 5) (bitsOf w 9 5))
  | 11 => .ok (.seq (bitsOf w 19 5) (bitsOf w 14 5) (bitsOf w 9 5))
  | 12 => .ok (.min (bitsOf w 19 5) (bitsOf w 14 5) (bitsOf w 9 5))
  | 13 => .ok (.minn (bitsOf w 19 5) (bitsOf w 14 5) (bitsOf w 9 5))
  | 14 => .ok (.max (bitsOf w 19 5) (bitsOf w 14 5) (bitsOf w 9 5))
  | 15 => .ok (.maxn (bitsOf w 19 5) (bitsOf w 14 5) (bitsOf w 9 5))
  | 16 => .ok (.addx4 (bitsOf w 19 5) (bitsOf w 14 5) (bitsOf w 9 5))
  | 17 => .ok (.addx64 (bitsOf w 19 5) (bitsOf w 14 5) (bitsOf w 9 5))
  | 18 => .ok (.mul (bitsOf w 19 5) (bitsOf w 14 5) (bitsOf w 9 5))
  | 19 => .ok (.mulh (bitsOf w 19 5) (bitsOf w 14 5) (bitsOf w 9 5))
  | 20 => .ok (.mulhn (bitsOf w 19 5) (bitsOf w 14 5) (bitsOf w 9 5))
  | 21 => .ok (.div (bitsOf w 19 5) (bitsOf w 14 5) (bitsOf w 9 5))
  | 22 => .ok (.divn (bitsOf w 19 5) (bitsOf w 14 5) (bitsOf w 9 5))
  | 23 => .ok (.rem (bitsOf w 19 5) (bitsOf w 14 5) (bitsOf w 9 5))
  | 24 => .ok (.remn (bitsOf w 19 5) (bitsOf w 14 5) (bitsOf w 9 5))
  | 25 => .ok (.movz (bitsOf w 19 5) (bitsOf w 14 5) (bitsOf w 9 5))
  | 26 => .ok (.movnz (bitsOf w 19 5) (bitsOf w 14 5) (bitsOf w 9 5))
  | 27 => if fld w 9 5 = 0 then .ok (.clz (bitsOf w 19 5) (bitsOf w 14 5)) else .bad 0x007
  | 28 => if fld w 9 5 = 0 then .ok (.popc (bitsOf w 19 5) (bitsOf w 14 5)) else .bad 0x007
  | 29 => if fld w 9 5 = 0 then .ok (.prd (bitsOf w 19 5) (bitsOf w 14 5)) else .bad 0x007
  | 30 => if fld w 9 5 = 0 then .ok (.pwr (bitsOf w 19 5) (bitsOf w 14 5)) else .bad 0x007
  | _ => .bad 0x006

/-- Major 0x06: SHLI, SHRI, SRAI (R64, R66). -/
noncomputable def decodeA06 (w : Nat) : Decoded :=
  match fld w 5 2 with
  | 0 => if fld w 7 7 = 0 then .ok (.shli (bitsOf w 19 5) (bitsOf w 14 5) (bitsOf w 0 5)) else .bad 0x007
  | 1 => if fld w 7 7 = 0 then .ok (.shri (bitsOf w 19 5) (bitsOf w 14 5) (bitsOf w 0 5)) else .bad 0x007
  | 2 => if fld w 7 7 = 0 then .ok (.srai (bitsOf w 19 5) (bitsOf w 14 5) (bitsOf w 0 5)) else .bad 0x007
  | _ => .bad 0x006

/-- Major 0x0A: CSRC, CSRR, CSRS, CSRW (R64, R66). -/
noncomputable def decodeA0A (w : Nat) : Decoded :=
  match fld w 12 2 with
  | 0 => if fld w 14 5 = 0 then .ok (.csrr (bitsOf w 19 5) (bitsOf w 0 12)) else .bad 0x007
  | 1 => .ok (.csrw (bitsOf w 19 5) (bitsOf w 14 5) (bitsOf w 0 12))
  | 2 => .ok (.csrs (bitsOf w 19 5) (bitsOf w 14 5) (bitsOf w 0 12))
  | 3 => .ok (.csrc (bitsOf w 19 5) (bitsOf w 14 5) (bitsOf w 0 12))
  | _ => .bad 0x006

/-- Major 0x0E: JALR, JR (R64, R66). -/
noncomputable def decodeA0E (w : Nat) : Decoded :=
  match fld w 0 9 with
  | 0 => if fld w 9 5 = 0 ∧ fld w 19 5 = 0 then .ok (.jr (bitsOf w 14 5)) else .bad 0x007
  | 1 => if fld w 9 5 = 0 then .ok (.jalr (bitsOf w 19 5) (bitsOf w 14 5)) else .bad 0x007
  | _ => .bad 0x006

/-- Major 0x2A: AMOADD, AMOAND, AMOCAS, AMOMAX, AMOMAXN, AMOMIN, ... (R64, R66). -/
noncomputable def decodeA2A (w : Nat) : Decoded :=
  match fld w 0 9 with
  | 0 => .ok (.amoswap (bitsOf w 19 5) (bitsOf w 14 5) (bitsOf w 9 5))
  | 1 => .ok (.amoadd (bitsOf w 19 5) (bitsOf w 14 5) (bitsOf w 9 5))
  | 2 => .ok (.amoand (bitsOf w 19 5) (bitsOf w 14 5) (bitsOf w 9 5))
  | 3 => .ok (.amoor (bitsOf w 19 5) (bitsOf w 14 5) (bitsOf w 9 5))
  | 4 => .ok (.amoxor (bitsOf w 19 5) (bitsOf w 14 5) (bitsOf w 9 5))
  | 5 => .ok (.amomin (bitsOf w 19 5) (bitsOf w 14 5) (bitsOf w 9 5))
  | 6 => .ok (.amomax (bitsOf w 19 5) (bitsOf w 14 5) (bitsOf w 9 5))
  | 7 => .ok (.amominn (bitsOf w 19 5) (bitsOf w 14 5) (bitsOf w 9 5))
  | 8 => .ok (.amomaxn (bitsOf w 19 5) (bitsOf w 14 5) (bitsOf w 9 5))
  | 9 => .ok (.amocas (bitsOf w 19 5) (bitsOf w 14 5) (bitsOf w 9 5))
  | _ => .bad 0x006

/-- Major 0x2E: BARA, BARW, BARWT (R64, R66). -/
noncomputable def decodeA2E (w : Nat) : Decoded :=
  match fld w 12 2 with
  | 0 => if fld w 9 3 = 0 ∧ fld w 14 10 = 0 then .ok (.barw (bitsOf w 0 9)) else .bad 0x007
  | 1 => if fld w 9 3 = 0 ∧ fld w 14 10 = 0 then .ok (.bara (bitsOf w 0 9)) else .bad 0x007
  | 2 => if fld w 9 3 = 0 ∧ fld w 14 10 = 0 then .ok (.barwt (bitsOf w 0 9)) else .bad 0x007
  | _ => .bad 0x006

/-- Major 0x31: ABORT, RGN, RGNQ, TRCC, TRCR (R64, R66). -/
noncomputable def decodeA31 (w : Nat) : Decoded :=
  match fld w 0 9 with
  | 0 => if fld w 9 15 = 0 then .ok (.rgn) else .bad 0x007
  | 1 => if fld w 9 15 = 0 then .ok (.rgnA) else .bad 0x007
  | 2 => if fld w 9 5 = 0 ∧ fld w 19 5 = 0 then .ok (.abort (bitsOf w 14 5)) else .bad 0x007
  | 3 => if fld w 9 10 = 0 then .ok (.rgnq (bitsOf w 19 5)) else .bad 0x007
  | 4 => .ok (.trcr (bitsOf w 19 5) (bitsOf w 14 5) (bitsOf w 9 5))
  | 5 => .ok (.trcc (bitsOf w 19 5) (bitsOf w 14 5) (bitsOf w 9 5))
  | _ => .bad 0x006

/-- Major 0x32: MDRAIN, MMA, MMAS, MQRY, MWAIT, MWLD, ... (R64, R66). -/
noncomputable def decodeA32 (w : Nat) : Decoded :=
  match fld w 0 4 with
  | 0 => if 5 ≤ fld w 4 3 then .bad 0x006 else if fld w 7 2 = 0 ∧ (3 ≤ fld w 4 3 ∨ fld w 9 5 = 0) then .ok (.mwld (bitsOf w 19 5) (bitsOf w 14 5) (bitsOf w 9 5) (bitsOf w 4 3)) else .bad 0x007
  | 1 => .ok (.mmaBf16 (bitsOf w 19 5) (bitsOf w 14 5) (bitsOf w 9 5) (bitsOf w 4 5))
  | 2 => .ok (.mmaE4m3 (bitsOf w 19 5) (bitsOf w 14 5) (bitsOf w 9 5) (bitsOf w 4 5))
  | 3 => .ok (.mmaE5m2 (bitsOf w 19 5) (bitsOf w 14 5) (bitsOf w 9 5) (bitsOf w 4 5))
  | 4 => .ok (.mmaB4 (bitsOf w 19 5) (bitsOf w 14 5) (bitsOf w 9 5) (bitsOf w 4 5))
  | 5 => .ok (.mmasBf16 (bitsOf w 19 5) (bitsOf w 14 5) (bitsOf w 9 5) (bitsOf w 4 5))
  | 6 => .ok (.mmasE4m3 (bitsOf w 19 5) (bitsOf w 14 5) (bitsOf w 9 5) (bitsOf w 4 5))
  | 7 => .ok (.mmasE5m2 (bitsOf w 19 5) (bitsOf w 14 5) (bitsOf w 9 5) (bitsOf w 4 5))
  | 8 => .ok (.mmasB4 (bitsOf w 19 5) (bitsOf w 14 5) (bitsOf w 9 5) (bitsOf w 4 5))
  | 9 => if fld w 5 4 = 0 ∧ fld w 14 5 = 0 then .ok (.mzero (bitsOf w 19 5) (bitsOf w 9 5) (bitsOf w 4 1)) else .bad 0x007
  | 10 => if fld w 7 2 = 0 then .ok (.mdrain (bitsOf w 19 5) (bitsOf w 14 5) (bitsOf w 9 5) (bitsOf w 4 3)) else .bad 0x007
  | 11 => if fld w 6 3 = 0 then .ok (.mdrainBf16 (bitsOf w 19 5) (bitsOf w 14 5) (bitsOf w 9 5) (bitsOf w 4 2)) else .bad 0x007
  | 12 => if fld w 4 15 = 0 then .ok (.mwait (bitsOf w 19 5)) else .bad 0x007
  | 13 => if fld w 8 11 = 0 then .ok (.mqry (bitsOf w 19 5) (bitsOf w 4 4)) else .bad 0x007
  | _ => .bad 0x006

/-- Major 0x33: CPY, PULL, PULLC, PULLD, SEQADV, WATCH, ... (R64, R66). -/
noncomputable def decodeA33 (w : Nat) : Decoded :=
  match fld w 0 4 with
  | 0 => if fld w 9 5 = 0 then .ok (.cpy (bitsOf w 19 5) (bitsOf w 14 5) (bitsOf w 4 5)) else .bad 0x007
  | 1 => .ok (.pull (bitsOf w 19 5) (bitsOf w 14 5) (bitsOf w 9 5) (bitsOf w 4 5))
  | 2 => .ok (.pullc (bitsOf w 19 5) (bitsOf w 14 5) (bitsOf w 9 5) (bitsOf w 4 5))
  | 3 => if fld w 14 5 = 0 ∧ fld w 9 5 = 0 then .ok (.pulldVerify (bitsOf w 19 5) (bitsOf w 4 5)) else .ok (.pulld (bitsOf w 19 5) (bitsOf w 14 5) (bitsOf w 9 5) (bitsOf w 4 5))
  | 4 => .ok (.watch (bitsOf w 19 5) (bitsOf w 14 5) (bitsOf w 9 5) (bitsOf w 4 5))
  | 5 => .ok (.watcht (bitsOf w 19 5) (bitsOf w 14 5) (bitsOf w 9 5) (bitsOf w 4 5))
  | 6 => if fld w 4 5 = 0 ∧ fld w 19 5 = 0 then .ok (.seqadv (bitsOf w 14 5) (bitsOf w 9 5)) else .bad 0x007
  | 7 => if fld w 4 15 = 0 then .ok (.wcancel (bitsOf w 19 5)) else .bad 0x007
  | _ => .bad 0x006

/-- Major 0x36: TABAN, TALLOC, TALLOCN, TPART, TQRY (R64, R66). -/
noncomputable def decodeA36 (w : Nat) : Decoded :=
  match fld w 0 4 with
  | 0 => if fld w 9 5 = 0 ∧ fld w 19 5 = 0 then .ok (.tpart (bitsOf w 14 5) (bitsOf w 4 5)) else .bad 0x007
  | 1 => .ok (.talloc (bitsOf w 19 5) (bitsOf w 14 5) (bitsOf w 9 5) (bitsOf w 4 5))
  | 2 => .ok (.tallocn (bitsOf w 19 5) (bitsOf w 14 5) (bitsOf w 9 5) (bitsOf w 4 5))
  | 3 => if 3 ≤ fld w 4 5 then .bad 0x006 else if fld w 9 5 = 0 then .ok (.tqry (bitsOf w 19 5) (bitsOf w 14 5) (bitsOf w 4 5)) else .bad 0x007
  | 4 => if fld w 4 5 = 0 ∧ fld w 19 5 = 0 then .ok (.taban (bitsOf w 14 5) (bitsOf w 9 5)) else .bad 0x007
  | _ => .bad 0x006

/-- Major 0x37: RCLOSE, RECV, RECVN, ROPEN, SEND, SENDV (R64, R66). -/
noncomputable def decodeA37 (w : Nat) : Decoded :=
  match fld w 0 4 with
  | 0 => if fld w 4 5 = 0 then .ok (.ropen (bitsOf w 19 5) (bitsOf w 14 5) (bitsOf w 9 5)) else .bad 0x007
  | 1 => if fld w 4 10 = 0 ∧ fld w 19 5 = 0 then .ok (.rclose (bitsOf w 14 5)) else .bad 0x007
  | 2 => .ok (.send (bitsOf w 19 5) (bitsOf w 14 5) (bitsOf w 9 5) (bitsOf w 4 5))
  | 3 => .ok (.sendv (bitsOf w 19 5) (bitsOf w 14 5) (bitsOf w 9 5) (bitsOf w 4 5))
  | 4 => if fld w 4 10 = 0 then .ok (.recv (bitsOf w 19 5) (bitsOf w 14 5)) else .bad 0x007
  | 5 => if fld w 4 10 = 0 then .ok (.recvn (bitsOf w 19 5) (bitsOf w 14 5)) else .bad 0x007
  | _ => .bad 0x006

/-- Major 0x38: CANCEL, FPIN, QSTAT, RETIRE, SLEEPT, SUBAT, ... (R64, R66). -/
noncomputable def decodeA38 (w : Nat) : Decoded :=
  match fld w 0 4 with
  | 0 => if fld w 4 5 = 0 then .ok (.submit (bitsOf w 19 5) (bitsOf w 14 5) (bitsOf w 9 5)) else .bad 0x007
  | 1 => if fld w 4 5 = 0 then .ok (.cancel (bitsOf w 19 5) (bitsOf w 14 5) (bitsOf w 9 5)) else .bad 0x007
  | 2 => if fld w 4 5 = 0 ∧ fld w 19 5 = 0 then .ok (.yield (bitsOf w 14 5) (bitsOf w 9 5)) else .bad 0x007
  | 3 => if fld w 4 20 = 0 then .ok (.retire) else .bad 0x007
  | 4 => if fld w 4 5 = 0 ∧ fld w 19 5 = 0 then .ok (.sleept (bitsOf w 14 5) (bitsOf w 9 5)) else .bad 0x007
  | 5 => .ok (.subat (bitsOf w 19 5) (bitsOf w 14 5) (bitsOf w 9 5) (bitsOf w 4 5))
  | 6 => if fld w 4 10 = 0 then .ok (.qstat (bitsOf w 19 5) (bitsOf w 14 5)) else .bad 0x007
  | 7 => if fld w 4 5 = 0 then .ok (.fpin (bitsOf w 19 5) (bitsOf w 14 5) (bitsOf w 9 5)) else .bad 0x007
  | _ => .bad 0x006

/-- Major 0x39: CKDEL, CKREG, RKREG, RKREV (R64, R66). -/
noncomputable def decodeA39 (w : Nat) : Decoded :=
  match fld w 0 4 with
  | 0 => .ok (.rkreg (bitsOf w 19 5) (bitsOf w 14 5) (bitsOf w 9 5) (bitsOf w 4 5))
  | 1 => if fld w 4 10 = 0 ∧ fld w 19 5 = 0 then .ok (.rkrev (bitsOf w 14 5)) else .bad 0x007
  | 2 => if fld w 4 5 = 0 then .ok (.ckreg (bitsOf w 19 5) (bitsOf w 14 5) (bitsOf w 9 5)) else .bad 0x007
  | 3 => if fld w 4 10 = 0 then .ok (.ckdel (bitsOf w 19 5) (bitsOf w 14 5)) else .bad 0x007
  | _ => .bad 0x006

/-- Major 0x3A: HOVR, MIGR, PLBINV, XLINV (R64, R66). -/
noncomputable def decodeA3A (w : Nat) : Decoded :=
  match fld w 0 4 with
  | 0 => .ok (.hovrTake (bitsOf w 19 5) (bitsOf w 14 5) (bitsOf w 9 5) (bitsOf w 4 5))
  | 1 => .ok (.plbinv (bitsOf w 19 5) (bitsOf w 14 5) (bitsOf w 9 5) (bitsOf w 4 5))
  | 2 => .ok (.xlinv (bitsOf w 19 5) (bitsOf w 14 5) (bitsOf w 9 5) (bitsOf w 4 5))
  | 3 => if fld w 14 5 = 0 ∧ fld w 9 5 = 0 then .ok (.migrSeal (bitsOf w 19 5) (bitsOf w 4 5)) else .ok (.migrTake (bitsOf w 19 5) (bitsOf w 14 5) (bitsOf w 9 5) (bitsOf w 4 5))
  | _ => .bad 0x006

/-- Opcode 0x32: VCVT (R64, R66). -/
noncomputable def decodeB32 (w : Nat) : Decoded :=
  match fld w 2 7 with
  | 0 => .ok (.vcvtF32I32 (bitsOf w 16 7) (bitsOf w 9 7) (bitsOf w 0 2))
  | 1 => .ok (.vcvtF32N32 (bitsOf w 16 7) (bitsOf w 9 7) (bitsOf w 0 2))
  | 2 => .ok (.vcvtF32I16 (bitsOf w 16 7) (bitsOf w 9 7) (bitsOf w 0 2))
  | 3 => .ok (.vcvtF32N16 (bitsOf w 16 7) (bitsOf w 9 7) (bitsOf w 0 2))
  | 4 => .ok (.vcvtF32I8 (bitsOf w 16 7) (bitsOf w 9 7) (bitsOf w 0 2))
  | 5 => .ok (.vcvtF32N8 (bitsOf w 16 7) (bitsOf w 9 7) (bitsOf w 0 2))
  | 8 => .ok (.vcvtI32F32 (bitsOf w 16 7) (bitsOf w 9 7) (bitsOf w 0 2))
  | 9 => .ok (.vcvtN32F32 (bitsOf w 16 7) (bitsOf w 9 7) (bitsOf w 0 2))
  | 16 => .ok (.vcvtF32Bf16 (bitsOf w 16 7) (bitsOf w 9 7) (bitsOf w 0 2))
  | 17 => .ok (.vcvtF32F16 (bitsOf w 16 7) (bitsOf w 9 7) (bitsOf w 0 2))
  | 18 => .ok (.vcvtF32E4m3 (bitsOf w 16 7) (bitsOf w 9 7) (bitsOf w 0 2))
  | 19 => .ok (.vcvtF32E5m2 (bitsOf w 16 7) (bitsOf w 9 7) (bitsOf w 0 2))
  | 24 | 25 => .ok (.vcvtBf16F32 (bitsOf w 16 7) (bitsOf w 9 7) (bitsOf w 2 1) (bitsOf w 0 2))
  | 26 | 27 => .ok (.vcvtF16F32 (bitsOf w 16 7) (bitsOf w 9 7) (bitsOf w 2 1) (bitsOf w 0 2))
  | 32 | 33 | 34 | 35 => .ok (.vcvtE4m3F32 (bitsOf w 16 7) (bitsOf w 9 7) (bitsOf w 2 2) (bitsOf w 0 2))
  | 36 | 37 | 38 | 39 => .ok (.vcvtE5m2F32 (bitsOf w 16 7) (bitsOf w 9 7) (bitsOf w 2 2) (bitsOf w 0 2))
  | 40 => .ok (.vcvtI32I16 (bitsOf w 16 7) (bitsOf w 9 7) (bitsOf w 0 2))
  | 41 => .ok (.vcvtI32N16 (bitsOf w 16 7) (bitsOf w 9 7) (bitsOf w 0 2))
  | 42 => .ok (.vcvtI32I8 (bitsOf w 16 7) (bitsOf w 9 7) (bitsOf w 0 2))
  | 43 => .ok (.vcvtI32N8 (bitsOf w 16 7) (bitsOf w 9 7) (bitsOf w 0 2))
  | 44 => .ok (.vcvtN32I32 (bitsOf w 16 7) (bitsOf w 9 7) (bitsOf w 0 2))
  | 45 => .ok (.vcvtI32N32 (bitsOf w 16 7) (bitsOf w 9 7) (bitsOf w 0 2))
  | _ => .bad 0x006

/-- Opcode 0x59: RNGSET (R64, R66). -/
noncomputable def decodeB59 (w : Nat) : Decoded :=
  match fld w 16 7 with
  | 0 => if fld w 0 2 = 0 then .ok (.rngsetKey (bitsOf w 9 7) (bitsOf w 2 7)) else .bad 0x007
  | 1 => if fld w 0 2 = 0 ∧ fld w 9 7 = 96 then .ok (.rngsetCtr (bitsOf w 2 7)) else .bad 0x007
  | 2 => if fld w 0 2 = 0 ∧ fld w 9 7 = 96 then .ok (.rngsetAdv (bitsOf w 2 7)) else .bad 0x007
  | _ => .bad 0x006

/-- Opcode 0x60: QADD, QMAX, QMIN, QMUL, QSUB (R64, R66). -/
noncomputable def decodeB60 (w : Nat) : Decoded :=
  match fld w 2 5 with
  | 0 => if fld w 0 2 = 0 ∧ fld w 7 7 = 0 then .ok (.qadd (bitsOf w 20 3) (bitsOf w 17 3) (bitsOf w 14 3)) else .bad 0x007
  | 1 => if fld w 0 2 = 0 ∧ fld w 7 7 = 0 then .ok (.qsub (bitsOf w 20 3) (bitsOf w 17 3) (bitsOf w 14 3)) else .bad 0x007
  | 2 => if fld w 0 2 = 0 ∧ fld w 7 7 = 0 then .ok (.qmul (bitsOf w 20 3) (bitsOf w 17 3) (bitsOf w 14 3)) else .bad 0x007
  | 3 => if fld w 0 2 = 0 ∧ fld w 7 7 = 0 then .ok (.qmax (bitsOf w 20 3) (bitsOf w 17 3) (bitsOf w 14 3)) else .bad 0x007
  | 4 => if fld w 0 2 = 0 ∧ fld w 7 7 = 0 then .ok (.qmin (bitsOf w 20 3) (bitsOf w 17 3) (bitsOf w 14 3)) else .bad 0x007
  | _ => .bad 0x006

/-- Opcode 0x61: QMAP, QMOV, QNEG, QPICK, QSCL (R64, R66). -/
noncomputable def decodeB61 (w : Nat) : Decoded :=
  match fld w 2 5 with
  | 0 => if fld w 0 2 = 0 ∧ fld w 14 3 = 0 then .ok (.qscl (bitsOf w 20 3) (bitsOf w 17 3) (bitsOf w 7 7)) else .bad 0x007
  | 1 => if fld w 0 2 = 0 ∧ fld w 7 10 = 0 then .ok (.qneg (bitsOf w 20 3) (bitsOf w 17 3)) else .bad 0x007
  | 2 => if 4 ≤ fld w 14 3 then .bad 0x006 else if fld w 0 2 = 0 ∧ fld w 7 7 = 0 then .ok (.qmap (bitsOf w 20 3) (bitsOf w 17 3) (bitsOf w 14 3)) else .bad 0x007
  | 3 => if fld w 0 2 = 0 ∧ fld w 7 10 = 0 then .ok (.qmov (bitsOf w 20 3) (bitsOf w 17 3)) else .bad 0x007
  | 4 => if 2 ≤ fld w 20 3 then .bad 0x006 else .ok (.qpick (bitsOf w 20 3) (bitsOf w 17 3) (bitsOf w 14 3) (bitsOf w 7 7) (bitsOf w 0 2))
  | _ => .bad 0x006

/-- Opcode 0x62: QMAKE (R64, R66). -/
noncomputable def decodeB62 (w : Nat) : Decoded :=
  match fld w 2 5 with
  | 0 => if fld w 0 2 = 0 ∧ fld w 14 3 = 0 then .ok (.qmake (bitsOf w 20 3) (bitsOf w 17 3) (bitsOf w 7 7)) else .bad 0x007
  | _ => .bad 0x006

/-- Opcode 0x63: QCDF, QMOM, QQNT (R64, R66). -/
noncomputable def decodeB63 (w : Nat) : Decoded :=
  match fld w 2 5 with
  | 0 => if 3 ≤ fld w 14 3 then .bad 0x006 else if fld w 20 3 = 0 then .ok (.qmom (bitsOf w 17 3) (bitsOf w 14 3) (bitsOf w 7 7) (bitsOf w 0 2)) else .bad 0x007
  | 1 => if fld w 14 3 = 0 ∧ fld w 20 3 = 0 then .ok (.qqnt (bitsOf w 17 3) (bitsOf w 7 7) (bitsOf w 0 2)) else .bad 0x007
  | 2 => if fld w 14 3 = 0 ∧ fld w 20 3 = 0 then .ok (.qcdf (bitsOf w 17 3) (bitsOf w 7 7) (bitsOf w 0 2)) else .bad 0x007
  | _ => .bad 0x006

/-- An A-class word by its major (R63, R67). -/
noncomputable def decodeA (w : Nat) : Decoded :=
  match fld w 24 6 with
  | 0x01 => decodeA01 w
  | 0x02 => .ok (.addi (bitsOf w 19 5) (bitsOf w 14 5) (bitsOf w 0 14))
  | 0x03 => .ok (.andi (bitsOf w 19 5) (bitsOf w 14 5) (bitsOf w 0 14))
  | 0x04 => .ok (.ori (bitsOf w 19 5) (bitsOf w 14 5) (bitsOf w 0 14))
  | 0x05 => .ok (.xori (bitsOf w 19 5) (bitsOf w 14 5) (bitsOf w 0 14))
  | 0x06 => decodeA06 w
  | 0x07 => .ok (.lui (bitsOf w 19 5) (bitsOf w 0 19))
  | 0x08 => .ok (.slti (bitsOf w 19 5) (bitsOf w 14 5) (bitsOf w 0 14))
  | 0x09 => .ok (.sltni (bitsOf w 19 5) (bitsOf w 14 5) (bitsOf w 0 14))
  | 0x0A => decodeA0A w
  | 0x0C => .ok (.j (bitsOf w 0 24))
  | 0x0D => .ok (.jal (bitsOf w 0 24))
  | 0x0E => decodeA0E w
  | 0x10 => .ok (.beq (bitsOf w 19 5) (bitsOf w 14 5) (bitsOf w 0 14))
  | 0x11 => .ok (.bne (bitsOf w 19 5) (bitsOf w 14 5) (bitsOf w 0 14))
  | 0x12 => .ok (.blt (bitsOf w 19 5) (bitsOf w 14 5) (bitsOf w 0 14))
  | 0x13 => .ok (.bge (bitsOf w 19 5) (bitsOf w 14 5) (bitsOf w 0 14))
  | 0x14 => .ok (.bltn (bitsOf w 19 5) (bitsOf w 14 5) (bitsOf w 0 14))
  | 0x15 => .ok (.bgen (bitsOf w 19 5) (bitsOf w 14 5) (bitsOf w 0 14))
  | 0x16 => if fld w 22 2 = 3 then .bad 0x006 else if fld w 14 5 = 0 then .ok (.bp (bitsOf w 22 2) (bitsOf w 19 3) (bitsOf w 0 14)) else .bad 0x007
  | 0x17 => if fld w 14 5 = 0 then .ok (.loop (bitsOf w 19 5) (bitsOf w 0 14)) else .bad 0x007
  | 0x18 => .ok (.ldI8 (bitsOf w 19 5) (bitsOf w 14 5) (bitsOf w 0 14))
  | 0x19 => .ok (.ldN8 (bitsOf w 19 5) (bitsOf w 14 5) (bitsOf w 0 14))
  | 0x1A => .ok (.ldI16 (bitsOf w 19 5) (bitsOf w 14 5) (bitsOf w 0 14))
  | 0x1B => .ok (.ldN16 (bitsOf w 19 5) (bitsOf w 14 5) (bitsOf w 0 14))
  | 0x1C => .ok (.ldI32 (bitsOf w 19 5) (bitsOf w 14 5) (bitsOf w 0 14))
  | 0x1D => .ok (.stI8 (bitsOf w 19 5) (bitsOf w 14 5) (bitsOf w 0 14))
  | 0x1E => .ok (.stI16 (bitsOf w 19 5) (bitsOf w 14 5) (bitsOf w 0 14))
  | 0x1F => .ok (.stI32 (bitsOf w 19 5) (bitsOf w 14 5) (bitsOf w 0 14))
  | 0x20 => .ok (.ldc (bitsOf w 19 5) (bitsOf w 14 5) (bitsOf w 0 14))
  | 0x21 => .ok (.vld (bitsOf w 18 6) (bitsOf w 13 5) (bitsOf w 10 3) (bitsOf w 0 10))
  | 0x22 => .ok (.vst (bitsOf w 18 6) (bitsOf w 13 5) (bitsOf w 10 3) (bitsOf w 0 10))
  | 0x23 => if fld w 0 5 = 0 then .ok (.vlds (bitsOf w 18 6) (bitsOf w 13 5) (bitsOf w 10 3) (bitsOf w 5 5)) else .bad 0x007
  | 0x24 => if fld w 0 5 = 0 then .ok (.vsts (bitsOf w 18 6) (bitsOf w 13 5) (bitsOf w 10 3) (bitsOf w 5 5)) else .bad 0x007
  | 0x25 => if fld w 2 2 = 3 then .bad 0x006 else if fld w 0 2 = 0 then .ok (.vldx (bitsOf w 18 6) (bitsOf w 13 5) (bitsOf w 10 3) (bitsOf w 4 6) (bitsOf w 2 2)) else .bad 0x007
  | 0x26 => if fld w 2 2 = 3 then .bad 0x006 else if fld w 0 2 = 0 then .ok (.vstx (bitsOf w 18 6) (bitsOf w 13 5) (bitsOf w 10 3) (bitsOf w 4 6) (bitsOf w 2 2)) else .bad 0x007
  | 0x27 => .ok (.vldc (bitsOf w 18 6) (bitsOf w 13 5) (bitsOf w 10 3) (bitsOf w 0 10))
  | 0x28 => if fld w 10 3 = 0 then .ok (.qld (bitsOf w 18 6) (bitsOf w 13 5) (bitsOf w 0 10)) else .bad 0x007
  | 0x29 => if fld w 10 3 = 0 then .ok (.qst (bitsOf w 18 6) (bitsOf w 13 5) (bitsOf w 0 10)) else .bad 0x007
  | 0x2A => decodeA2A w
  | 0x2B => if fld w 4 9 = 0 then .ok (.movws (bitsOf w 18 6) (bitsOf w 13 5) (bitsOf w 0 4)) else .bad 0x007
  | 0x2C => if fld w 0 2 = 0 then .bad 0x006 else if fld w 2 22 = 0 then .ok (.gang (bitsOf w 0 2)) else .bad 0x007
  | 0x2D => if fld w 0 24 = 0 then .ok (.split) else .bad 0x007
  | 0x2E => decodeA2E w
  | 0x2F => if fld w 6 8 = 0 ∧ fld w 19 5 = 0 then .ok (.trap (bitsOf w 14 5) (bitsOf w 0 6)) else .bad 0x007
  | 0x30 => if fld w 0 24 = 0 then .ok (.eret) else .bad 0x007
  | 0x31 => decodeA31 w
  | 0x32 => decodeA32 w
  | 0x33 => decodeA33 w
  | 0x34 => .ok (.ldg (bitsOf w 19 5) (bitsOf w 14 5) (bitsOf w 9 5) (bitsOf w 0 9))
  | 0x35 => if fld w 0 9 = 0 then .ok (.seqldA (bitsOf w 19 5) (bitsOf w 14 5) (bitsOf w 9 5)) else .bad 0x007
  | 0x36 => decodeA36 w
  | 0x37 => decodeA37 w
  | 0x38 => decodeA38 w
  | 0x39 => decodeA39 w
  | 0x3A => decodeA3A w
  | 0x3C => .ok (.reservedHintA (bitsOf w 24 2) (bitsOf w 0 24))
  | 0x3D => .ok (.reservedHintA (bitsOf w 24 2) (bitsOf w 0 24))
  | 0x3E => .ok (.reservedHintA (bitsOf w 24 2) (bitsOf w 0 24))
  | 0x3F => .ok (.nop (bitsOf w 0 24))
  | _ => .bad 0x004

/-- A B-class word by its opcode (R65, R67). -/
noncomputable def decodeB (w : Nat) : Decoded :=
  match fld w 23 7 with
  | 0x00 => .ok (.vaddI32 (bitsOf w 16 7) (bitsOf w 9 7) (bitsOf w 2 7) (bitsOf w 0 2))
  | 0x01 => .ok (.vsubI32 (bitsOf w 16 7) (bitsOf w 9 7) (bitsOf w 2 7) (bitsOf w 0 2))
  | 0x02 => .ok (.vmulI32 (bitsOf w 16 7) (bitsOf w 9 7) (bitsOf w 2 7) (bitsOf w 0 2))
  | 0x03 => .ok (.vmulhI32 (bitsOf w 16 7) (bitsOf w 9 7) (bitsOf w 2 7) (bitsOf w 0 2))
  | 0x04 => .ok (.vmulhN32 (bitsOf w 16 7) (bitsOf w 9 7) (bitsOf w 2 7) (bitsOf w 0 2))
  | 0x05 => .ok (.vaddsI32 (bitsOf w 16 7) (bitsOf w 9 7) (bitsOf w 2 7) (bitsOf w 0 2))
  | 0x06 => .ok (.vaddsN32 (bitsOf w 16 7) (bitsOf w 9 7) (bitsOf w 2 7) (bitsOf w 0 2))
  | 0x07 => .ok (.vsubsI32 (bitsOf w 16 7) (bitsOf w 9 7) (bitsOf w 2 7) (bitsOf w 0 2))
  | 0x08 => .ok (.vsubsN32 (bitsOf w 16 7) (bitsOf w 9 7) (bitsOf w 2 7) (bitsOf w 0 2))
  | 0x09 => .ok (.vaddsI16 (bitsOf w 16 7) (bitsOf w 9 7) (bitsOf w 2 7) (bitsOf w 0 2))
  | 0x0A => .ok (.vaddsI8 (bitsOf w 16 7) (bitsOf w 9 7) (bitsOf w 2 7) (bitsOf w 0 2))
  | 0x0B => .ok (.vaddsN8 (bitsOf w 16 7) (bitsOf w 9 7) (bitsOf w 2 7) (bitsOf w 0 2))
  | 0x0C => .ok (.vminI32 (bitsOf w 16 7) (bitsOf w 9 7) (bitsOf w 2 7) (bitsOf w 0 2))
  | 0x0D => .ok (.vminN32 (bitsOf w 16 7) (bitsOf w 9 7) (bitsOf w 2 7) (bitsOf w 0 2))
  | 0x0E => .ok (.vmaxI32 (bitsOf w 16 7) (bitsOf w 9 7) (bitsOf w 2 7) (bitsOf w 0 2))
  | 0x0F => .ok (.vmaxN32 (bitsOf w 16 7) (bitsOf w 9 7) (bitsOf w 2 7) (bitsOf w 0 2))
  | 0x10 => .ok (.vand (bitsOf w 16 7) (bitsOf w 9 7) (bitsOf w 2 7) (bitsOf w 0 2))
  | 0x11 => .ok (.vor (bitsOf w 16 7) (bitsOf w 9 7) (bitsOf w 2 7) (bitsOf w 0 2))
  | 0x12 => .ok (.vxor (bitsOf w 16 7) (bitsOf w 9 7) (bitsOf w 2 7) (bitsOf w 0 2))
  | 0x13 => .ok (.vandn (bitsOf w 16 7) (bitsOf w 9 7) (bitsOf w 2 7) (bitsOf w 0 2))
  | 0x14 => .ok (.vshl (bitsOf w 16 7) (bitsOf w 9 7) (bitsOf w 2 7) (bitsOf w 0 2))
  | 0x15 => .ok (.vshrN32 (bitsOf w 16 7) (bitsOf w 9 7) (bitsOf w 2 7) (bitsOf w 0 2))
  | 0x16 => .ok (.vshrI32 (bitsOf w 16 7) (bitsOf w 9 7) (bitsOf w 2 7) (bitsOf w 0 2))
  | 0x17 => if fld w 7 2 = 0 then .ok (.vshli (bitsOf w 16 7) (bitsOf w 9 7) (bitsOf w 2 5) (bitsOf w 0 2)) else .bad 0x007
  | 0x18 => if fld w 7 2 = 0 then .ok (.vshriN32 (bitsOf w 16 7) (bitsOf w 9 7) (bitsOf w 2 5) (bitsOf w 0 2)) else .bad 0x007
  | 0x19 => if fld w 7 2 = 0 then .ok (.vshriI32 (bitsOf w 16 7) (bitsOf w 9 7) (bitsOf w 2 5) (bitsOf w 0 2)) else .bad 0x007
  | 0x1A => .ok (.vaddiI32 (bitsOf w 16 7) (bitsOf w 9 7) (bitsOf w 2 7) (bitsOf w 0 2))
  | 0x1B => if fld w 2 7 = 0 then .ok (.vabsI32 (bitsOf w 16 7) (bitsOf w 9 7) (bitsOf w 0 2)) else .bad 0x007
  | 0x1C => .ok (.vcmpeqI32 (bitsOf w 16 7) (bitsOf w 9 7) (bitsOf w 2 7) (bitsOf w 0 2))
  | 0x1D => .ok (.vcmpltI32 (bitsOf w 16 7) (bitsOf w 9 7) (bitsOf w 2 7) (bitsOf w 0 2))
  | 0x1E => .ok (.vcmpltN32 (bitsOf w 16 7) (bitsOf w 9 7) (bitsOf w 2 7) (bitsOf w 0 2))
  | 0x1F => .ok (.vsel (bitsOf w 16 7) (bitsOf w 9 7) (bitsOf w 2 7) (bitsOf w 0 2))
  | 0x20 => .ok (.vaddF32 (bitsOf w 16 7) (bitsOf w 9 7) (bitsOf w 2 7) (bitsOf w 0 2))
  | 0x21 => .ok (.vsubF32 (bitsOf w 16 7) (bitsOf w 9 7) (bitsOf w 2 7) (bitsOf w 0 2))
  | 0x22 => .ok (.vmulF32 (bitsOf w 16 7) (bitsOf w 9 7) (bitsOf w 2 7) (bitsOf w 0 2))
  | 0x23 => .ok (.vfmaF32 (bitsOf w 16 7) (bitsOf w 9 7) (bitsOf w 2 7) (bitsOf w 0 2))
  | 0x24 => .ok (.vfmsF32 (bitsOf w 16 7) (bitsOf w 9 7) (bitsOf w 2 7) (bitsOf w 0 2))
  | 0x25 => .ok (.vminF32 (bitsOf w 16 7) (bitsOf w 9 7) (bitsOf w 2 7) (bitsOf w 0 2))
  | 0x26 => .ok (.vmaxF32 (bitsOf w 16 7) (bitsOf w 9 7) (bitsOf w 2 7) (bitsOf w 0 2))
  | 0x27 => if fld w 2 7 = 0 then .ok (.vabsF32 (bitsOf w 16 7) (bitsOf w 9 7) (bitsOf w 0 2)) else .bad 0x007
  | 0x28 => .ok (.vaddBf16 (bitsOf w 16 7) (bitsOf w 9 7) (bitsOf w 2 7) (bitsOf w 0 2))
  | 0x29 => .ok (.vmulBf16 (bitsOf w 16 7) (bitsOf w 9 7) (bitsOf w 2 7) (bitsOf w 0 2))
  | 0x2A => .ok (.vfmaBf16 (bitsOf w 16 7) (bitsOf w 9 7) (bitsOf w 2 7) (bitsOf w 0 2))
  | 0x2B => .ok (.vaddF16 (bitsOf w 16 7) (bitsOf w 9 7) (bitsOf w 2 7) (bitsOf w 0 2))
  | 0x2C => .ok (.vmulF16 (bitsOf w 16 7) (bitsOf w 9 7) (bitsOf w 2 7) (bitsOf w 0 2))
  | 0x2D => .ok (.vfmaF16 (bitsOf w 16 7) (bitsOf w 9 7) (bitsOf w 2 7) (bitsOf w 0 2))
  | 0x2E => .ok (.vcmpeqF32 (bitsOf w 16 7) (bitsOf w 9 7) (bitsOf w 2 7) (bitsOf w 0 2))
  | 0x2F => .ok (.vcmpltF32 (bitsOf w 16 7) (bitsOf w 9 7) (bitsOf w 2 7) (bitsOf w 0 2))
  | 0x30 => .ok (.vcmpleF32 (bitsOf w 16 7) (bitsOf w 9 7) (bitsOf w 2 7) (bitsOf w 0 2))
  | 0x31 => .ok (.vcmpunF32 (bitsOf w 16 7) (bitsOf w 9 7) (bitsOf w 2 7) (bitsOf w 0 2))
  | 0x32 => decodeB32 w
  | 0x33 => .ok (.vqb4 (bitsOf w 16 7) (bitsOf w 9 7) (bitsOf w 2 7) (bitsOf w 0 2))
  | 0x34 => if fld w 2 7 = 0 then .ok (.vrcpE (bitsOf w 16 7) (bitsOf w 9 7) (bitsOf w 0 2)) else .bad 0x007
  | 0x35 => if fld w 2 7 = 0 then .ok (.vrsqE (bitsOf w 16 7) (bitsOf w 9 7) (bitsOf w 0 2)) else .bad 0x007
  | 0x36 => .ok (.vrcps (bitsOf w 16 7) (bitsOf w 9 7) (bitsOf w 2 7) (bitsOf w 0 2))
  | 0x37 => .ok (.vrsqs (bitsOf w 16 7) (bitsOf w 9 7) (bitsOf w 2 7) (bitsOf w 0 2))
  | 0x38 => if fld w 2 7 = 0 then .ok (.vexp2E (bitsOf w 16 7) (bitsOf w 9 7) (bitsOf w 0 2)) else .bad 0x007
  | 0x39 => if fld w 2 7 = 0 then .ok (.vlog2E (bitsOf w 16 7) (bitsOf w 9 7) (bitsOf w 0 2)) else .bad 0x007
  | 0x3A => if fld w 2 7 = 0 then .ok (.vtanhE (bitsOf w 16 7) (bitsOf w 9 7) (bitsOf w 0 2)) else .bad 0x007
  | 0x40 => if fld w 2 7 = 0 then .ok (.vrsumF32 (bitsOf w 16 7) (bitsOf w 9 7) (bitsOf w 0 2)) else .bad 0x007
  | 0x41 => if fld w 2 7 = 0 then .ok (.vrmaxF32 (bitsOf w 16 7) (bitsOf w 9 7) (bitsOf w 0 2)) else .bad 0x007
  | 0x42 => if fld w 2 7 = 0 then .ok (.vrminF32 (bitsOf w 16 7) (bitsOf w 9 7) (bitsOf w 0 2)) else .bad 0x007
  | 0x43 => if fld w 2 7 = 0 then .ok (.vrsumI32 (bitsOf w 16 7) (bitsOf w 9 7) (bitsOf w 0 2)) else .bad 0x007
  | 0x44 => if fld w 2 7 = 0 then .ok (.vrmaxI32 (bitsOf w 16 7) (bitsOf w 9 7) (bitsOf w 0 2)) else .bad 0x007
  | 0x45 => .ok (.vperm (bitsOf w 16 7) (bitsOf w 9 7) (bitsOf w 2 7) (bitsOf w 0 2))
  | 0x46 => if fld w 6 3 = 0 then .ok (.vbcast (bitsOf w 16 7) (bitsOf w 9 7) (bitsOf w 2 4) (bitsOf w 0 2)) else .bad 0x007
  | 0x47 => if fld w 7 2 = 0 then .ok (.vslideup (bitsOf w 16 7) (bitsOf w 9 7) (bitsOf w 2 5) (bitsOf w 0 2)) else .bad 0x007
  | 0x48 => if fld w 7 2 = 0 then .ok (.vslidedn (bitsOf w 16 7) (bitsOf w 9 7) (bitsOf w 2 5) (bitsOf w 0 2)) else .bad 0x007
  | 0x49 => .ok (.vzipl (bitsOf w 16 7) (bitsOf w 9 7) (bitsOf w 2 7) (bitsOf w 0 2))
  | 0x4A => .ok (.vziph (bitsOf w 16 7) (bitsOf w 9 7) (bitsOf w 2 7) (bitsOf w 0 2))
  | 0x4B => if fld w 0 2 = 0 then .ok (.pand (bitsOf w 16 7) (bitsOf w 9 7) (bitsOf w 2 7)) else .bad 0x007
  | 0x4C => if fld w 0 2 = 0 then .ok (.por (bitsOf w 16 7) (bitsOf w 9 7) (bitsOf w 2 7)) else .bad 0x007
  | 0x4D => if fld w 0 2 = 0 then .ok (.pxor (bitsOf w 16 7) (bitsOf w 9 7) (bitsOf w 2 7)) else .bad 0x007
  | 0x4E => if fld w 0 9 = 0 then .ok (.pnot (bitsOf w 16 7) (bitsOf w 9 7)) else .bad 0x007
  | 0x4F => if fld w 2 7 = 0 then .ok (.vpcnt (bitsOf w 16 7) (bitsOf w 9 7) (bitsOf w 0 2)) else .bad 0x007
  | 0x50 => if fld w 2 7 = 0 then .ok (.movw (bitsOf w 16 7) (bitsOf w 9 7) (bitsOf w 0 2)) else .bad 0x007
  | 0x51 => if fld w 9 7 = 0 then .ok (.movwi (bitsOf w 16 7) (bitsOf w 2 7) (bitsOf w 0 2)) else .bad 0x007
  | 0x58 => if fld w 2 14 = 0 then .ok (.vrng (bitsOf w 16 7) (bitsOf w 0 2)) else .bad 0x007
  | 0x59 => decodeB59 w
  | 0x60 => decodeB60 w
  | 0x61 => decodeB61 w
  | 0x62 => decodeB62 w
  | 0x63 => decodeB63 w
  | 0x78 => .ok (.reservedHintB (bitsOf w 23 3) (bitsOf w 0 23))
  | 0x79 => .ok (.reservedHintB (bitsOf w 23 3) (bitsOf w 0 23))
  | 0x7A => .ok (.reservedHintB (bitsOf w 23 3) (bitsOf w 0 23))
  | 0x7B => .ok (.reservedHintB (bitsOf w 23 3) (bitsOf w 0 23))
  | 0x7C => .ok (.reservedHintB (bitsOf w 23 3) (bitsOf w 0 23))
  | 0x7D => .ok (.reservedHintB (bitsOf w 23 3) (bitsOf w 0 23))
  | 0x7E => .ok (.reservedHintB (bitsOf w 23 3) (bitsOf w 0 23))
  | 0x7F => .ok (.vnop (bitsOf w 0 23))
  | _ => .bad 0x005

/-- The decoding of one code word: by its class, bit [31] (R47). -/
noncomputable def decodeNat (w : Nat) : Decoded := if fld w 31 1 = 0 then decodeA w else decodeB w

/-- The decoding of one code word. -/
noncomputable def decodeWord (w : Word) : Decoded := decodeNat w.toNat

/-- Bit [30] of a code word, S: the word issues alone (R47). -/
def soloBit (w : Word) : Bool := fld w.toNat 30 1 == 1

/-- Bit [31] of a code word: 1 for a B-class word (R47). -/
def classBit (w : Word) : Bool := fld w.toNat 31 1 == 1

/-- The fixed bits of a word with one field x at bit i. -/
def lay1 (m x i : Nat) : Nat := m + x * 2 ^ i

/-- The fixed bits of a word with two fields. -/
def lay2 (m x i y j : Nat) : Nat := m + x * 2 ^ i + y * 2 ^ j

/-- The fixed bits of a word with three fields. -/
def lay3 (m x i y j z k : Nat) : Nat := m + x * 2 ^ i + y * 2 ^ j + z * 2 ^ k

/-- The fixed bits of a word with four fields. -/
def lay4 (m x i y j z k u l : Nat) : Nat := m + x * 2 ^ i + y * 2 ^ j + z * 2 ^ k + u * 2 ^ l

/-- The fixed bits of a word with five fields. -/
def lay5 (m x i y j z k u l v n : Nat) : Nat := m + x * 2 ^ i + y * 2 ^ j + z * 2 ^ k + u * 2 ^ l + v * 2 ^ n

/-- The bits of an instruction's word below its S bit, from the encoding tables; `none` for what is no assigned word. -/
def Instr.code : Instr → Option Nat
  | .add d a b => some (lay3 0x01000000 d.toNat 19 a.toNat 14 b.toNat 9)
  | .sub d a b => some (lay3 0x01000001 d.toNat 19 a.toNat 14 b.toNat 9)
  | .and d a b => some (lay3 0x01000002 d.toNat 19 a.toNat 14 b.toNat 9)
  | .or d a b => some (lay3 0x01000003 d.toNat 19 a.toNat 14 b.toNat 9)
  | .xor d a b => some (lay3 0x01000004 d.toNat 19 a.toNat 14 b.toNat 9)
  | .andn d a b => some (lay3 0x01000005 d.toNat 19 a.toNat 14 b.toNat 9)
  | .shl d a b => some (lay3 0x01000006 d.toNat 19 a.toNat 14 b.toNat 9)
  | .shr d a b => some (lay3 0x01000007 d.toNat 19 a.toNat 14 b.toNat 9)
  | .sra d a b => some (lay3 0x01000008 d.toNat 19 a.toNat 14 b.toNat 9)
  | .slt d a b => some (lay3 0x01000009 d.toNat 19 a.toNat 14 b.toNat 9)
  | .sltn d a b => some (lay3 0x0100000A d.toNat 19 a.toNat 14 b.toNat 9)
  | .seq d a b => some (lay3 0x0100000B d.toNat 19 a.toNat 14 b.toNat 9)
  | .min d a b => some (lay3 0x0100000C d.toNat 19 a.toNat 14 b.toNat 9)
  | .minn d a b => some (lay3 0x0100000D d.toNat 19 a.toNat 14 b.toNat 9)
  | .max d a b => some (lay3 0x0100000E d.toNat 19 a.toNat 14 b.toNat 9)
  | .maxn d a b => some (lay3 0x0100000F d.toNat 19 a.toNat 14 b.toNat 9)
  | .addx4 d a b => some (lay3 0x01000010 d.toNat 19 a.toNat 14 b.toNat 9)
  | .addx64 d a b => some (lay3 0x01000011 d.toNat 19 a.toNat 14 b.toNat 9)
  | .mul d a b => some (lay3 0x01000012 d.toNat 19 a.toNat 14 b.toNat 9)
  | .mulh d a b => some (lay3 0x01000013 d.toNat 19 a.toNat 14 b.toNat 9)
  | .mulhn d a b => some (lay3 0x01000014 d.toNat 19 a.toNat 14 b.toNat 9)
  | .div d a b => some (lay3 0x01000015 d.toNat 19 a.toNat 14 b.toNat 9)
  | .divn d a b => some (lay3 0x01000016 d.toNat 19 a.toNat 14 b.toNat 9)
  | .rem d a b => some (lay3 0x01000017 d.toNat 19 a.toNat 14 b.toNat 9)
  | .remn d a b => some (lay3 0x01000018 d.toNat 19 a.toNat 14 b.toNat 9)
  | .movz d a b => some (lay3 0x01000019 d.toNat 19 a.toNat 14 b.toNat 9)
  | .movnz d a b => some (lay3 0x0100001A d.toNat 19 a.toNat 14 b.toNat 9)
  | .clz d a => some (lay2 0x0100001B d.toNat 19 a.toNat 14)
  | .popc d a => some (lay2 0x0100001C d.toNat 19 a.toNat 14)
  | .prd d a => some (lay2 0x0100001D d.toNat 19 a.toNat 14)
  | .pwr d a => some (lay2 0x0100001E d.toNat 19 a.toNat 14)
  | .addi d a i => some (lay3 0x02000000 d.toNat 19 a.toNat 14 i.toNat 0)
  | .andi d a i => some (lay3 0x03000000 d.toNat 19 a.toNat 14 i.toNat 0)
  | .ori d a i => some (lay3 0x04000000 d.toNat 19 a.toNat 14 i.toNat 0)
  | .xori d a i => some (lay3 0x05000000 d.toNat 19 a.toNat 14 i.toNat 0)
  | .shli d a n => some (lay3 0x06000000 d.toNat 19 a.toNat 14 n.toNat 0)
  | .shri d a n => some (lay3 0x06000020 d.toNat 19 a.toNat 14 n.toNat 0)
  | .srai d a n => some (lay3 0x06000040 d.toNat 19 a.toNat 14 n.toNat 0)
  | .lui d i => some (lay2 0x07000000 d.toNat 19 i.toNat 0)
  | .slti d a i => some (lay3 0x08000000 d.toNat 19 a.toNat 14 i.toNat 0)
  | .sltni d a i => some (lay3 0x09000000 d.toNat 19 a.toNat 14 i.toNat 0)
  | .csrr d n => some (lay2 0x0A000000 d.toNat 19 n.toNat 0)
  | .csrw d a n => some (lay3 0x0A001000 d.toNat 19 a.toNat 14 n.toNat 0)
  | .csrs d a n => some (lay3 0x0A002000 d.toNat 19 a.toNat 14 n.toNat 0)
  | .csrc d a n => some (lay3 0x0A003000 d.toNat 19 a.toNat 14 n.toNat 0)
  | .j i => some (lay1 0x0C000000 i.toNat 0)
  | .jal i => some (lay1 0x0D000000 i.toNat 0)
  | .jr a => some (lay1 0x0E000000 a.toNat 14)
  | .jalr d a => some (lay2 0x0E000001 d.toNat 19 a.toNat 14)
  | .beq d a i => some (lay3 0x10000000 d.toNat 19 a.toNat 14 i.toNat 0)
  | .bne d a i => some (lay3 0x11000000 d.toNat 19 a.toNat 14 i.toNat 0)
  | .blt d a i => some (lay3 0x12000000 d.toNat 19 a.toNat 14 i.toNat 0)
  | .bge d a i => some (lay3 0x13000000 d.toNat 19 a.toNat 14 i.toNat 0)
  | .bltn d a i => some (lay3 0x14000000 d.toNat 19 a.toNat 14 i.toNat 0)
  | .bgen d a i => some (lay3 0x15000000 d.toNat 19 a.toNat 14 i.toNat 0)
  | .bp c p i => some (lay3 0x16000000 c.toNat 22 p.toNat 19 i.toNat 0)
  | .loop d i => some (lay2 0x17000000 d.toNat 19 i.toNat 0)
  | .ldI8 d a o => some (lay3 0x18000000 d.toNat 19 a.toNat 14 o.toNat 0)
  | .ldN8 d a o => some (lay3 0x19000000 d.toNat 19 a.toNat 14 o.toNat 0)
  | .ldI16 d a o => some (lay3 0x1A000000 d.toNat 19 a.toNat 14 o.toNat 0)
  | .ldN16 d a o => some (lay3 0x1B000000 d.toNat 19 a.toNat 14 o.toNat 0)
  | .ldI32 d a o => some (lay3 0x1C000000 d.toNat 19 a.toNat 14 o.toNat 0)
  | .stI8 d a o => some (lay3 0x1D000000 d.toNat 19 a.toNat 14 o.toNat 0)
  | .stI16 d a o => some (lay3 0x1E000000 d.toNat 19 a.toNat 14 o.toNat 0)
  | .stI32 d a o => some (lay3 0x1F000000 d.toNat 19 a.toNat 14 o.toNat 0)
  | .ldc d a o => some (lay3 0x20000000 d.toNat 19 a.toNat 14 o.toNat 0)
  | .vld v a p o => some (lay4 0x21000000 v.toNat 18 a.toNat 13 p.toNat 10 o.toNat 0)
  | .vst v a p o => some (lay4 0x22000000 v.toNat 18 a.toNat 13 p.toNat 10 o.toNat 0)
  | .vlds v a p b => some (lay4 0x23000000 v.toNat 18 a.toNat 13 p.toNat 10 b.toNat 5)
  | .vsts v a p b => some (lay4 0x24000000 v.toNat 18 a.toNat 13 p.toNat 10 b.toNat 5)
  | .vldx v a p x e => some (lay5 0x25000000 v.toNat 18 a.toNat 13 p.toNat 10 x.toNat 4 e.toNat 2)
  | .vstx v a p x e => some (lay5 0x26000000 v.toNat 18 a.toNat 13 p.toNat 10 x.toNat 4 e.toNat 2)
  | .vldc v a p o => some (lay4 0x27000000 v.toNat 18 a.toNat 13 p.toNat 10 o.toNat 0)
  | .qld q a o => some (lay3 0x28000000 q.toNat 18 a.toNat 13 o.toNat 0)
  | .qst q a o => some (lay3 0x29000000 q.toNat 18 a.toNat 13 o.toNat 0)
  | .amoswap d a b => some (lay3 0x2A000000 d.toNat 19 a.toNat 14 b.toNat 9)
  | .amoadd d a b => some (lay3 0x2A000001 d.toNat 19 a.toNat 14 b.toNat 9)
  | .amoand d a b => some (lay3 0x2A000002 d.toNat 19 a.toNat 14 b.toNat 9)
  | .amoor d a b => some (lay3 0x2A000003 d.toNat 19 a.toNat 14 b.toNat 9)
  | .amoxor d a b => some (lay3 0x2A000004 d.toNat 19 a.toNat 14 b.toNat 9)
  | .amomin d a b => some (lay3 0x2A000005 d.toNat 19 a.toNat 14 b.toNat 9)
  | .amomax d a b => some (lay3 0x2A000006 d.toNat 19 a.toNat 14 b.toNat 9)
  | .amominn d a b => some (lay3 0x2A000007 d.toNat 19 a.toNat 14 b.toNat 9)
  | .amomaxn d a b => some (lay3 0x2A000008 d.toNat 19 a.toNat 14 b.toNat 9)
  | .amocas d a b => some (lay3 0x2A000009 d.toNat 19 a.toNat 14 b.toNat 9)
  | .movws v d l => some (lay3 0x2B000000 v.toNat 18 d.toNat 13 l.toNat 0)
  | .gang n => some (lay1 0x2C000000 n.toNat 0)
  | .split => some 0x2D000000
  | .barw b => some (lay1 0x2E000000 b.toNat 0)
  | .bara b => some (lay1 0x2E001000 b.toNat 0)
  | .barwt b => some (lay1 0x2E002000 b.toNat 0)
  | .trap a n => some (lay2 0x2F000000 a.toNat 14 n.toNat 0)
  | .eret => some 0x30000000
  | .rgn => some 0x31000000
  | .rgnA => some 0x31000001
  | .abort a => some (lay1 0x31000002 a.toNat 14)
  | .rgnq d => some (lay1 0x31000003 d.toNat 19)
  | .trcr d a b => some (lay3 0x31000004 d.toNat 19 a.toNat 14 b.toNat 9)
  | .trcc d a b => some (lay3 0x31000005 d.toNat 19 a.toNat 14 b.toNat 9)
  | .mwld t a b f => some (lay4 0x32000000 t.toNat 19 a.toNat 14 b.toNat 9 f.toNat 4)
  | .mmaBf16 t a b c => some (lay4 0x32000001 t.toNat 19 a.toNat 14 b.toNat 9 c.toNat 4)
  | .mmaE4m3 t a b c => some (lay4 0x32000002 t.toNat 19 a.toNat 14 b.toNat 9 c.toNat 4)
  | .mmaE5m2 t a b c => some (lay4 0x32000003 t.toNat 19 a.toNat 14 b.toNat 9 c.toNat 4)
  | .mmaB4 t a b c => some (lay4 0x32000004 t.toNat 19 a.toNat 14 b.toNat 9 c.toNat 4)
  | .mmasBf16 t a b c => some (lay4 0x32000005 t.toNat 19 a.toNat 14 b.toNat 9 c.toNat 4)
  | .mmasE4m3 t a b c => some (lay4 0x32000006 t.toNat 19 a.toNat 14 b.toNat 9 c.toNat 4)
  | .mmasE5m2 t a b c => some (lay4 0x32000007 t.toNat 19 a.toNat 14 b.toNat 9 c.toNat 4)
  | .mmasB4 t a b c => some (lay4 0x32000008 t.toNat 19 a.toNat 14 b.toNat 9 c.toNat 4)
  | .mzero t b k => some (lay3 0x32000009 t.toNat 19 b.toNat 9 k.toNat 4)
  | .mdrain t a b o => some (lay4 0x3200000A t.toNat 19 a.toNat 14 b.toNat 9 o.toNat 4)
  | .mdrainBf16 t a b o => some (lay4 0x3200000B t.toNat 19 a.toNat 14 b.toNat 9 o.toNat 4)
  | .mwait t => some (lay1 0x3200000C t.toNat 19)
  | .mqry t k => some (lay2 0x3200000D t.toNat 19 k.toNat 4)
  | .cpy t a c => some (lay3 0x33000000 t.toNat 19 a.toNat 14 c.toNat 4)
  | .pull t a b c => some (lay4 0x33000001 t.toNat 19 a.toNat 14 b.toNat 9 c.toNat 4)
  | .pullc t a b c => some (lay4 0x33000002 t.toNat 19 a.toNat 14 b.toNat 9 c.toNat 4)
  | .pulld t a b c => some (lay4 0x33000003 t.toNat 19 a.toNat 14 b.toNat 9 c.toNat 4)
  | .pulldVerify t c => some (lay2 0x33000003 t.toNat 19 c.toNat 4)
  | .watch t a b c => some (lay4 0x33000004 t.toNat 19 a.toNat 14 b.toNat 9 c.toNat 4)
  | .watcht t a b c => some (lay4 0x33000005 t.toNat 19 a.toNat 14 b.toNat 9 c.toNat 4)
  | .seqadv a b => some (lay2 0x33000006 a.toNat 14 b.toNat 9)
  | .wcancel t => some (lay1 0x33000007 t.toNat 19)
  | .ldg d a b k => some (lay4 0x34000000 d.toNat 19 a.toNat 14 b.toNat 9 k.toNat 0)
  | .seqldA d a b => some (lay3 0x35000000 d.toNat 19 a.toNat 14 b.toNat 9)
  | .tpart a c => some (lay2 0x36000000 a.toNat 14 c.toNat 4)
  | .talloc t a b c => some (lay4 0x36000001 t.toNat 19 a.toNat 14 b.toNat 9 c.toNat 4)
  | .tallocn t a b c => some (lay4 0x36000002 t.toNat 19 a.toNat 14 b.toNat 9 c.toNat 4)
  | .tqry t a q => some (lay3 0x36000003 t.toNat 19 a.toNat 14 q.toNat 4)
  | .taban a b => some (lay2 0x36000004 a.toNat 14 b.toNat 9)
  | .ropen t a b => some (lay3 0x37000000 t.toNat 19 a.toNat 14 b.toNat 9)
  | .rclose a => some (lay1 0x37000001 a.toNat 14)
  | .send t a b c => some (lay4 0x37000002 t.toNat 19 a.toNat 14 b.toNat 9 c.toNat 4)
  | .sendv t a b c => some (lay4 0x37000003 t.toNat 19 a.toNat 14 b.toNat 9 c.toNat 4)
  | .recv t a => some (lay2 0x37000004 t.toNat 19 a.toNat 14)
  | .recvn t a => some (lay2 0x37000005 t.toNat 19 a.toNat 14)
  | .submit t a b => some (lay3 0x38000000 t.toNat 19 a.toNat 14 b.toNat 9)
  | .cancel t a b => some (lay3 0x38000001 t.toNat 19 a.toNat 14 b.toNat 9)
  | .yield a b => some (lay2 0x38000002 a.toNat 14 b.toNat 9)
  | .retire => some 0x38000003
  | .sleept a b => some (lay2 0x38000004 a.toNat 14 b.toNat 9)
  | .subat t a b c => some (lay4 0x38000005 t.toNat 19 a.toNat 14 b.toNat 9 c.toNat 4)
  | .qstat t a => some (lay2 0x38000006 t.toNat 19 a.toNat 14)
  | .fpin t a b => some (lay3 0x38000007 t.toNat 19 a.toNat 14 b.toNat 9)
  | .rkreg t a b c => some (lay4 0x39000000 t.toNat 19 a.toNat 14 b.toNat 9 c.toNat 4)
  | .rkrev a => some (lay1 0x39000001 a.toNat 14)
  | .ckreg t a b => some (lay3 0x39000002 t.toNat 19 a.toNat 14 b.toNat 9)
  | .ckdel t a => some (lay2 0x39000003 t.toNat 19 a.toNat 14)
  | .hovrTake t a b c => some (lay4 0x3A000000 t.toNat 19 a.toNat 14 b.toNat 9 c.toNat 4)
  | .hovrGive t a b c => some (lay4 0x3A000000 t.toNat 19 a.toNat 14 b.toNat 9 c.toNat 4)
  | .plbinv t a b c => some (lay4 0x3A000001 t.toNat 19 a.toNat 14 b.toNat 9 c.toNat 4)
  | .xlinv t a b c => some (lay4 0x3A000002 t.toNat 19 a.toNat 14 b.toNat 9 c.toNat 4)
  | .migrSeal t c => some (lay2 0x3A000003 t.toNat 19 c.toNat 4)
  | .migrTake t a b c => some (lay4 0x3A000003 t.toNat 19 a.toNat 14 b.toNat 9 c.toNat 4)
  | .migrDiscard t c => some (lay2 0x3A000003 t.toNat 19 c.toNat 4)
  | .migrReclaim t c => some (lay2 0x3A000003 t.toNat 19 c.toNat 4)
  | .nop x => some (lay1 0x3F000000 x.toNat 0)
  | .reservedHintA m x => some (lay2 0x3C000000 m.toNat 24 x.toNat 0)
  | .reservedHintB m x => some (lay2 0xBC000000 m.toNat 23 x.toNat 0)
  | .illegalInstruction _ _ => none
  | .vaddI32 d a b g => some (lay4 0x80000000 d.toNat 16 a.toNat 9 b.toNat 2 g.toNat 0)
  | .vsubI32 d a b g => some (lay4 0x80800000 d.toNat 16 a.toNat 9 b.toNat 2 g.toNat 0)
  | .vmulI32 d a b g => some (lay4 0x81000000 d.toNat 16 a.toNat 9 b.toNat 2 g.toNat 0)
  | .vmulhI32 d a b g => some (lay4 0x81800000 d.toNat 16 a.toNat 9 b.toNat 2 g.toNat 0)
  | .vmulhN32 d a b g => some (lay4 0x82000000 d.toNat 16 a.toNat 9 b.toNat 2 g.toNat 0)
  | .vaddsI32 d a b g => some (lay4 0x82800000 d.toNat 16 a.toNat 9 b.toNat 2 g.toNat 0)
  | .vaddsN32 d a b g => some (lay4 0x83000000 d.toNat 16 a.toNat 9 b.toNat 2 g.toNat 0)
  | .vsubsI32 d a b g => some (lay4 0x83800000 d.toNat 16 a.toNat 9 b.toNat 2 g.toNat 0)
  | .vsubsN32 d a b g => some (lay4 0x84000000 d.toNat 16 a.toNat 9 b.toNat 2 g.toNat 0)
  | .vaddsI16 d a b g => some (lay4 0x84800000 d.toNat 16 a.toNat 9 b.toNat 2 g.toNat 0)
  | .vaddsI8 d a b g => some (lay4 0x85000000 d.toNat 16 a.toNat 9 b.toNat 2 g.toNat 0)
  | .vaddsN8 d a b g => some (lay4 0x85800000 d.toNat 16 a.toNat 9 b.toNat 2 g.toNat 0)
  | .vminI32 d a b g => some (lay4 0x86000000 d.toNat 16 a.toNat 9 b.toNat 2 g.toNat 0)
  | .vminN32 d a b g => some (lay4 0x86800000 d.toNat 16 a.toNat 9 b.toNat 2 g.toNat 0)
  | .vmaxI32 d a b g => some (lay4 0x87000000 d.toNat 16 a.toNat 9 b.toNat 2 g.toNat 0)
  | .vmaxN32 d a b g => some (lay4 0x87800000 d.toNat 16 a.toNat 9 b.toNat 2 g.toNat 0)
  | .vand d a b g => some (lay4 0x88000000 d.toNat 16 a.toNat 9 b.toNat 2 g.toNat 0)
  | .vor d a b g => some (lay4 0x88800000 d.toNat 16 a.toNat 9 b.toNat 2 g.toNat 0)
  | .vxor d a b g => some (lay4 0x89000000 d.toNat 16 a.toNat 9 b.toNat 2 g.toNat 0)
  | .vandn d a b g => some (lay4 0x89800000 d.toNat 16 a.toNat 9 b.toNat 2 g.toNat 0)
  | .vshl d a b g => some (lay4 0x8A000000 d.toNat 16 a.toNat 9 b.toNat 2 g.toNat 0)
  | .vshrN32 d a b g => some (lay4 0x8A800000 d.toNat 16 a.toNat 9 b.toNat 2 g.toNat 0)
  | .vshrI32 d a b g => some (lay4 0x8B000000 d.toNat 16 a.toNat 9 b.toNat 2 g.toNat 0)
  | .vshli d a n g => some (lay4 0x8B800000 d.toNat 16 a.toNat 9 n.toNat 2 g.toNat 0)
  | .vshriN32 d a n g => some (lay4 0x8C000000 d.toNat 16 a.toNat 9 n.toNat 2 g.toNat 0)
  | .vshriI32 d a n g => some (lay4 0x8C800000 d.toNat 16 a.toNat 9 n.toNat 2 g.toNat 0)
  | .vaddiI32 d a i g => some (lay4 0x8D000000 d.toNat 16 a.toNat 9 i.toNat 2 g.toNat 0)
  | .vabsI32 d a g => some (lay3 0x8D800000 d.toNat 16 a.toNat 9 g.toNat 0)
  | .vcmpeqI32 d a b g => some (lay4 0x8E000000 d.toNat 16 a.toNat 9 b.toNat 2 g.toNat 0)
  | .vcmpltI32 d a b g => some (lay4 0x8E800000 d.toNat 16 a.toNat 9 b.toNat 2 g.toNat 0)
  | .vcmpltN32 d a b g => some (lay4 0x8F000000 d.toNat 16 a.toNat 9 b.toNat 2 g.toNat 0)
  | .vsel d a b g => some (lay4 0x8F800000 d.toNat 16 a.toNat 9 b.toNat 2 g.toNat 0)
  | .vaddF32 d a b g => some (lay4 0x90000000 d.toNat 16 a.toNat 9 b.toNat 2 g.toNat 0)
  | .vsubF32 d a b g => some (lay4 0x90800000 d.toNat 16 a.toNat 9 b.toNat 2 g.toNat 0)
  | .vmulF32 d a b g => some (lay4 0x91000000 d.toNat 16 a.toNat 9 b.toNat 2 g.toNat 0)
  | .vfmaF32 d a b g => some (lay4 0x91800000 d.toNat 16 a.toNat 9 b.toNat 2 g.toNat 0)
  | .vfmsF32 d a b g => some (lay4 0x92000000 d.toNat 16 a.toNat 9 b.toNat 2 g.toNat 0)
  | .vminF32 d a b g => some (lay4 0x92800000 d.toNat 16 a.toNat 9 b.toNat 2 g.toNat 0)
  | .vmaxF32 d a b g => some (lay4 0x93000000 d.toNat 16 a.toNat 9 b.toNat 2 g.toNat 0)
  | .vabsF32 d a g => some (lay3 0x93800000 d.toNat 16 a.toNat 9 g.toNat 0)
  | .vaddBf16 d a b g => some (lay4 0x94000000 d.toNat 16 a.toNat 9 b.toNat 2 g.toNat 0)
  | .vmulBf16 d a b g => some (lay4 0x94800000 d.toNat 16 a.toNat 9 b.toNat 2 g.toNat 0)
  | .vfmaBf16 d a b g => some (lay4 0x95000000 d.toNat 16 a.toNat 9 b.toNat 2 g.toNat 0)
  | .vaddF16 d a b g => some (lay4 0x95800000 d.toNat 16 a.toNat 9 b.toNat 2 g.toNat 0)
  | .vmulF16 d a b g => some (lay4 0x96000000 d.toNat 16 a.toNat 9 b.toNat 2 g.toNat 0)
  | .vfmaF16 d a b g => some (lay4 0x96800000 d.toNat 16 a.toNat 9 b.toNat 2 g.toNat 0)
  | .vcmpeqF32 d a b g => some (lay4 0x97000000 d.toNat 16 a.toNat 9 b.toNat 2 g.toNat 0)
  | .vcmpltF32 d a b g => some (lay4 0x97800000 d.toNat 16 a.toNat 9 b.toNat 2 g.toNat 0)
  | .vcmpleF32 d a b g => some (lay4 0x98000000 d.toNat 16 a.toNat 9 b.toNat 2 g.toNat 0)
  | .vcmpunF32 d a b g => some (lay4 0x98800000 d.toNat 16 a.toNat 9 b.toNat 2 g.toNat 0)
  | .vcvtF32I32 d a g => some (lay3 0x99000000 d.toNat 16 a.toNat 9 g.toNat 0)
  | .vcvtF32N32 d a g => some (lay3 0x99000004 d.toNat 16 a.toNat 9 g.toNat 0)
  | .vcvtF32I16 d a g => some (lay3 0x99000008 d.toNat 16 a.toNat 9 g.toNat 0)
  | .vcvtF32N16 d a g => some (lay3 0x9900000C d.toNat 16 a.toNat 9 g.toNat 0)
  | .vcvtF32I8 d a g => some (lay3 0x99000010 d.toNat 16 a.toNat 9 g.toNat 0)
  | .vcvtF32N8 d a g => some (lay3 0x99000014 d.toNat 16 a.toNat 9 g.toNat 0)
  | .vcvtI32F32 d a g => some (lay3 0x99000020 d.toNat 16 a.toNat 9 g.toNat 0)
  | .vcvtN32F32 d a g => some (lay3 0x99000024 d.toNat 16 a.toNat 9 g.toNat 0)
  | .vcvtF32Bf16 d a g => some (lay3 0x99000040 d.toNat 16 a.toNat 9 g.toNat 0)
  | .vcvtF32F16 d a g => some (lay3 0x99000044 d.toNat 16 a.toNat 9 g.toNat 0)
  | .vcvtF32E4m3 d a g => some (lay3 0x99000048 d.toNat 16 a.toNat 9 g.toNat 0)
  | .vcvtF32E5m2 d a g => some (lay3 0x9900004C d.toNat 16 a.toNat 9 g.toNat 0)
  | .vcvtBf16F32 d a k g => some (lay4 0x99000060 d.toNat 16 a.toNat 9 k.toNat 2 g.toNat 0)
  | .vcvtF16F32 d a k g => some (lay4 0x99000068 d.toNat 16 a.toNat 9 k.toNat 2 g.toNat 0)
  | .vcvtE4m3F32 d a k g => some (lay4 0x99000080 d.toNat 16 a.toNat 9 k.toNat 2 g.toNat 0)
  | .vcvtE5m2F32 d a k g => some (lay4 0x99000090 d.toNat 16 a.toNat 9 k.toNat 2 g.toNat 0)
  | .vcvtI32I16 d a g => some (lay3 0x990000A0 d.toNat 16 a.toNat 9 g.toNat 0)
  | .vcvtI32N16 d a g => some (lay3 0x990000A4 d.toNat 16 a.toNat 9 g.toNat 0)
  | .vcvtI32I8 d a g => some (lay3 0x990000A8 d.toNat 16 a.toNat 9 g.toNat 0)
  | .vcvtI32N8 d a g => some (lay3 0x990000AC d.toNat 16 a.toNat 9 g.toNat 0)
  | .vcvtN32I32 d a g => some (lay3 0x990000B0 d.toNat 16 a.toNat 9 g.toNat 0)
  | .vcvtI32N32 d a g => some (lay3 0x990000B4 d.toNat 16 a.toNat 9 g.toNat 0)
  | .vqb4 d a b t => some (lay4 0x99800000 d.toNat 16 a.toNat 9 b.toNat 2 t.toNat 0)
  | .vrcpE d a g => some (lay3 0x9A000000 d.toNat 16 a.toNat 9 g.toNat 0)
  | .vrsqE d a g => some (lay3 0x9A800000 d.toNat 16 a.toNat 9 g.toNat 0)
  | .vrcps d a b g => some (lay4 0x9B000000 d.toNat 16 a.toNat 9 b.toNat 2 g.toNat 0)
  | .vrsqs d a b g => some (lay4 0x9B800000 d.toNat 16 a.toNat 9 b.toNat 2 g.toNat 0)
  | .vexp2E d a g => some (lay3 0x9C000000 d.toNat 16 a.toNat 9 g.toNat 0)
  | .vlog2E d a g => some (lay3 0x9C800000 d.toNat 16 a.toNat 9 g.toNat 0)
  | .vtanhE d a g => some (lay3 0x9D000000 d.toNat 16 a.toNat 9 g.toNat 0)
  | .vrsumF32 d a g => some (lay3 0xA0000000 d.toNat 16 a.toNat 9 g.toNat 0)
  | .vrmaxF32 d a g => some (lay3 0xA0800000 d.toNat 16 a.toNat 9 g.toNat 0)
  | .vrminF32 d a g => some (lay3 0xA1000000 d.toNat 16 a.toNat 9 g.toNat 0)
  | .vrsumI32 d a g => some (lay3 0xA1800000 d.toNat 16 a.toNat 9 g.toNat 0)
  | .vrmaxI32 d a g => some (lay3 0xA2000000 d.toNat 16 a.toNat 9 g.toNat 0)
  | .vperm d a b g => some (lay4 0xA2800000 d.toNat 16 a.toNat 9 b.toNat 2 g.toNat 0)
  | .vbcast d a k g => some (lay4 0xA3000000 d.toNat 16 a.toNat 9 k.toNat 2 g.toNat 0)
  | .vslideup d a n g => some (lay4 0xA3800000 d.toNat 16 a.toNat 9 n.toNat 2 g.toNat 0)
  | .vslidedn d a n g => some (lay4 0xA4000000 d.toNat 16 a.toNat 9 n.toNat 2 g.toNat 0)
  | .vzipl d a b g => some (lay4 0xA4800000 d.toNat 16 a.toNat 9 b.toNat 2 g.toNat 0)
  | .vziph d a b g => some (lay4 0xA5000000 d.toNat 16 a.toNat 9 b.toNat 2 g.toNat 0)
  | .pand d a b => some (lay3 0xA5800000 d.toNat 16 a.toNat 9 b.toNat 2)
  | .por d a b => some (lay3 0xA6000000 d.toNat 16 a.toNat 9 b.toNat 2)
  | .pxor d a b => some (lay3 0xA6800000 d.toNat 16 a.toNat 9 b.toNat 2)
  | .pnot d a => some (lay2 0xA7000000 d.toNat 16 a.toNat 9)
  | .vpcnt d a g => some (lay3 0xA7800000 d.toNat 16 a.toNat 9 g.toNat 0)
  | .movw d a g => some (lay3 0xA8000000 d.toNat 16 a.toNat 9 g.toNat 0)
  | .movwi d i g => some (lay3 0xA8800000 d.toNat 16 i.toNat 2 g.toNat 0)
  | .vrng d g => some (lay2 0xAC000000 d.toNat 16 g.toNat 0)
  | .rngsetKey a b => some (lay2 0xAC800000 a.toNat 9 b.toNat 2)
  | .rngsetCtr b => some (lay1 0xAC81C000 b.toNat 2)
  | .rngsetAdv b => some (lay1 0xAC82C000 b.toNat 2)
  | .vnop x => some (lay1 0xBF800000 x.toNat 0)
  | .qadd d a b => some (lay3 0xB0000000 d.toNat 20 a.toNat 17 b.toNat 14)
  | .qsub d a b => some (lay3 0xB0000004 d.toNat 20 a.toNat 17 b.toNat 14)
  | .qmul d a b => some (lay3 0xB0000008 d.toNat 20 a.toNat 17 b.toNat 14)
  | .qmax d a b => some (lay3 0xB000000C d.toNat 20 a.toNat 17 b.toNat 14)
  | .qmin d a b => some (lay3 0xB0000010 d.toNat 20 a.toNat 17 b.toNat 14)
  | .qscl d a v => some (lay3 0xB0800000 d.toNat 20 a.toNat 17 v.toNat 7)
  | .qneg d a => some (lay2 0xB0800004 d.toNat 20 a.toNat 17)
  | .qmap d a f => some (lay3 0xB0800008 d.toNat 20 a.toNat 17 f.toNat 14)
  | .qmov d a => some (lay2 0xB080000C d.toNat 20 a.toNat 17)
  | .qpick p a c v g => some (lay5 0xB0800010 p.toNat 20 a.toNat 17 c.toNat 14 v.toNat 7 g.toNat 0)
  | .qmake d n v => some (lay3 0xB1000000 d.toNat 20 n.toNat 17 v.toNat 7)
  | .qmom a k v g => some (lay4 0xB1800000 a.toNat 17 k.toNat 14 v.toNat 7 g.toNat 0)
  | .qqnt a v g => some (lay3 0xB1800004 a.toNat 17 v.toNat 7 g.toNat 0)
  | .qcdf a v g => some (lay3 0xB1800008 a.toNat 17 v.toNat 7 g.toNat 0)
  | .asyncTrapEntry _ => none
  | .commit _ => none
  | .loadDataArrival _ _ => none
  | .soloRunStart _ => none
  | .soloRunTimeout _ => none
  | .barrierPhaseComplete _ _ _ _ => none
  | .fence _ _ => none
  | .ownerReadRequest _ _ _ _ => none
  | .remoteLoadAnswer _ _ => none
  | .leaseExpiry _ => none
  | .matrixAFetchDone _ _ => none
  | .mwldReadComplete _ _ => none
  | .matrixCommandStart _ _ => none
  | .accPortServe _ => none
  | .mzeroDone _ => none
  | .mdrainDone _ => none
  | .mwaitDone _ _ => none
  | .onionEnter _ => none
  | .onionGroupDue _ _ => none
  | .arrayLoad _ => none
  | .arrayLoadDone _ => none
  | .passIssue _ => none
  | .passEnd _ => none
  | .cpyComplete _ _ => none
  | .pullComplete _ _ => none
  | .pullcAnswer _ _ => none
  | .pulldComplete _ _ => none
  | .pulldVerifyComplete _ _ => none
  | .ownerPullcServe _ _ _ => none
  | .watchPlacementArrival _ _ => none
  | .watchAnswerArrival _ _ _ => none
  | .watchtExpiry _ _ => none
  | .watchRefresh _ _ => none
  | .watchUnackedTimeout _ _ => none
  | .tileLifetimeExpiry _ _ _ => none
  | .crtEntryExpiry _ => none
  | .poolEventDelivery _ => none
  | .sendArrival _ _ _ => none
  | .foreignRingWrite _ _ => none
  | .sendOrderTimeout _ _ _ => none
  | .sendAnswerArrival _ _ => none
  | .submissionArrival _ _ => none
  | .cancelArrival _ _ => none
  | .timerTick _ => none
  | .deadlineDrop _ => none
  | .dispatch _ => none
  | .sliceStart _ => none
  | .abortRequestDelivery _ => none
  | .sliceAbort _ => none
  | .budgetExhausted _ => none
  | .preemptRequest _ => none
  | .preemptTimeout _ => none
  | .sliceLeave _ => none
  | .linkTraining _ _ => none
  | .linkRekey _ => none
  | .flitTagFail _ _ => none
  | .portLaneLoss _ => none
  | .commandPartArrival _ _ _ _ => none
  | .commandReassemblyTimeout _ _ => none
  | .peerRequestArrival _ _ => none
  | .requestRetry _ => none
  | .requestTimeout _ => none
  | .peerEndpointDown _ => none
  | .peerSilenceTimeout _ => none
  | .keyEntryFree _ => none
  | .attestationRequest _ _ => none
  | .attestationReportArrival _ _ => none
  | .attestationTimeout _ => none
  | .violationRecord _ => none
  | .translationWalkDone _ => none
  | .invalidateComplete _ _ => none
  | .sqDoorbell _ => none
  | .hostSubmissionTake _ => none
  | .cqheadWrite _ => none
  | .regionKick _ _ => none
  | .hovrKickTimeout _ _ => none
  | .hovrGiveDrainDone _ _ => none
  | .hostPageResponse _ _ _ => none
  | .hostPageTimeout _ _ => none
  | .atsInvalidation _ _ _ => none
  | .barRegisterWrite _ _ => none
  | .mbQueueDescriptor => none
  | .mbPeerEntry _ => none
  | .mbPageTableRoot => none
  | .mbViolationLogPlace => none
  | .mbHostSubmissionDomain => none
  | .mbResetHaltedSlot => none
  | .mbFenceCluster => none
  | .mbClearPeerFailure _ => none
  | .mbAttestationReport => none
  | .mbUnknownOp => none
  | .mbRequestDone => none
  | .modeClkRequest _ => none
  | .modeXstkRequest _ => none
  | .modeLeaseRequest _ => none
  | .modeRlimRequest _ => none
  | .dieClockSwitch _ _ => none
  | .moduleReset => none
  | .bringupState _ => none
  | .powerSample _ _ => none
  | .droopTrip _ _ => none
  | .thermalHold _ _ => none
  | .thermalRelease _ _ => none
  | .thermalTrip _ _ => none
  | .marginReplan _ => none
  | .podTimeDiscipline _ _ => none
  | .softErrorCorrected _ _ => none
  | .registerUncorrectable _ _ => none
  | .peerEndpointUp _ => none
  | .watchAcknowledgementArrival _ _ => none
  | .hostWriteThroughDone _ => none
  | .engineRangeRelease _ _ _ => none
  | .submissionAnswerArrival _ _ => none

/-- The word of an instruction with its S bit (R47); `none` for what has no word. -/
def encode (solo : Bool) (i : Instr) : Option Word :=
  i.code.map fun n => BitVec.ofNat 32 (n + if solo then 2 ^ 30 else 0)

/-- A source specifier of R56 outside the operands: 73-95. -/
def srcCause (x : BitVec 7) : Option (BitVec 10) := if 73 ≤ x.toNat ∧ x.toNat ≤ 95 then some 0x008 else none

/-- A destination specifier of R56: 73-95 name nothing, 96-127 name scalars. -/
def dstCause (x : BitVec 7) : Option (BitVec 10) :=
  if 96 ≤ x.toNat then some 0x009 else srcCause x

/-- A field that must name a predicate p0-p7 (R172, R191). -/
def predCause (x : Nat) : Option (BitVec 10) := if 8 ≤ x then some 0x00A else none

/-- A register field that must lie in a range (R68, cause 0x00A). -/
def rangeCause (lo hi x : Nat) : Option (BitVec 10) := if x < lo ∨ hi < x then some 0x00A else none

/-- A field that holds an unassigned value of a selecting field (cause 0x006). -/
def selCause (bad : Bool) : Option (BitVec 10) := if bad then some 0x006 else none

/-- The checks of an instruction's own fields, the first failing check naming the cause: unassigned selecting values
(R64, R66), reserved fields, then the operand fields in the order d, a, b (R56, R68; the order among the operand fields
of one word is DESIGN CHOICE, log entry 10). The decoder itself never yields an instruction with one of the first two. -/
def Instr.fieldCause : Instr → Option (BitVec 10)
  | .prd _ a => predCause a.toNat
  | .pwr d _ => predCause d.toNat
  | .bp c _ _ => selCause (c == 3)
  | .loop d _ => rangeCause 1 31 d.toNat
  | .vldx _ _ _ _ e => selCause (e == 3)
  | .vstx _ _ _ _ e => selCause (e == 3)
  | .qld q _ _ => rangeCause 0 7 q.toNat
  | .qst q _ _ => rangeCause 0 7 q.toNat
  | .gang n => selCause (n == 0)
  | .mwld _ _ b f => (selCause (5 ≤ f.toNat)).orElse fun _ => (if f.toNat < 3 ∧ b ≠ 0 then some 0x007 else none)
  | .cpy _ _ c => rangeCause 4 28 c.toNat
  | .pull _ _ _ c => rangeCause 4 28 c.toNat
  | .pullc _ _ _ c => rangeCause 4 28 c.toNat
  | .pulld _ _ _ c => rangeCause 4 28 c.toNat
  | .pulldVerify _ c => rangeCause 4 28 c.toNat
  | .watcht _ _ _ c => rangeCause 1 30 c.toNat
  | .wcancel t => rangeCause 1 31 t.toNat
  | .tpart _ c => rangeCause 4 28 c.toNat
  | .talloc t _ _ _ => rangeCause 1 31 t.toNat
  | .tallocn t _ _ _ => rangeCause 1 31 t.toNat
  | .tqry t _ q => (selCause (3 ≤ q.toNat)).orElse fun _ => rangeCause 1 31 t.toNat
  | .ropen t _ _ => rangeCause 1 31 t.toNat
  | .send _ _ _ c => rangeCause 1 28 c.toNat
  | .sendv _ _ _ c => rangeCause 1 30 c.toNat
  | .recv t _ => rangeCause 1 31 t.toNat
  | .recvn t _ => rangeCause 1 31 t.toNat
  | .sleept _ b => rangeCause 1 30 b.toNat
  | .subat _ _ _ c => rangeCause 1 30 c.toNat
  | .qstat t _ => rangeCause 1 31 t.toNat
  | .rkreg t _ _ _ => rangeCause 1 31 t.toNat
  | .hovrTake _ _ _ c => rangeCause 1 29 c.toNat
  | .hovrGive _ _ _ c => rangeCause 1 29 c.toNat
  | .migrSeal _ c => rangeCause 1 30 c.toNat
  | .migrTake _ _ _ c => rangeCause 1 30 c.toNat
  | .migrDiscard _ c => rangeCause 1 30 c.toNat
  | .migrReclaim _ c => rangeCause 1 30 c.toNat
  | .reservedHintA m _ => (if m = 3 then some 0x006 else none)
  | .reservedHintB m _ => (if m = 7 then some 0x006 else none)
  | .vaddI32 d a b _ => ((dstCause d).orElse fun _ => srcCause a).orElse fun _ => srcCause b
  | .vsubI32 d a b _ => ((dstCause d).orElse fun _ => srcCause a).orElse fun _ => srcCause b
  | .vmulI32 d a b _ => ((dstCause d).orElse fun _ => srcCause a).orElse fun _ => srcCause b
  | .vmulhI32 d a b _ => ((dstCause d).orElse fun _ => srcCause a).orElse fun _ => srcCause b
  | .vmulhN32 d a b _ => ((dstCause d).orElse fun _ => srcCause a).orElse fun _ => srcCause b
  | .vaddsI32 d a b _ => ((dstCause d).orElse fun _ => srcCause a).orElse fun _ => srcCause b
  | .vaddsN32 d a b _ => ((dstCause d).orElse fun _ => srcCause a).orElse fun _ => srcCause b
  | .vsubsI32 d a b _ => ((dstCause d).orElse fun _ => srcCause a).orElse fun _ => srcCause b
  | .vsubsN32 d a b _ => ((dstCause d).orElse fun _ => srcCause a).orElse fun _ => srcCause b
  | .vaddsI16 d a b _ => ((dstCause d).orElse fun _ => srcCause a).orElse fun _ => srcCause b
  | .vaddsI8 d a b _ => ((dstCause d).orElse fun _ => srcCause a).orElse fun _ => srcCause b
  | .vaddsN8 d a b _ => ((dstCause d).orElse fun _ => srcCause a).orElse fun _ => srcCause b
  | .vminI32 d a b _ => ((dstCause d).orElse fun _ => srcCause a).orElse fun _ => srcCause b
  | .vminN32 d a b _ => ((dstCause d).orElse fun _ => srcCause a).orElse fun _ => srcCause b
  | .vmaxI32 d a b _ => ((dstCause d).orElse fun _ => srcCause a).orElse fun _ => srcCause b
  | .vmaxN32 d a b _ => ((dstCause d).orElse fun _ => srcCause a).orElse fun _ => srcCause b
  | .vand d a b _ => ((dstCause d).orElse fun _ => srcCause a).orElse fun _ => srcCause b
  | .vor d a b _ => ((dstCause d).orElse fun _ => srcCause a).orElse fun _ => srcCause b
  | .vxor d a b _ => ((dstCause d).orElse fun _ => srcCause a).orElse fun _ => srcCause b
  | .vandn d a b _ => ((dstCause d).orElse fun _ => srcCause a).orElse fun _ => srcCause b
  | .vshl d a b _ => ((dstCause d).orElse fun _ => srcCause a).orElse fun _ => srcCause b
  | .vshrN32 d a b _ => ((dstCause d).orElse fun _ => srcCause a).orElse fun _ => srcCause b
  | .vshrI32 d a b _ => ((dstCause d).orElse fun _ => srcCause a).orElse fun _ => srcCause b
  | .vshli d a _ _ => (dstCause d).orElse fun _ => srcCause a
  | .vshriN32 d a _ _ => (dstCause d).orElse fun _ => srcCause a
  | .vshriI32 d a _ _ => (dstCause d).orElse fun _ => srcCause a
  | .vaddiI32 d a _ _ => (dstCause d).orElse fun _ => srcCause a
  | .vabsI32 d a _ => (dstCause d).orElse fun _ => srcCause a
  | .vcmpeqI32 d a b _ => ((predCause d.toNat).orElse fun _ => srcCause a).orElse fun _ => srcCause b
  | .vcmpltI32 d a b _ => ((predCause d.toNat).orElse fun _ => srcCause a).orElse fun _ => srcCause b
  | .vcmpltN32 d a b _ => ((predCause d.toNat).orElse fun _ => srcCause a).orElse fun _ => srcCause b
  | .vsel d a b _ => ((dstCause d).orElse fun _ => srcCause a).orElse fun _ => srcCause b
  | .vaddF32 d a b _ => ((dstCause d).orElse fun _ => srcCause a).orElse fun _ => srcCause b
  | .vsubF32 d a b _ => ((dstCause d).orElse fun _ => srcCause a).orElse fun _ => srcCause b
  | .vmulF32 d a b _ => ((dstCause d).orElse fun _ => srcCause a).orElse fun _ => srcCause b
  | .vfmaF32 d a b _ => ((dstCause d).orElse fun _ => srcCause a).orElse fun _ => srcCause b
  | .vfmsF32 d a b _ => ((dstCause d).orElse fun _ => srcCause a).orElse fun _ => srcCause b
  | .vminF32 d a b _ => ((dstCause d).orElse fun _ => srcCause a).orElse fun _ => srcCause b
  | .vmaxF32 d a b _ => ((dstCause d).orElse fun _ => srcCause a).orElse fun _ => srcCause b
  | .vabsF32 d a _ => (dstCause d).orElse fun _ => srcCause a
  | .vaddBf16 d a b _ => ((dstCause d).orElse fun _ => srcCause a).orElse fun _ => srcCause b
  | .vmulBf16 d a b _ => ((dstCause d).orElse fun _ => srcCause a).orElse fun _ => srcCause b
  | .vfmaBf16 d a b _ => ((dstCause d).orElse fun _ => srcCause a).orElse fun _ => srcCause b
  | .vaddF16 d a b _ => ((dstCause d).orElse fun _ => srcCause a).orElse fun _ => srcCause b
  | .vmulF16 d a b _ => ((dstCause d).orElse fun _ => srcCause a).orElse fun _ => srcCause b
  | .vfmaF16 d a b _ => ((dstCause d).orElse fun _ => srcCause a).orElse fun _ => srcCause b
  | .vcmpeqF32 d a b _ => ((predCause d.toNat).orElse fun _ => srcCause a).orElse fun _ => srcCause b
  | .vcmpltF32 d a b _ => ((predCause d.toNat).orElse fun _ => srcCause a).orElse fun _ => srcCause b
  | .vcmpleF32 d a b _ => ((predCause d.toNat).orElse fun _ => srcCause a).orElse fun _ => srcCause b
  | .vcmpunF32 d a b _ => ((predCause d.toNat).orElse fun _ => srcCause a).orElse fun _ => srcCause b
  | .vcvtF32I32 d a _ => (dstCause d).orElse fun _ => srcCause a
  | .vcvtF32N32 d a _ => (dstCause d).orElse fun _ => srcCause a
  | .vcvtF32I16 d a _ => (dstCause d).orElse fun _ => srcCause a
  | .vcvtF32N16 d a _ => (dstCause d).orElse fun _ => srcCause a
  | .vcvtF32I8 d a _ => (dstCause d).orElse fun _ => srcCause a
  | .vcvtF32N8 d a _ => (dstCause d).orElse fun _ => srcCause a
  | .vcvtI32F32 d a _ => (dstCause d).orElse fun _ => srcCause a
  | .vcvtN32F32 d a _ => (dstCause d).orElse fun _ => srcCause a
  | .vcvtF32Bf16 d a _ => (dstCause d).orElse fun _ => srcCause a
  | .vcvtF32F16 d a _ => (dstCause d).orElse fun _ => srcCause a
  | .vcvtF32E4m3 d a _ => (dstCause d).orElse fun _ => srcCause a
  | .vcvtF32E5m2 d a _ => (dstCause d).orElse fun _ => srcCause a
  | .vcvtBf16F32 d a _ _ => (dstCause d).orElse fun _ => srcCause a
  | .vcvtF16F32 d a _ _ => (dstCause d).orElse fun _ => srcCause a
  | .vcvtE4m3F32 d a _ _ => (dstCause d).orElse fun _ => srcCause a
  | .vcvtE5m2F32 d a _ _ => (dstCause d).orElse fun _ => srcCause a
  | .vcvtI32I16 d a _ => (dstCause d).orElse fun _ => srcCause a
  | .vcvtI32N16 d a _ => (dstCause d).orElse fun _ => srcCause a
  | .vcvtI32I8 d a _ => (dstCause d).orElse fun _ => srcCause a
  | .vcvtI32N8 d a _ => (dstCause d).orElse fun _ => srcCause a
  | .vcvtN32I32 d a _ => (dstCause d).orElse fun _ => srcCause a
  | .vcvtI32N32 d a _ => (dstCause d).orElse fun _ => srcCause a
  | .vqb4 d a b _ => ((dstCause d).orElse fun _ => srcCause a).orElse fun _ => srcCause b
  | .vrcpE d a _ => (dstCause d).orElse fun _ => srcCause a
  | .vrsqE d a _ => (dstCause d).orElse fun _ => srcCause a
  | .vrcps d a b _ => ((dstCause d).orElse fun _ => srcCause a).orElse fun _ => srcCause b
  | .vrsqs d a b _ => ((dstCause d).orElse fun _ => srcCause a).orElse fun _ => srcCause b
  | .vexp2E d a _ => (dstCause d).orElse fun _ => srcCause a
  | .vlog2E d a _ => (dstCause d).orElse fun _ => srcCause a
  | .vtanhE d a _ => (dstCause d).orElse fun _ => srcCause a
  | .vrsumF32 d a _ => (dstCause d).orElse fun _ => srcCause a
  | .vrmaxF32 d a _ => (dstCause d).orElse fun _ => srcCause a
  | .vrminF32 d a _ => (dstCause d).orElse fun _ => srcCause a
  | .vrsumI32 d a _ => (dstCause d).orElse fun _ => srcCause a
  | .vrmaxI32 d a _ => (dstCause d).orElse fun _ => srcCause a
  | .vperm d a b _ => ((dstCause d).orElse fun _ => srcCause a).orElse fun _ => srcCause b
  | .vbcast d a _ _ => (dstCause d).orElse fun _ => srcCause a
  | .vslideup d a _ _ => (dstCause d).orElse fun _ => srcCause a
  | .vslidedn d a _ _ => (dstCause d).orElse fun _ => srcCause a
  | .vzipl d a b _ => ((dstCause d).orElse fun _ => srcCause a).orElse fun _ => srcCause b
  | .vziph d a b _ => ((dstCause d).orElse fun _ => srcCause a).orElse fun _ => srcCause b
  | .pand d a b => ((predCause d.toNat).orElse fun _ => predCause a.toNat).orElse fun _ => predCause b.toNat
  | .por d a b => ((predCause d.toNat).orElse fun _ => predCause a.toNat).orElse fun _ => predCause b.toNat
  | .pxor d a b => ((predCause d.toNat).orElse fun _ => predCause a.toNat).orElse fun _ => predCause b.toNat
  | .pnot d a => (predCause d.toNat).orElse fun _ => predCause a.toNat
  | .vpcnt d a _ => (dstCause d).orElse fun _ => predCause a.toNat
  | .movw d a _ => (dstCause d).orElse fun _ => srcCause a
  | .movwi d _ _ => dstCause d
  | .vrng d _ => dstCause d
  | .rngsetKey a b => (rangeCause 96 127 a.toNat).orElse fun _ => rangeCause 96 127 b.toNat
  | .rngsetCtr b => rangeCause 96 127 b.toNat
  | .rngsetAdv b => rangeCause 96 127 b.toNat
  | .qscl _ _ v => srcCause v
  | .qmap _ _ f => selCause (4 ≤ f.toNat)
  | .qpick p _ _ v _ => (selCause (2 ≤ p.toNat)).orElse fun _ => dstCause v
  | .qmake _ n v => (if 63 < v.toNat + (n.toNat + 1) + (n.toNat + 2) / 2 - 1 then some 0x00A else none)
  | .qmom _ k v _ => (selCause (3 ≤ k.toNat)).orElse fun _ => dstCause v
  | .qqnt _ v _ => dstCause v
  | .qcdf _ v _ => dstCause v
  | .add _ _ _ => none
  | .sub _ _ _ => none
  | .and _ _ _ => none
  | .or _ _ _ => none
  | .xor _ _ _ => none
  | .andn _ _ _ => none
  | .shl _ _ _ => none
  | .shr _ _ _ => none
  | .sra _ _ _ => none
  | .slt _ _ _ => none
  | .sltn _ _ _ => none
  | .seq _ _ _ => none
  | .min _ _ _ => none
  | .minn _ _ _ => none
  | .max _ _ _ => none
  | .maxn _ _ _ => none
  | .addx4 _ _ _ => none
  | .addx64 _ _ _ => none
  | .mul _ _ _ => none
  | .mulh _ _ _ => none
  | .mulhn _ _ _ => none
  | .div _ _ _ => none
  | .divn _ _ _ => none
  | .rem _ _ _ => none
  | .remn _ _ _ => none
  | .movz _ _ _ => none
  | .movnz _ _ _ => none
  | .clz _ _ => none
  | .popc _ _ => none
  | .addi _ _ _ => none
  | .andi _ _ _ => none
  | .ori _ _ _ => none
  | .xori _ _ _ => none
  | .shli _ _ _ => none
  | .shri _ _ _ => none
  | .srai _ _ _ => none
  | .lui _ _ => none
  | .slti _ _ _ => none
  | .sltni _ _ _ => none
  | .csrr _ _ => none
  | .csrw _ _ _ => none
  | .csrs _ _ _ => none
  | .csrc _ _ _ => none
  | .j _ => none
  | .jal _ => none
  | .jr _ => none
  | .jalr _ _ => none
  | .beq _ _ _ => none
  | .bne _ _ _ => none
  | .blt _ _ _ => none
  | .bge _ _ _ => none
  | .bltn _ _ _ => none
  | .bgen _ _ _ => none
  | .ldI8 _ _ _ => none
  | .ldN8 _ _ _ => none
  | .ldI16 _ _ _ => none
  | .ldN16 _ _ _ => none
  | .ldI32 _ _ _ => none
  | .stI8 _ _ _ => none
  | .stI16 _ _ _ => none
  | .stI32 _ _ _ => none
  | .ldc _ _ _ => none
  | .vld _ _ _ _ => none
  | .vst _ _ _ _ => none
  | .vlds _ _ _ _ => none
  | .vsts _ _ _ _ => none
  | .vldc _ _ _ _ => none
  | .amoswap _ _ _ => none
  | .amoadd _ _ _ => none
  | .amoand _ _ _ => none
  | .amoor _ _ _ => none
  | .amoxor _ _ _ => none
  | .amomin _ _ _ => none
  | .amomax _ _ _ => none
  | .amominn _ _ _ => none
  | .amomaxn _ _ _ => none
  | .amocas _ _ _ => none
  | .movws _ _ _ => none
  | .split => none
  | .barw _ => none
  | .bara _ => none
  | .barwt _ => none
  | .trap _ _ => none
  | .eret => none
  | .rgn => none
  | .rgnA => none
  | .abort _ => none
  | .rgnq _ => none
  | .trcr _ _ _ => none
  | .trcc _ _ _ => none
  | .mmaBf16 _ _ _ _ => none
  | .mmaE4m3 _ _ _ _ => none
  | .mmaE5m2 _ _ _ _ => none
  | .mmaB4 _ _ _ _ => none
  | .mmasBf16 _ _ _ _ => none
  | .mmasE4m3 _ _ _ _ => none
  | .mmasE5m2 _ _ _ _ => none
  | .mmasB4 _ _ _ _ => none
  | .mzero _ _ _ => none
  | .mdrain _ _ _ _ => none
  | .mdrainBf16 _ _ _ _ => none
  | .mwait _ => none
  | .mqry _ _ => none
  | .watch _ _ _ _ => none
  | .seqadv _ _ => none
  | .ldg _ _ _ _ => none
  | .seqldA _ _ _ => none
  | .taban _ _ => none
  | .rclose _ => none
  | .submit _ _ _ => none
  | .cancel _ _ _ => none
  | .yield _ _ => none
  | .retire => none
  | .fpin _ _ _ => none
  | .rkrev _ => none
  | .ckreg _ _ _ => none
  | .ckdel _ _ => none
  | .plbinv _ _ _ _ => none
  | .xlinv _ _ _ _ => none
  | .nop _ => none
  | .illegalInstruction _ _ => none
  | .vnop _ => none
  | .qadd _ _ _ => none
  | .qsub _ _ _ => none
  | .qmul _ _ _ => none
  | .qmax _ _ _ => none
  | .qmin _ _ _ => none
  | .qneg _ _ => none
  | .qmov _ _ => none
  | .asyncTrapEntry _ => none
  | .commit _ => none
  | .loadDataArrival _ _ => none
  | .soloRunStart _ => none
  | .soloRunTimeout _ => none
  | .barrierPhaseComplete _ _ _ _ => none
  | .fence _ _ => none
  | .ownerReadRequest _ _ _ _ => none
  | .remoteLoadAnswer _ _ => none
  | .leaseExpiry _ => none
  | .matrixAFetchDone _ _ => none
  | .mwldReadComplete _ _ => none
  | .matrixCommandStart _ _ => none
  | .accPortServe _ => none
  | .mzeroDone _ => none
  | .mdrainDone _ => none
  | .mwaitDone _ _ => none
  | .onionEnter _ => none
  | .onionGroupDue _ _ => none
  | .arrayLoad _ => none
  | .arrayLoadDone _ => none
  | .passIssue _ => none
  | .passEnd _ => none
  | .cpyComplete _ _ => none
  | .pullComplete _ _ => none
  | .pullcAnswer _ _ => none
  | .pulldComplete _ _ => none
  | .pulldVerifyComplete _ _ => none
  | .ownerPullcServe _ _ _ => none
  | .watchPlacementArrival _ _ => none
  | .watchAnswerArrival _ _ _ => none
  | .watchtExpiry _ _ => none
  | .watchRefresh _ _ => none
  | .watchUnackedTimeout _ _ => none
  | .tileLifetimeExpiry _ _ _ => none
  | .crtEntryExpiry _ => none
  | .poolEventDelivery _ => none
  | .sendArrival _ _ _ => none
  | .foreignRingWrite _ _ => none
  | .sendOrderTimeout _ _ _ => none
  | .sendAnswerArrival _ _ => none
  | .submissionArrival _ _ => none
  | .cancelArrival _ _ => none
  | .timerTick _ => none
  | .deadlineDrop _ => none
  | .dispatch _ => none
  | .sliceStart _ => none
  | .abortRequestDelivery _ => none
  | .sliceAbort _ => none
  | .budgetExhausted _ => none
  | .preemptRequest _ => none
  | .preemptTimeout _ => none
  | .sliceLeave _ => none
  | .linkTraining _ _ => none
  | .linkRekey _ => none
  | .flitTagFail _ _ => none
  | .portLaneLoss _ => none
  | .commandPartArrival _ _ _ _ => none
  | .commandReassemblyTimeout _ _ => none
  | .peerRequestArrival _ _ => none
  | .requestRetry _ => none
  | .requestTimeout _ => none
  | .peerEndpointDown _ => none
  | .peerSilenceTimeout _ => none
  | .keyEntryFree _ => none
  | .attestationRequest _ _ => none
  | .attestationReportArrival _ _ => none
  | .attestationTimeout _ => none
  | .violationRecord _ => none
  | .translationWalkDone _ => none
  | .invalidateComplete _ _ => none
  | .sqDoorbell _ => none
  | .hostSubmissionTake _ => none
  | .cqheadWrite _ => none
  | .regionKick _ _ => none
  | .hovrKickTimeout _ _ => none
  | .hovrGiveDrainDone _ _ => none
  | .hostPageResponse _ _ _ => none
  | .hostPageTimeout _ _ => none
  | .atsInvalidation _ _ _ => none
  | .barRegisterWrite _ _ => none
  | .mbQueueDescriptor => none
  | .mbPeerEntry _ => none
  | .mbPageTableRoot => none
  | .mbViolationLogPlace => none
  | .mbHostSubmissionDomain => none
  | .mbResetHaltedSlot => none
  | .mbFenceCluster => none
  | .mbClearPeerFailure _ => none
  | .mbAttestationReport => none
  | .mbUnknownOp => none
  | .mbRequestDone => none
  | .modeClkRequest _ => none
  | .modeXstkRequest _ => none
  | .modeLeaseRequest _ => none
  | .modeRlimRequest _ => none
  | .dieClockSwitch _ _ => none
  | .moduleReset => none
  | .bringupState _ => none
  | .powerSample _ _ => none
  | .droopTrip _ _ => none
  | .thermalHold _ _ => none
  | .thermalRelease _ _ => none
  | .thermalTrip _ _ => none
  | .marginReplan _ => none
  | .podTimeDiscipline _ _ => none
  | .softErrorCorrected _ _ => none
  | .registerUncorrectable _ _ => none
  | .peerEndpointUp _ => none
  | .watchAcknowledgementArrival _ _ => none
  | .hostWriteThroughDone _ => none
  | .engineRangeRelease _ _ _ => none
  | .submissionAnswerArrival _ _ => none

/-- The cause that refuses a code word, its operand fields checked too (R68, R69). -/
def Decoded.cause : Decoded → Option (BitVec 10)
  | .ok i => i.fieldCause
  | .bad c => some c

/-- The instruction that a decoded word stands for; a refused word stands for the illegal instruction that raises the
cause (R67). -/
def Decoded.instr (w : Word) : Decoded → Instr
  | .ok i => i
  | .bad c => .illegalInstruction c w

/-- The decoder as the opcode table numbers the bits of a word: bit 0 is the least significant bit of the word. -/
noncomputable def decodeTableWord (nbits w : Nat) : Option Instr :=
  if nbits ≤ 32 then
    match decodeWord (BitVec.ofNat 32 w) with
    | .ok i => some i
    | .bad _ => none
  else none

end Sys2Proof
end

