-- ==== Sys2Proof/Machine/LoadStore.lean ====
section
/-!
DEFINITION. Local loads, stores and atomics (spec/04_control.md R114-R120; spec/03_numbers.md R93-R97).
-/

namespace Sys2Proof.Machine

/-- Reads n bytes at an address that passed its checks: the value, and the state with the read noted. -/
def State.readAt (s : State) (a : Word) (n : Nat) : Word × State :=
  match s.locate a with
  | some p => (s.readPlace n p, s.touchPlace n p)
  | none => (0, s)

/-- Buffers n bytes of a value at an address that passed its checks, with the flags of a narrowing. -/
def State.writeAt (s : State) (a : Word) (n : Nat) (v : Word) : State :=
  match s.locate a with
  | some p => (s.buffer (storeAt n v p).1).orLive (storeAt n v p).2
  | none => s

/-- A scalar load of n bytes, extended by f (R114). -/
def scalarLoad (n : Nat) (f : Word → Word) (d a : BitVec 5) (o : BitVec 14) (s : State) :
    Host.Outcome State Fault Refusal :=
  word (useS [d, a]) (fun s =>
    let x := s.addrAM a o n
    match s.checkLocal x n (n == 4) false (x.toNat % n == 0) 0x010 with
    | some c => s.raise c x
    | none => let r := s.readAt x n; r.2.deliver (loadS d (f r.1))) s

/-- A scalar store of n bytes (R114). -/
def scalarStore (n : Nat) (d a : BitVec 5) (o : BitVec 14) (s : State) : Host.Outcome State Fault Refusal :=
  word (useS [d, a]) (fun s =>
    let x := s.addrAM a o n
    match s.checkLocal x n (n == 4) true (x.toNat % n == 0) 0x010 with
    | some c => s.raise c x
    | none => s.writeAt x n (s.rS d)) s

/-- SEXT(x, 8) as a word. -/
def sextByte (x : Word) : Word := (x.setWidth 8).signExtend 32

/-- SEXT(x, 16) as a word. -/
def sextHalf (x : Word) : Word := (x.setWidth 16).signExtend 32

/-- LD.i8 (R114). -/
def execLdI8 (d a : BitVec 5) (o : BitVec 14) (s : State) : Host.Outcome State Fault Refusal :=
  scalarLoad 1 sextByte d a o s

/-- LD.n8 (R114). -/
def execLdN8 (d a : BitVec 5) (o : BitVec 14) (s : State) : Host.Outcome State Fault Refusal :=
  scalarLoad 1 id d a o s

/-- LD.i16 (R114). -/
def execLdI16 (d a : BitVec 5) (o : BitVec 14) (s : State) : Host.Outcome State Fault Refusal :=
  scalarLoad 2 sextHalf d a o s

/-- LD.n16 (R114). -/
def execLdN16 (d a : BitVec 5) (o : BitVec 14) (s : State) : Host.Outcome State Fault Refusal :=
  scalarLoad 2 id d a o s

/-- LD.i32, which the format windows permit (R114, spec/03_numbers.md R95). -/
def execLdI32 (d a : BitVec 5) (o : BitVec 14) (s : State) : Host.Outcome State Fault Refusal :=
  scalarLoad 4 id d a o s

/-- ST.i8 (R114). -/
def execStI8 (d a : BitVec 5) (o : BitVec 14) (s : State) : Host.Outcome State Fault Refusal :=
  scalarStore 1 d a o s

/-- ST.i16 (R114). -/
def execStI16 (d a : BitVec 5) (o : BitVec 14) (s : State) : Host.Outcome State Fault Refusal :=
  scalarStore 2 d a o s

/-- ST.i32, which narrows through a format window (R114, spec/03_numbers.md R94). -/
def execStI32 (d a : BitVec 5) (o : BitVec 14) (s : State) : Host.Outcome State Fault Refusal :=
  scalarStore 4 d a o s

/-! ## Vector accesses -/

/-- The included lanes of a mask, lowest first. -/
def lanesOf (m : BitVec 16) : List Nat := (List.range 16).filter fun i => lane m i

/-- The checks of a vector access: the first failing check of the lowest failing lane, with that lane's address
(R116). -/
def State.checkLanes (s : State) (m : BitVec 16) (addr : Nat → Word) (store : Bool) (aligned : Nat → Bool) :
    Option (Nat × Word) :=
  (lanesOf m).findSome? fun i => (s.checkLocal (addr i) 4 true store (aligned i) 0x011).map fun c => (c, addr i)

/-- A vector load of the included lanes (R116). -/
def vectorLoad (v : BitVec 6) (p : BitVec 3) (addr : State → Nat → Word) (aligned : State → Nat → Bool) (s : State) :
    State :=
  let m := s.rP p.toNat
  match s.checkLanes m (addr s) false (aligned s) with
  | some (c, x) => s.raise c x
  | none =>
    let data := vecOf fun i => if lane m i then (s.readAt (addr s i) 4).1 else 0
    let t := (lanesOf m).foldl (fun t i => (t.readAt (addr s i) 4).2) s
    t.deliver (loadV v m data)

/-- A vector store of the included lanes, lowest first (R116). -/
def vectorStore (v : BitVec 6) (p : BitVec 3) (addr : State → Nat → Word) (aligned : State → Nat → Bool) (s : State) :
    State :=
  let m := s.rP p.toNat
  match s.checkLanes m (addr s) true (aligned s) with
  | some (c, x) => s.raise c x
  | none => (lanesOf m).foldl (fun t i => t.writeAt (addr s i) 4 (laneOf (s.src.vreg v.toNat) i)) s

/-- Lane addresses of VLD and VST: a + 4i; the alignment test is on the base a (R116). -/
def unitAddr (a : BitVec 5) (o : BitVec 10) (s : State) (i : Nat) : Word := s.addrAV a o + BitVec.ofNat 32 (4 * i)

/-- Is the base of VLD and VST a multiple of 64? -/
def unitAligned (a : BitVec 5) (o : BitVec 10) (s : State) (_ : Nat) : Bool := (s.addrAV a o).toNat % 64 == 0

/-- Lane addresses of the strided forms: sa + i * SEXT(sb, 32) (R116). -/
def strideAddr (a b : BitVec 5) (s : State) (i : Nat) : Word := s.rS a + BitVec.ofNat 32 i * s.rS b

/-- Lane addresses of the indexed forms: sa + k * lane i of vi, k = 1, 4 or 64 (R116). -/
def indexAddr (a : BitVec 5) (x : BitVec 6) (e : BitVec 2) (s : State) (i : Nat) : Word :=
  s.rS a + (if e = 0 then 1 else if e = 1 then 4 else 64) * laneOf (s.src.vreg x.toNat) i

/-- Is a lane's address a multiple of 4? -/
def laneAligned (addr : State → Nat → Word) (s : State) (i : Nat) : Bool := (addr s i).toNat % 4 == 0

/-- VLD (R116). -/
def execVld (v : BitVec 6) (a : BitVec 5) (p : BitVec 3) (o : BitVec 10) (s : State) :
    Host.Outcome State Fault Refusal :=
  word { s := [a.toNat], v := [v.toNat] } (vectorLoad v p (unitAddr a o) (unitAligned a o)) s

/-- VST (R116). -/
def execVst (v : BitVec 6) (a : BitVec 5) (p : BitVec 3) (o : BitVec 10) (s : State) :
    Host.Outcome State Fault Refusal :=
  word { s := [a.toNat], v := [v.toNat], reads := [v.toNat] } (vectorStore v p (unitAddr a o) (unitAligned a o)) s

/-- VLDS (R116). -/
def execVlds (v : BitVec 6) (a : BitVec 5) (p : BitVec 3) (b : BitVec 5) (s : State) :
    Host.Outcome State Fault Refusal :=
  word { s := [a.toNat, b.toNat], v := [v.toNat] } (vectorLoad v p (strideAddr a b) (laneAligned (strideAddr a b))) s

/-- VSTS (R116). -/
def execVsts (v : BitVec 6) (a : BitVec 5) (p : BitVec 3) (b : BitVec 5) (s : State) :
    Host.Outcome State Fault Refusal :=
  word { s := [a.toNat, b.toNat], v := [v.toNat], reads := [v.toNat] }
    (vectorStore v p (strideAddr a b) (laneAligned (strideAddr a b))) s

/-- VLDX (R116). -/
def execVldx (v : BitVec 6) (a : BitVec 5) (p : BitVec 3) (x : BitVec 6) (e : BitVec 2) (s : State) :
    Host.Outcome State Fault Refusal :=
  word { s := [a.toNat], v := [v.toNat, x.toNat], reads := [x.toNat] }
    (vectorLoad v p (indexAddr a x e) (laneAligned (indexAddr a x e))) s

/-- VSTX (R116). -/
def execVstx (v : BitVec 6) (a : BitVec 5) (p : BitVec 3) (x : BitVec 6) (e : BitVec 2) (s : State) :
    Host.Outcome State Fault Refusal :=
  word { s := [a.toNat], v := [v.toNat, x.toNat], reads := [v.toNat, x.toNat] }
    (vectorStore v p (indexAddr a x e) (laneAligned (indexAddr a x e))) s

/-- MOVWS: one lane of a main-file register into a scalar (R117). -/
def execMovws (v : BitVec 6) (d : BitVec 5) (l : BitVec 4) (s : State) : Host.Outcome State Fault Refusal :=
  word { s := [d.toNat], v := [v.toNat], reads := [v.toNat] }
    (fun s => s.wS d (laneOf (s.src.vreg v.toNat) l.toNat)) s

/-! ## Atomics -/

/-- An AMO: the word at sa is read, replaced by f old y sd, and its old value returned (R119). -/
def amo (f : Word → Word → Word → Word) (d a b : BitVec 5) (s : State) : Host.Outcome State Fault Refusal :=
  word (useS [d, a, b]) (fun s =>
    let x := s.rS a
    match s.checkLocal x 4 false true (x.toNat % 4 == 0) 0x010 with
    | some c => s.raise c x
    | none =>
      let r := s.readAt x 4
      (r.2.writeAt x 4 (f r.1 (s.rS b) (s.rS d))).deliver (loadS d r.1)) s

/-- AMOSWAP (R119). -/
def execAmoswap (d a b : BitVec 5) (s : State) : Host.Outcome State Fault Refusal :=
  amo (fun _ y _ => y) d a b s

/-- AMOADD (R119). -/
def execAmoadd (d a b : BitVec 5) (s : State) : Host.Outcome State Fault Refusal :=
  amo (fun x y _ => x + y) d a b s

/-- AMOAND (R119). -/
def execAmoand (d a b : BitVec 5) (s : State) : Host.Outcome State Fault Refusal :=
  amo (fun x y _ => x &&& y) d a b s

/-- AMOOR (R119). -/
def execAmoor (d a b : BitVec 5) (s : State) : Host.Outcome State Fault Refusal :=
  amo (fun x y _ => x ||| y) d a b s

/-- AMOXOR (R119). -/
def execAmoxor (d a b : BitVec 5) (s : State) : Host.Outcome State Fault Refusal :=
  amo (fun x y _ => x ^^^ y) d a b s

/-- AMOMIN: the signed lesser (R119). -/
def execAmomin (d a b : BitVec 5) (s : State) : Host.Outcome State Fault Refusal :=
  amo (fun x y _ => if x.toInt ≤ y.toInt then x else y) d a b s

/-- AMOMAX: the signed greater (R119). -/
def execAmomax (d a b : BitVec 5) (s : State) : Host.Outcome State Fault Refusal :=
  amo (fun x y _ => if y.toInt ≤ x.toInt then x else y) d a b s

/-- AMOMINN: the natural lesser (R119). -/
def execAmominn (d a b : BitVec 5) (s : State) : Host.Outcome State Fault Refusal :=
  amo (fun x y _ => if x.toNat ≤ y.toNat then x else y) d a b s

/-- AMOMAXN: the natural greater (R119). -/
def execAmomaxn (d a b : BitVec 5) (s : State) : Host.Outcome State Fault Refusal :=
  amo (fun x y _ => if y.toNat ≤ x.toNat then x else y) d a b s

/-- AMOCAS: y if the old word equals sd, else the old word, which is written back (R119). -/
def execAmocas (d a b : BitVec 5) (s : State) : Host.Outcome State Fault Refusal :=
  amo (fun x y e => if x = e then y else x) d a b s

end Sys2Proof.Machine
end

