-- ==== Sys2Proof/Machine/Control.lean ====
section
/-!
DEFINITION. Gangs, barriers, traps and regions (spec/04_control.md R121-R138; spec/05_commit.md R142-R166), and the words
that do nothing or trap (spec/02_encoding.md R67).
-/

namespace Sys2Proof.Machine

/-- The bundle ends its region by a commit, which the rest follows (R138, R147). -/
def State.endRegion (s : State) (a : After) : State := s.modBundle fun b => { b with ends := b.ends.or (some a) }

/-! ## Gangs -/

/-- The slots that a gang of code n with this slot would hold: the same slot index on cores c0 and up (R121). -/
def membersOf (g n : Nat) : List Nat :=
  let c0 := coreOf g - coreOf g % gangSize n
  (List.range (gangSize n)).map fun i => (clusterOf g * 8 + c0 + i) * 4 + g % 4

/-- GANG is refused: the slot is in a gang, or a member slot holds no slice or one of another domain, or waits in GANG
with another size (R121). -/
def State.gangRefused (s : State) (n : Nat) : Bool :=
  s.src.gsize != 0 || (membersOf s.cur n).any fun m =>
    let x := s.slot m
    x.slice.isNone || x.domain != s.me.domain ||
      (match x.wait with | some (.gang k _) => k != n | _ => false)

/-- GANG: refused with 0x020, else the region commits and the slot waits for the members (R121). -/
def execGang (n : BitVec 2) (s : State) : Host.Outcome State Fault Refusal :=
  word {} (fun s => if s.gangRefused n.toNat then s.raise 0x020 0 else s.endRegion (.gang n.toNat)) s

/-- SPLIT (R125). -/
def execSplit (s : State) : Host.Outcome State Fault Refusal :=
  word {} (fun s => if s.src.gsize = 0 then s.raise 0x022 0 else s.endRegion .split) s

/-! ## Barriers -/

/-- The membership register is valid for an arrival (R129). -/
def barmValid (barm : Word) (gsize : Nat) : Bool :=
  barmEN barm && barmLevel barm ≤ 5 && 1 ≤ barmCount barm &&
    barmCount barm ≤ barCountMax (barmLevel barm) (gangSize gsize) && (barmLevel barm != 1 || gsize != 0)

/-- BARA: a deferred arrival (R129, R130). -/
def execBara (b : BitVec 9) (s : State) : Host.Outcome State Fault Refusal :=
  word {} (fun s =>
    if !barmValid s.src.barm s.src.gsize then s.raise 0x023 (b.setWidth 32)
    else if s.me.arrived.contains b.toNat then s.raise 0x024 (b.setWidth 32)
    else s.effect (.arrive b.toNat (barmCount s.src.barm))) s

/-- BARM with a pending wait at barrier b (R127). -/
def barmWaiting (barm : Word) (b : BitVec 9) : Word :=
  (barm &&& 0xF001FFFF) ||| 0x08000000 ||| BitVec.ofNat 32 (b.toNat * 2 ^ 17)

/-- BARW: an arrival unless there is one, then a commit with the wait recorded in BARM (R129, R131). -/
def execBarw (b : BitVec 9) (s : State) : Host.Outcome State Fault Refusal :=
  word {} (fun s =>
    if !barmValid s.src.barm s.src.gsize then s.raise 0x023 (b.setWidth 32)
    else
      let s1 := if s.me.arrived.contains b.toNat then s else s.effect (.arrive b.toNat (barmCount s.src.barm))
      (s1.modLive fun r => { r with barm := barmWaiting r.barm b }).endRegion .barw) s

/-- BARWT: an uncommitted arrival forces a commit, which an atomic region refuses; then the slot waits (R132). -/
def execBarwt (b : BitVec 9) (s : State) : Host.Outcome State Fault Refusal :=
  word {} (fun s =>
    let uncommitted := s.me.region.effects.any fun e => match e with | .arrive k _ => k == b.toNat | _ => false
    if uncommitted then
      if s.me.region.atomic then s.raise 0x081 (BitVec.ofNat 32 (0x200 + b.toNat))
      else s.stallFor (.force (.reopen 4))
    else if s.me.arrivals.contains b.toNat then s.stallFor (.wait true)
    else s) s

/-! ## Traps -/

/-- TRAP: while TA is 1 a synchronous cause; else the region commits and the cause follows (R136). -/
def execTrap (a : BitVec 5) (n : BitVec 6) (s : State) : Host.Outcome State Fault Refusal :=
  word (useS [a]) (fun s =>
    let code := 0x040 + n.toNat
    if s.src.ta then s.raise code (s.rS a) else s.endRegion (.trap code (s.rS a))) s

/-- ERET (R137). -/
def execEret (s : State) : Host.Outcome State Fault Refusal :=
  word {} (fun s => if s.src.ta then s.endRegion .eret else s.raise 0x025 0) s

/-! ## Regions -/

/-- RGN (R147). -/
def execRgn (s : State) : Host.Outcome State Fault Refusal := word {} (fun s => s.endRegion (.next false)) s

/-- RGN.A (R147). -/
def execRgnA (s : State) : Host.Outcome State Fault Refusal := word {} (fun s => s.endRegion (.next true)) s

/-- ABORT: the region is discarded and runs again (R147). -/
def execAbort (a : BitVec 5) (s : State) : Host.Outcome State Fault Refusal :=
  word (useS [a]) (fun s => s.modBundle fun b => { b with abort := some ((s.rS a).setWidth 8) }) s

/-- RGNQ: the open region's progress before the bundle (R147). -/
def execRgnq (d : BitVec 5) (s : State) : Host.Outcome State Fault Refusal :=
  word (useS [d]) (fun s => s.wS d s.me.region.sizeWord) s

/-- TRCR: word sb of trace entry sa[9:0] (R166). -/
def execTrcr (d a b : BitVec 5) (s : State) : Host.Outcome State Fault Refusal :=
  word (useS [d, a, b]) (fun s =>
    if !s.src.rt then s.raise 0x082 0
    else
      let i := (s.rS b).toNat
      if h : i < 40 then
        s.wS d ((mget (s.cluster s.myCluster).trace ((s.rS a).toNat % 1024) (Vector.replicate 40 0))[i])
      else s.raise 0x083 (s.rS b)) s

/-- TRCC: reads the trace control; with sb not 0 a deferred change (R166). -/
def execTrcc (d a b : BitVec 5) (s : State) : Host.Outcome State Fault Refusal :=
  word (useS [d, a, b]) (fun s =>
    if !s.src.rt then s.raise 0x082 0
    else
      let s1 := s.wS d (s.cluster s.myCluster).traceCtl
      if s.rS b = 0 then s1 else s1.effect (.trace (s.rS b) (s.rS a))) s

/-! ## Words that do nothing, and words that are none -/

/-- NOP (spec/02_encoding.md R67). -/
def execNop (_ : BitVec 24) (s : State) : Host.Outcome State Fault Refusal := word {} id s

/-- The reserved hints of majors 0x3C-0x3E execute as NOP (R67). -/
def execReservedHintA (_ : BitVec 2) (_ : BitVec 24) (s : State) : Host.Outcome State Fault Refusal := word {} id s

/-- The reserved hints of opcodes 0x78-0x7E execute as NOP (R67). -/
def execReservedHintB (_ : BitVec 3) (_ : BitVec 23) (s : State) : Host.Outcome State Fault Refusal := word {} id s

/-- VNOP (R67). -/
def execVnop (_ : BitVec 23) (s : State) : Host.Outcome State Fault Refusal := word {} id s

/-- A fetch or decode cause at the slot's pc: the leader of a gang alone fetches and decodes, so it alone has the cause
(R122, R126, log entry 13). It comes before the bundle limit (spec/01_engines.md R43). -/
def State.decodeCause (s : State) (code : Nat) (v : Word) : State :=
  let gs := s.gangOf s.cur
  let g := gs.headD 0
  (s.takeCauses (gs.map fun m => (m, if m = g then some (code, v, some (s.slot g).pc) else none))).stalled gs false

/-- A word that no instruction has takes its decode cause, with the word in TVAL (R67-R69). -/
def execIllegalInstruction (cause : BitVec 10) (w : BitVec 32) (s : State) : Host.Outcome State Fault Refusal :=
  match s.bundle with
  | some _ => .next (s.raise cause.toNat w)
  | none => .next (s.decodeCause cause.toNat w)

end Sys2Proof.Machine
end

