-- ==== Sys2Proof/Machine/Fetch.lean ====
section
/-!
DEFINITION. Fetching and decoding a bundle, and what a slot's turn waits for (spec/02_encoding.md R48, R51, R68-R70;
spec/01_engines.md R43; spec/04_control.md R122, R127).
-/

namespace Sys2Proof.Machine

/-- A bundle as it was fetched: a cause of the fetch, a solo word, or a pair. -/
inductive Bundled where
  | fault (code : Nat) (v : Word)
  | one (w : Word)
  | two (a b : Word)
  deriving DecidableEq, Repr

/-- The flat address that a slot's pc fetches from: its core's TCM, or the RAW window (R51). -/
def codePlace (g : Nat) (pc : Word) : Option Nat :=
  let n := pc.toNat
  let gc := clusterOf g
  if n < 0x40000 then some (flatTcm gc (coreOf g) n)
  else if 0x10000000 ≤ n ∧ n < 0x10000000 + ramSize gc then some (flatRam gc (n - 0x10000000))
  else none

/-- The fetch of one bundle at the slot's pc, from memory as it stood at the last region boundary; a line with an
uncorrectable error raises 0x3C1 (R48, R51, spec/15_taproot.md R419). The fetch of a discarded byte reads what is stored there: the
model's choice (log entry 73). -/
def State.fetch (s : State) (g : Nat) : Bundled :=
  let x := s.slot g
  match codePlace g x.pc with
  | none => .fault 0x00B x.pc
  | some a =>
    if x.pc.toNat % 4 ≠ 0 then .fault 0x001 x.pc
    else if (s.faultyIn [(a, 4)]).isSome then .fault 0x3C1 x.pc
    else
      let w := loadWord x.region.code a
      if soloBit w then .one w
      else if x.pc.toNat % 8 ≠ 0 then .fault 0x001 x.pc
      else if classBit w then .fault 0x002 x.pc
      else if (s.faultyIn [(a + 4, 4)]).isSome then .fault 0x3C1 (x.pc + 4)
      else
        let v := loadWord x.region.code (a + 4)
        if !classBit v || soloBit v then .fault 0x003 x.pc else .two w v

/-- The majors of engines that a memory core lacks (R70). -/
def lacksMajor (w : Word) : Bool :=
  !classBit w && [0x20, 0x27, 0x32, 0x36].contains (fld w.toNat 24 6)

/-- The decode cause of a word, on a memory core or not (R68-R70). -/
noncomputable def causeAt (mem : Bool) (w : Word) : Option (BitVec 10) :=
  if mem && lacksMajor w then some 0x00E else (decodeWord w).cause

/-- The instruction that a word stands for; a word with a decode cause stands for the illegal instruction. -/
noncomputable def instrAt (mem : Bool) (w : Word) : Instr :=
  match causeAt mem w with
  | some c => .illegalInstruction c w
  | none => (decodeWord w).instr w

/-- What a slot's turn does: it waits, leaving a state, or it executes its next bundle. -/
inductive Ready where
  | wait (s : State)
  | bundle (s : State)

/-- Does a slot hold a slice that runs? -/
def Slot.runs (x : Slot) : Bool := x.slice.isSome && !x.dispatching && !x.halted

/-- Does a pending barrier wait hold a slot (R127)? -/
def Slot.barred (x : Slot) : Bool :=
  barmWV x.live.barm && !x.live.ta && x.arrivals.contains (barmWB x.live.barm)

/-- A barrier wait that has ended is cleared (R127). -/
def Slot.unbarred (x : Slot) : Slot :=
  if barmWV x.live.barm && !x.live.ta then { x with live := { x.live with barm := x.live.barm &&& 0xF7FFFFFF } } else x

/-- The failures of remote loads that wait on a slot's gang are taken as synchronous causes; one is taken on a slot and
the others of the slot are dropped with its region (spec/09_pull.md R262). -/
def State.takeFails (s : State) (g : Nat) : State :=
  let cs := (s.gangOf g).map fun m => (m, (s.slot m).fails.head?)
  (cs.foldl (fun s c => s.modSlot c.1 fun x => { x with fails := [] }) s).takeCauses
    (cs.map fun c => (c.1, c.2.map fun f => (f.1, f.2.1, some f.2.2.1)))

/-- The budget of the slice on a slot counts from its first bundle on, on every slot of the slice (spec/12_tasks.md R346). -/
def State.startBudget (s : State) (g : Nat) : State :=
  match (s.slot g).slice with
  | none => s
  | some l =>
    if l.since.isSome || (s.slot g).live.gsize != 0 then s
    else (s.slotsWith l.id).foldl (fun s m => s.modSlot m fun x =>
      { x with slice := x.slice.map fun k => k.count (s.ckOf (clusterOf m)) true }) s

/-- The first of some waits, by ck and then by slot. -/
def firstWait : List (Nat × Nat) → Option (Nat × Nat)
  | [] => none
  | w :: ws =>
    match firstWait ws with
    | none => some w
    | some v => if w.1 < v.1 ∨ (w.1 = v.1 ∧ slotIx w.2 ≤ slotIx v.2) then some w else some v

/-- The slot whose solo run became eligible first in a cluster, of one ck the lowest (spec/05_commit.md R163). -/
def State.firstSolo (s : State) (gc : Nat) : Option Nat :=
  (firstWait ((s.slotsOf gc).filterMap fun g => (s.slot g).soloWait.map fun t => (t, g))).map (·.2)

/-- The first waiting solo run of a cluster starts when no other is active, on every member of its gang (R163). -/
def State.startSolo (s : State) (gc : Nat) : State :=
  match s.firstSolo gc with
  | some g =>
    let gs := s.gangOf g
    if s.soloHolds gc gs then s
    else gs.foldl (fun s m => s.modSlot m fun x => { x with solo := some (s.ckOf gc), soloWait := none }) s
  | none => s

/-- What comes before a slot's bundle: a stopped, fenced or idle slot, a gang's follower and a slot that leaves for good do
nothing; an exhausted budget, a pending asynchronous cause or the failure of a remote load is taken, also in a wait, which it
ends; a held commit is tried again; a slot that waits lets a ck pass, and while its die's clock stands still wall-clock time
passes (spec/00_scope.md R12; spec/01_engines.md R43; spec/12_tasks.md R347, R348; spec/15_taproot.md R411). -/
def State.ready (s : State) (g : Nat) : Ready :=
  let gs := s.gangOf g
  let gc := clusterOf g
  let x := s.slot g
  if s.man.trip || !x.runs || (s.cluster gc).fenced || gs.headD g ≠ g then .wait s
  else if s.stopped gc then .wait (s.tick g 1)
  else if x.leaves then .wait (s.tick g 1)
  else if gs.any fun m => (s.dueCause m).isSome then .wait ((s.takeDue g).tick g 1)
  else if gs.any fun m => !(s.slot m).fails.isEmpty then .wait ((s.takeFails g).tick g 1)
  else
    match x.wait with
    | some (.commit _ _ _) => .wait ((s.settle gc).stalled gs false)
    | some _ => .wait (s.stalled gs false)
    | none =>
      if x.soloWait.isSome then .wait ((s.startSolo gc).tick g 1)
      else if gs.any fun m => (s.slot m).barred then .wait (s.stalled gs true)
      else .bundle (gs.foldl (fun s m => (s.startBudget m).modSlot m Slot.unbarred) s)

/-- The next slot after the current one that runs, in the order of the state's list: the turn that comes when the agenda
is empty (log entry 1). -/
def State.nextSlot (s : State) : Option Nat :=
  let gs := (s.slots.filter fun c => c.2.runs).map (·.1)
  ((gs.find? fun g => s.cur < g).or gs.head?)

/-- The slice that stands for a load of a program from outside (log entry 2). -/
def Slice.blank : Slice :=
  { id := 0, sid := 0, target := 0, entry := 0, args := Vector.replicate 8 0, deadline := 0, budget := 0,
    fp := Vector.replicate 4 (Vector.replicate 4 0), place := 0, prio := 0, domain := 0, flags := 0, attempt := 0, left := 0,
    since := some 0, last := none, pins := [], pulling := [] }

/-- The words of a bundle that holds one given word: alone when its S bit is 1, else paired with a NOP (log entry 2). -/
def bundleOf (w : Word) : List Word :=
  if soloBit w then [w] else if classBit w then [0x3F000000, w] else [w, 0xBF800000]

/-- The state with a bundle stored at the pc of the current slot, which runs, and with its turn next (log entry 2). -/
def State.loaded (s : State) (w : Word) : State :=
  let g := s.cur
  let x := s.me
  let pc := if (codePlace g x.pc).isSome && x.pc.toNat % 8 == 0 then x.pc else 0
  let ws := placed ((codePlace g pc).getD 0) ((bundleOf w).flatMap fun v => leBytes 4 v.toNat)
  { s with
    mem := storeBytes s.mem ws
    agenda := .slot g :: s.agenda
    slots := mput s.slots g
      { x with
        pc := pc
        slice := some (x.slice.getD Slice.blank)
        dispatching := false
        halted := false
        wait := none
        soloWait := none
        async := []
        live := { x.live with status := x.live.status &&& 0xF1FFFFFF, barm := x.live.barm &&& 0xF7FFFFFF }
        region := { x.region with code := storeBytes x.region.code ws } } }

end Sys2Proof.Machine
end

