-- ==== Sys2Proof/Machine/Lanes.lean ====
section
/-!
DEFINITION. Exact lane computations of the vector engine (spec/06_vector.md R173-R190): arithmetic with its replay test,
saturation, packed elements, block quantisation, estimates, reductions and the counter-based generator.
-/

namespace Sys2Proof.Machine

/-- One lane's result: the bits, the flags, and whether the exact result is non-zero and below 2^-126 (R171). -/
structure LaneResult where
  val : Word
  flags : Flags
  tiny : Bool
  deriving DecidableEq, Repr

/-- A result that raises no flag and never replays. -/
def plain (v : Word) : LaneResult := { val := v, flags := 0, tiny := false }

/-- A result with flags that never replays. -/
def flagged (r : Word × Flags) : LaneResult := { val := r.1, flags := r.2, tiny := false }

/-- Is an exact value non-zero and smaller in magnitude than 2^-126? -/
def FVal.tiny : FVal → Bool
  | .fin _ m e => m != 0 && (Nat.log2 m : Int) + e < -126
  | _ => false

/-- Do FP32 bits hold a subnormal value? -/
def subnormal (x : Word) : Bool := (f32 x).tiny

/-- VABS.f32 on one lane: bit [31] is cleared, and a NaN is quietened (R178). -/
def absF32 (x : Word) : Word :=
  match f32 x with
  | .nan _ p => quietNaN false p
  | _ => x &&& 0x7FFFFFFF

/-- The exact sum of two values; an infinity where either is no finite value. -/
def sumExact (a b : FVal) : FVal :=
  match a, b with
  | .fin s1 m1 e1, .fin s2 m2 e2 => addFin s1 m1 e1 s2 m2 e2
  | _, _ => .inf false

/-- The exact product of two values; an infinity where either is no finite value. -/
def prodExact (a b : FVal) : FVal :=
  match a, b with
  | .fin s1 m1 e1, .fin s2 m2 e2 => .fin (s1 != s2) (m1 * m2) (e1 + e2)
  | _, _ => .inf false

/-- FP32 bits and flags with the replay test on the exact result. -/
def replayable (r : Nat × Flags) (exact : FVal) : LaneResult :=
  { val := BitVec.ofNat 32 r.1, flags := r.2, tiny := exact.tiny }

/-- The operand with its sign inverted, unless it is a NaN, whose bits a result keeps (R84). -/
def negOperand (x : FVal) : FVal := if x.isNaN then x else x.neg

/-- VADD.f32 on one lane (R177). -/
def addF32 (x y : Word) : LaneResult := replayable (fmtF32.add (f32 x) (f32 y)) (sumExact (f32 x) (f32 y))

/-- VSUB.f32 on one lane (R177). -/
def subF32 (x y : Word) : LaneResult :=
  replayable (fmtF32.add (f32 x) (negOperand (f32 y))) (sumExact (f32 x) (negOperand (f32 y)))

/-- VMUL.f32 on one lane (R177). -/
def mulF32 (x y : Word) : LaneResult := replayable (fmtF32.mul (f32 x) (f32 y)) (prodExact (f32 x) (f32 y))

/-- VFMA.f32 on one lane: a * b + d, rounded once (R177). -/
def fmaF32 (x y z : Word) : LaneResult :=
  replayable (fmtF32.fma (f32 x) (f32 y) (f32 z)) (sumExact (prodExact (f32 x) (f32 y)) (f32 z))

/-- VFMS.f32 on one lane: d - a * b, rounded once (R177). -/
def fmsF32 (x y z : Word) : LaneResult :=
  let a := negOperand (f32 x)
  replayable (fmtF32.fma a (f32 y) (f32 z)) (sumExact (prodExact a (f32 y)) (f32 z))

/-- VRCPS and VRSQS on one lane: c - a * b / 2^h with one rounding; 0 times infinity is exactly +0 (R185). -/
def refineStep (c : FVal) (h : Int) (x y : Word) : LaneResult :=
  let a := f32 x
  let b := f32 y
  match firstNaN [a, b] with
  | some n => plain (rneF32 n).1
  | none =>
    match mulExact a b with
    | none => flagged (rneF32 c)
    | some (.fin s m e) => let v := sumExact c (.fin (!s) m (e - h)); replayable (fmtF32.round v) v
    | some p => flagged (rneF32 p.neg)

/-! ## Integers and packed elements -/

/-- The low bits of an integer as a lane. -/
def ofI (i : Int) : Word := BitVec.ofInt 32 i

/-- A saturated 32-bit result with SA (R173). -/
def satLane (lo hi i : Int) : LaneResult := let r := clampSA lo hi i; { val := ofI r.1, flags := r.2, tiny := false }

/-- Element k of w bits of a lane (R168). -/
def elemNat (x : Word) (w k : Nat) : Nat := x.toNat / 2 ^ (w * k) % 2 ^ w

/-- Element k of a lane read as two's complement. -/
def elemInt (x : Word) (w k : Nat) : Int :=
  let n := elemNat x w k
  if n < 2 ^ (w - 1) then n else (n : Int) - 2 ^ w

/-- A lane packed from 32/w elements, with the union of their flags. -/
def packed (w : Nat) (f : Nat → Nat × Flags) : LaneResult :=
  let ks := List.range (32 / w)
  { val := BitVec.ofNat 32 (ks.foldl (fun n k => n + (f k).1 % 2 ^ w * 2 ^ (w * k)) 0)
    flags := ks.foldl (fun x k => x ||| (f k).2) 0
    tiny := false }

/-- An integer clamped to a range, as the low w bits, with SA. -/
def satElem (w : Nat) (lo hi i : Int) : Nat × Flags :=
  let r := clampSA lo hi i
  ((r.1 % (2 ^ w : Int)).toNat, r.2)

/-- A packed floating-point operation on two elements per lane (R179). -/
def packedF (f : Fmt) (op : FVal → FVal → FVal → Nat × Flags) (x y z : Word) : LaneResult :=
  packed 16 fun k => op (f.decode (elemNat x 16 k)) (f.decode (elemNat y 16 k)) (f.decode (elemNat z 16 k))

/-! ## Block quantisation (R182) -/

/-- T, the largest magnitude of a block type. -/
def b4Top (ty : Nat) : Nat := match ty with | 0 => 7 | 1 => 6 | 2 => 16 | _ => 8

/-- a ≤ b for values that are no NaN. -/
def FVal.le (a b : FVal) : Bool := !b.lt a

/-- The block exponent and whether it overflows. -/
def b4Exp (ty : Nat) (m : FVal) : Nat × Bool :=
  let top (e : Int) : FVal := .fin false (b4Top ty) e
  if (top 30).lt m then (62, true)
  else if m.le (top (-32)) then (0, false)
  else (((List.range 63).find? fun (e : Nat) => 1 ≤ e && m.le (top ((e : Int) - 32))).getD 62, false)

/-- The distance of two finite values. -/
def FVal.dist (a b : FVal) : FVal := (sumExact a b.neg).abs

/-- The code whose table value lies nearest to y, with the tie rules; x's sign settles the last tie. -/
def b4Code (ty : Nat) (y : FVal) : Nat :=
  let codes := List.range 16
  match y with
  | .inf s =>
    (codes.find? fun c => codes.all fun k =>
      if s then (b4Table ty c).le (b4Table ty k) else (b4Table ty k).le (b4Table ty c)).getD 0
  | _ =>
    let near := codes.filter fun c => codes.all fun k => ((b4Table ty c).dist y).le ((b4Table ty k).dist y)
    let even := near.filter fun c => c % 2 == 0
    let pick :=
      match near, even with
      | [c], _ => c
      | _, [c] => c
      | _, _ => (even.find? fun c => (8 ≤ c : Bool) == y.sign).getD 0
    if (b4Table ty pick).isZero && (ty == 1 || ty == 3) && y.sign then 8 else pick

/-- A value divided by a power of two. -/
def FVal.scale (x : FVal) (k : Int) : FVal :=
  match x with
  | .fin s m e => .fin s m (e + k)
  | v => v

/-- The codes, exponent and flags of a block of 32 values. -/
def quantise (ty : Nat) (xs : List FVal) : List Nat × Nat × Flags :=
  if xs.any FVal.isNaN then (xs.map fun _ => 0, 63, 0)
  else
    let m := xs.foldl (fun a x => if a.lt x.abs then x.abs else a) (.fin false 0 0)
    let e := b4Exp ty m
    let k : Int := (e.1 : Int) - 32
    let cs := xs.map fun x => b4Code ty (x.scale (-k))
    let nx := (xs.zip cs).any fun p => !((b4Table ty p.2).scale k).eqv p.1
    (cs, e.1, (if e.2 then flagOF else 0) ||| (if nx then flagNX else 0))

/-- The vector that VQB4 writes: the block's 16 bytes in lanes 0-3, the scale byte in lane 4. -/
def quantVec (ty : Nat) (cs : List Nat) (e : Nat) : Vec :=
  vecOf fun i =>
    if i < 4 then
      BitVec.ofNat 32 ((List.range 8).foldl (fun n j => n + cs.getD (8 * i + j) 0 * 2 ^ (4 * j)) 0)
    else if i = 4 then BitVec.ofNat 32 (ty * 64 + e)
    else 0

/-! ## Estimates (R183-R188): they set no flag -/

/-- A value rounded to FP32 bits. -/
def rne (x : FVal) : Word := (rneF32 x).1

/-- a * b + c of finite values, rounded once. -/
def fmaV (a b c : FVal) : Word := rne (sumExact (prodExact a b) c)

/-- The exact value 1. -/
def one : FVal := intVal 1

/-- FP32 bits with the sign bit given. -/
def withSign (x : Word) (s : Bool) : Word := (x &&& 0x7FFFFFFF) ||| (if s then 0x80000000 else 0)

/-- VRCP.E on one lane (R183, R184). -/
def rcpE (x : Word) : Word :=
  let m := x &&& 0x7FFFFFFF
  let s := bit x 31
  match f32 x with
  | .nan t p => quietNaN t p
  | .inf _ => withSign 0 s
  | _ =>
    if m.toNat < 0x00800000 then withSign 0x7F800000 s
    else if 0x7E800000 < m.toNat then withSign 0 s
    else
      let a := (f32 x).abs
      let y0 := f32 (0x7EF311C7 - m)
      let e := f32 (fmaV a.neg y0 one)
      withSign (fmaV y0 e y0) s

/-- VRSQ.E on one lane (R183, R184). -/
def rsqE (x : Word) : Word :=
  let m := x &&& 0x7FFFFFFF
  let s := bit x 31
  match f32 x with
  | .nan t p => quietNaN t p
  | .inf _ => if s then nanF32 else 0
  | _ =>
    if m = 0 then withSign 0x7F800000 s
    else if s then nanF32
    else if m.toNat < 0x00800000 then 0x7F800000
    else if 0x7E800000 < m.toNat then 0
    else
      let a := f32 x
      let y0 := f32 (0x5F3759DF - (m >>> 1))
      let t := f32 (rne (prodExact y0 y0))
      let r := f32 (rne (sumExact (.fin false 3 (-1)) (prodExact (a.scale (-1)) t).neg))
      rne (prodExact y0 r)

/-- floor of a finite value and its fraction. -/
def floorFrac (s : Bool) (m : Nat) (e : Int) : Int × FVal :=
  let i : Int := if s then -(m : Int) else m
  if 0 ≤ e then (i * 2 ^ e.toNat, .fin false 0 0)
  else
    let n := i.fdiv (2 ^ (-e).toNat)
    (n, .fin false (i - n * 2 ^ (-e).toNat).toNat e)

/-- EXP2E of a finite value (R186). -/
def exp2F (s : Bool) (m : Nat) (e : Int) : Word :=
  let nf := floorFrac s m e
  let p2 := f32 (fmaV nf.2 (f32 0x3D9FC000) (f32 0x3E67A000))
  let p1 := f32 (fmaV nf.2 p2 (f32 0x3F322000))
  let p := f32 (fmaV nf.2 p1 one)
  rne (p.scale nf.1)

/-- VEXP2.E on one lane (R186). -/
def exp2E (x : Word) : Word :=
  match f32 x with
  | .nan t p => quietNaN t p
  | .inf s => if s then 0 else 0x7F800000
  | .fin s m e =>
    let v := FVal.fin s m e
    if (intVal 128).le v then 0x7F800000 else if v.lt (intVal (-126)) then 0 else exp2F s m e

/-- VLOG2.E on one lane (R187). -/
def log2E (x : Word) : Word :=
  match f32 x with
  | .nan t p => quietNaN t p
  | .inf s => if s then nanF32 else 0x7F800000
  | .fin s m e =>
    if m = 0 then 0xFF800000
    else if s then nanF32
    else
      let l := Nat.log2 m
      let f := FVal.fin false (m - 2 ^ l) (-(l : Int))
      let q2 := f32 (fmaV f (f32 0x3E251000) (f32 0xBF156000))
      let q1 := f32 (fmaV f q2 (f32 0x3FB61000))
      rne (sumExact (intVal (e + l)) (prodExact f q1))

/-- VTANH.E on one lane (R188). -/
def tanhE (x : Word) : Word :=
  match f32 x with
  | .nan t p => quietNaN t p
  | .inf s => withSign 0x3F800000 s
  | .fin s m e =>
    let a := FVal.fin false m e
    if (intVal 9).le a then withSign 0x3F800000 s
    else if a.lt (.fin false 1 (-12)) then x
    else
      match f32 (rne (prodExact (f32 0xC038AA3B) a)) with
      | .fin us um ue =>
        match f32 (exp2F us um ue) with
        | .fin _ tm te =>
          let k := (-te).toNat
          withSign (BitVec.ofNat 32 (fmtF32.roundQuot false (2 ^ k - tm) (2 ^ k + tm) 0).1) s
        | _ => withSign 0 s
      | _ => withSign 0x3F800000 s

/-! ## Reductions (spec/03_numbers.md R101) -/

/-- One level of the tree. -/
def pairUp (f : LaneResult → LaneResult → LaneResult) : List LaneResult → List LaneResult
  | a :: b :: xs => f a b :: pairUp f xs
  | xs => xs

/-- The tree over 16 lanes: the bits of the root, the flags of every node, whether any node was tiny. -/
def reduceTree (f : Word → Word → LaneResult) (xs : List Word) : LaneResult :=
  let node (a b : LaneResult) : LaneResult :=
    let r := f a.val b.val
    { val := r.val, flags := a.flags ||| b.flags ||| r.flags, tiny := a.tiny || b.tiny || r.tiny }
  let up := pairUp node
  ((up (up (up (up (xs.map plain))))).headD (plain 0))

/-! ## Random numbers (R194) -/

/-- Round j of the generator. -/
def rngRound (key : Word) (lr : Word × Word) (j : Nat) : Word × Word :=
  let f := (lr.2 ^^^ key ^^^ BitVec.ofNat 32 (j * 0x9E3779B9)) * 0x85EBCA6B
  let f := f ^^^ (f >>> 13)
  (lr.2, lr.1 ^^^ f)

/-- The word of lane i of the draw (KEY, CTR). -/
def rngLane (key ctr : Word) (i : Nat) : Word :=
  ([0, 1, 2, 3].foldl (rngRound key) (ctr, BitVec.ofNat 32 i)).2

end Sys2Proof.Machine
end

