-- ==== Sys2Proof/Machine/Vector.lean ====
section
/-!
DEFINITION. The instructions of the vector engine (spec/06_vector.md R168-R197).
-/

namespace Sys2Proof.Machine

/-- A B-word's vector result by lanes: the included lanes are computed, their flags set, d and lx written (R57, R59,
R169). -/
def State.putLanes (s : State) (d : BitVec 7) (g : BitVec 2) (f : Nat → LaneResult) : State :=
  (s.orLive (maskFlags (s.rP g.toNat) fun i => (f i).flags)).wV d g (vecOf fun i => (f i).val)

/-- A lane-wise operation of two operands. -/
def lanes2 (f : Word → Word → LaneResult) (d a b : BitVec 7) (g : BitVec 2) (s : State) :
    Host.Outcome State Fault Refusal :=
  word (useB d [a, b]) (fun s => s.putLanes d g fun i => f (laneOf (s.rV a) i) (laneOf (s.rV b) i)) s

/-- A lane-wise operation of one operand. -/
def lanes1 (f : Word → LaneResult) (d a : BitVec 7) (g : BitVec 2) (s : State) : Host.Outcome State Fault Refusal :=
  word (useB d [a]) (fun s => s.putLanes d g fun i => f (laneOf (s.rV a) i)) s

/-- A lane-wise operation that reads its destination as a third operand (R60, R177). -/
def lanes3 (f : Word → Word → Word → LaneResult) (d a b : BitVec 7) (g : BitVec 2) (s : State) :
    Host.Outcome State Fault Refusal :=
  word (useB d [a, b, d])
    (fun s => s.putLanes d g fun i => f (laneOf (s.rV a) i) (laneOf (s.rV b) i) (laneOf (s.rV d) i)) s

/-- A result by lane numbers, from two operands: the permutes. -/
def permute (f : Vec → Vec → Nat → Word) (d a b : BitVec 7) (g : BitVec 2) (s : State) :
    Host.Outcome State Fault Refusal :=
  word (useB d [a, b]) (fun s => s.putLanes d g fun i => plain (f (s.rV a) (s.rV b) i)) s

/-- A permute of one operand. -/
def permute1 (f : Vec → Nat → Word) (d a : BitVec 7) (g : BitVec 2) (s : State) : Host.Outcome State Fault Refusal :=
  word (useB d [a]) (fun s => s.putLanes d g fun i => plain (f (s.rV a) i)) s

/-- The microcoded replay adds 40 ck for each affected vector: each distinct source with a subnormal value in an
included lane, and the result when a lane's exact result is tiny (R171). -/
def State.replay (s : State) (m : BitVec 16) (srcs : List (BitVec 7)) (tiny : Nat → Bool) : State :=
  let hit := (srcs.dedup.filter fun x => (lanesOf m).any fun i => subnormal (laneOf (s.rV x) i)).length
  let res := if (lanesOf m).any tiny then 1 else 0
  s.modBundle fun b => { b with extra := b.extra + 40 * (hit + res) }

/-- A replayed lane-wise operation over its sources. -/
def replayLanes (d : BitVec 7) (g : BitVec 2) (srcs : List (BitVec 7)) (f : State → Nat → LaneResult) (s : State) :
    Host.Outcome State Fault Refusal :=
  word (useB d srcs)
    (fun s => (s.replay (s.rP g.toNat) srcs fun i => (f s i).tiny).putLanes d g (f s)) s

/-- A compare into a predicate: excluded lanes get 0 (R175, R180). -/
def compare (c : Word → Word → Bool) (d a b : BitVec 7) (g : BitVec 2) (s : State) :
    Host.Outcome State Fault Refusal :=
  word (useSrc [a, b]) (fun s =>
    s.wP d.toNat (maskOf fun i => lane (s.rP g.toNat) i && c (laneOf (s.rV a) i) (laneOf (s.rV b) i))) s

/-- A reduction: excluded lanes enter the tree as the identity, and every lane of d gets the result (R189). -/
def reduce (f : Word → Word → LaneResult) (idn : Word) (replays : Bool) (d a : BitVec 7) (g : BitVec 2) (s : State) :
    Host.Outcome State Fault Refusal :=
  word (useB d [a]) (fun s =>
    let m := s.rP g.toNat
    let r := reduceTree f ((List.range 16).map fun i => if lane m i then laneOf (s.rV a) i else idn)
    let s1 :=
      if replays then
        let hit := if (lanesOf m).any fun i => subnormal (laneOf (s.rV a) i) then 1 else 0
        s.modBundle fun b => { b with extra := b.extra + 40 * (hit + if r.tiny then 1 else 0) }
      else s
    (s1.orLive r.flags).wV d 0 (vecOf fun _ => r.val)) s

/-- A predicate operation (R191). -/
def predOp (f : BitVec 16 → BitVec 16 → BitVec 16) (d a b : BitVec 7) (s : State) : Host.Outcome State Fault Refusal :=
  word {} (fun s => s.wP d.toNat (f (s.rP a.toNat) (s.rP b.toNat))) s

/-- VADD.i32 (R173). -/
def execVaddI32 (d a b : BitVec 7) (g : BitVec 2) (s : State) : Host.Outcome State Fault Refusal :=
  lanes2 (fun x y => plain (x + y)) d a b g s

/-- VSUB.i32 (R173). -/
def execVsubI32 (d a b : BitVec 7) (g : BitVec 2) (s : State) : Host.Outcome State Fault Refusal :=
  lanes2 (fun x y => plain (x - y)) d a b g s

/-- VMUL.i32 (R173). -/
def execVmulI32 (d a b : BitVec 7) (g : BitVec 2) (s : State) : Host.Outcome State Fault Refusal :=
  lanes2 (fun x y => plain (x * y)) d a b g s

/-- VMULH.i32: the high half of the signed product (R173). -/
def execVmulhI32 (d a b : BitVec 7) (g : BitVec 2) (s : State) : Host.Outcome State Fault Refusal :=
  lanes2 (fun x y => plain (ofI (x.toInt * y.toInt / 2 ^ 32))) d a b g s

/-- VMULH.n32 (R173). -/
def execVmulhN32 (d a b : BitVec 7) (g : BitVec 2) (s : State) : Host.Outcome State Fault Refusal :=
  lanes2 (fun x y => plain (BitVec.ofNat 32 (x.toNat * y.toNat / 2 ^ 32))) d a b g s

/-- VADDS.i32 (R173). -/
def execVaddsI32 (d a b : BitVec 7) (g : BitVec 2) (s : State) : Host.Outcome State Fault Refusal :=
  lanes2 (fun x y => satLane (-(2 ^ 31)) (2 ^ 31 - 1) (x.toInt + y.toInt)) d a b g s

/-- VADDS.n32 (R173). -/
def execVaddsN32 (d a b : BitVec 7) (g : BitVec 2) (s : State) : Host.Outcome State Fault Refusal :=
  lanes2 (fun x y => satLane 0 (2 ^ 32 - 1) ((x.toNat : Int) + y.toNat)) d a b g s

/-- VSUBS.i32 (R173). -/
def execVsubsI32 (d a b : BitVec 7) (g : BitVec 2) (s : State) : Host.Outcome State Fault Refusal :=
  lanes2 (fun x y => satLane (-(2 ^ 31)) (2 ^ 31 - 1) (x.toInt - y.toInt)) d a b g s

/-- VSUBS.n32 (R173). -/
def execVsubsN32 (d a b : BitVec 7) (g : BitVec 2) (s : State) : Host.Outcome State Fault Refusal :=
  lanes2 (fun x y => satLane 0 (2 ^ 32 - 1) ((x.toNat : Int) - y.toNat)) d a b g s

/-- VADDS.i16 (R173). -/
def execVaddsI16 (d a b : BitVec 7) (g : BitVec 2) (s : State) : Host.Outcome State Fault Refusal :=
  lanes2 (fun x y => packed 16 fun k => satElem 16 (-(2 ^ 15)) (2 ^ 15 - 1) (elemInt x 16 k + elemInt y 16 k)) d a b g s

/-- VADDS.i8 (R173). -/
def execVaddsI8 (d a b : BitVec 7) (g : BitVec 2) (s : State) : Host.Outcome State Fault Refusal :=
  lanes2 (fun x y => packed 8 fun k => satElem 8 (-(2 ^ 7)) (2 ^ 7 - 1) (elemInt x 8 k + elemInt y 8 k)) d a b g s

/-- VADDS.n8 (R173). -/
def execVaddsN8 (d a b : BitVec 7) (g : BitVec 2) (s : State) : Host.Outcome State Fault Refusal :=
  lanes2 (fun x y => packed 8 fun k => satElem 8 0 255 ((elemNat x 8 k : Int) + elemNat y 8 k)) d a b g s

/-- VMIN.i32 (R173). -/
def execVminI32 (d a b : BitVec 7) (g : BitVec 2) (s : State) : Host.Outcome State Fault Refusal :=
  lanes2 (fun x y => plain (if x.toInt ≤ y.toInt then x else y)) d a b g s

/-- VMIN.n32 (R173). -/
def execVminN32 (d a b : BitVec 7) (g : BitVec 2) (s : State) : Host.Outcome State Fault Refusal :=
  lanes2 (fun x y => plain (if x.toNat ≤ y.toNat then x else y)) d a b g s

/-- VMAX.i32 (R173). -/
def execVmaxI32 (d a b : BitVec 7) (g : BitVec 2) (s : State) : Host.Outcome State Fault Refusal :=
  lanes2 (fun x y => plain (if y.toInt ≤ x.toInt then x else y)) d a b g s

/-- VMAX.n32 (R173). -/
def execVmaxN32 (d a b : BitVec 7) (g : BitVec 2) (s : State) : Host.Outcome State Fault Refusal :=
  lanes2 (fun x y => plain (if y.toNat ≤ x.toNat then x else y)) d a b g s

/-- VAND (R173). -/
def execVand (d a b : BitVec 7) (g : BitVec 2) (s : State) : Host.Outcome State Fault Refusal :=
  lanes2 (fun x y => plain (x &&& y)) d a b g s

/-- VOR (R173). -/
def execVor (d a b : BitVec 7) (g : BitVec 2) (s : State) : Host.Outcome State Fault Refusal :=
  lanes2 (fun x y => plain (x ||| y)) d a b g s

/-- VXOR (R173). -/
def execVxor (d a b : BitVec 7) (g : BitVec 2) (s : State) : Host.Outcome State Fault Refusal :=
  lanes2 (fun x y => plain (x ^^^ y)) d a b g s

/-- VANDN (R173). -/
def execVandn (d a b : BitVec 7) (g : BitVec 2) (s : State) : Host.Outcome State Fault Refusal :=
  lanes2 (fun x y => plain (x &&& ~~~y)) d a b g s

/-- VSHL (R173). -/
def execVshl (d a b : BitVec 7) (g : BitVec 2) (s : State) : Host.Outcome State Fault Refusal :=
  lanes2 (fun x y => plain (x <<< (y.toNat % 32))) d a b g s

/-- VSHR.n32 (R173). -/
def execVshrN32 (d a b : BitVec 7) (g : BitVec 2) (s : State) : Host.Outcome State Fault Refusal :=
  lanes2 (fun x y => plain (x >>> (y.toNat % 32))) d a b g s

/-- VSHR.i32 (R173). -/
def execVshrI32 (d a b : BitVec 7) (g : BitVec 2) (s : State) : Host.Outcome State Fault Refusal :=
  lanes2 (fun x y => plain (sra32 x (y.toNat % 32))) d a b g s

/-- VSHLI (R174). -/
def execVshli (d a : BitVec 7) (n : BitVec 5) (g : BitVec 2) (s : State) : Host.Outcome State Fault Refusal :=
  lanes1 (fun x => plain (x <<< n.toNat)) d a g s

/-- VSHRI.n32 (R174). -/
def execVshriN32 (d a : BitVec 7) (n : BitVec 5) (g : BitVec 2) (s : State) : Host.Outcome State Fault Refusal :=
  lanes1 (fun x => plain (x >>> n.toNat)) d a g s

/-- VSHRI.i32 (R174). -/
def execVshriI32 (d a : BitVec 7) (n : BitVec 5) (g : BitVec 2) (s : State) : Host.Outcome State Fault Refusal :=
  lanes1 (fun x => plain (sra32 x n.toNat)) d a g s

/-- VADDI.i32: a signed immediate (R174). -/
def execVaddiI32 (d a i : BitVec 7) (g : BitVec 2) (s : State) : Host.Outcome State Fault Refusal :=
  lanes1 (fun x => plain (x + i.signExtend 32)) d a g s

/-- VABS.i32: -2^31 saturates (R174). -/
def execVabsI32 (d a : BitVec 7) (g : BitVec 2) (s : State) : Host.Outcome State Fault Refusal :=
  lanes1 (fun x => satLane 0 (2 ^ 31 - 1) |x.toInt|) d a g s

/-- VCMPEQ.i32 (R175). -/
def execVcmpeqI32 (d a b : BitVec 7) (g : BitVec 2) (s : State) : Host.Outcome State Fault Refusal :=
  compare (fun x y => x == y) d a b g s

/-- VCMPLT.i32 (R175). -/
def execVcmpltI32 (d a b : BitVec 7) (g : BitVec 2) (s : State) : Host.Outcome State Fault Refusal :=
  compare (fun x y => x.toInt < y.toInt) d a b g s

/-- VCMPLT.n32 (R175). -/
def execVcmpltN32 (d a b : BitVec 7) (g : BitVec 2) (s : State) : Host.Outcome State Fault Refusal :=
  compare (fun x y => x.toNat < y.toNat) d a b g s

/-- VSEL: pg selects, and every lane is written (R176). -/
def execVsel (d a b : BitVec 7) (g : BitVec 2) (s : State) : Host.Outcome State Fault Refusal :=
  word (useB d [a, b]) (fun s =>
    s.putLanes d 0 fun i => plain (if lane (s.rP g.toNat) i then laneOf (s.rV a) i else laneOf (s.rV b) i)) s

/-- VADD.f32 (R177). -/
def execVaddF32 (d a b : BitVec 7) (g : BitVec 2) (s : State) : Host.Outcome State Fault Refusal :=
  replayLanes d g [a, b] (fun s i => addF32 (laneOf (s.rV a) i) (laneOf (s.rV b) i)) s

/-- VSUB.f32 (R177). -/
def execVsubF32 (d a b : BitVec 7) (g : BitVec 2) (s : State) : Host.Outcome State Fault Refusal :=
  replayLanes d g [a, b] (fun s i => subF32 (laneOf (s.rV a) i) (laneOf (s.rV b) i)) s

/-- VMUL.f32 (R177). -/
def execVmulF32 (d a b : BitVec 7) (g : BitVec 2) (s : State) : Host.Outcome State Fault Refusal :=
  replayLanes d g [a, b] (fun s i => mulF32 (laneOf (s.rV a) i) (laneOf (s.rV b) i)) s

/-- VFMA.f32: a * b + d (R177). -/
def execVfmaF32 (d a b : BitVec 7) (g : BitVec 2) (s : State) : Host.Outcome State Fault Refusal :=
  replayLanes d g [a, b, d] (fun s i => fmaF32 (laneOf (s.rV a) i) (laneOf (s.rV b) i) (laneOf (s.rV d) i)) s

/-- VFMS.f32: d - a * b (R177). -/
def execVfmsF32 (d a b : BitVec 7) (g : BitVec 2) (s : State) : Host.Outcome State Fault Refusal :=
  replayLanes d g [a, b, d] (fun s i => fmsF32 (laneOf (s.rV a) i) (laneOf (s.rV b) i) (laneOf (s.rV d) i)) s

/-- VMIN.f32 (R178). -/
def execVminF32 (d a b : BitVec 7) (g : BitVec 2) (s : State) : Host.Outcome State Fault Refusal :=
  lanes2 (fun x y => plain (minF32 x y)) d a b g s

/-- VMAX.f32 (R178). -/
def execVmaxF32 (d a b : BitVec 7) (g : BitVec 2) (s : State) : Host.Outcome State Fault Refusal :=
  lanes2 (fun x y => plain (maxF32 x y)) d a b g s

/-- VABS.f32 (R178). -/
def execVabsF32 (d a : BitVec 7) (g : BitVec 2) (s : State) : Host.Outcome State Fault Refusal :=
  lanes1 (fun x => plain (absF32 x)) d a g s

/-- VADD.bf16 (R179). -/
def execVaddBf16 (d a b : BitVec 7) (g : BitVec 2) (s : State) : Host.Outcome State Fault Refusal :=
  lanes2 (fun x y => packedF fmtBF16 (fun p q _ => fmtBF16.add p q) x y 0) d a b g s

/-- VMUL.bf16 (R179). -/
def execVmulBf16 (d a b : BitVec 7) (g : BitVec 2) (s : State) : Host.Outcome State Fault Refusal :=
  lanes2 (fun x y => packedF fmtBF16 (fun p q _ => fmtBF16.mul p q) x y 0) d a b g s

/-- VFMA.bf16 (R179). -/
def execVfmaBf16 (d a b : BitVec 7) (g : BitVec 2) (s : State) : Host.Outcome State Fault Refusal :=
  lanes3 (fun x y z => packedF fmtBF16 (fun p q r => fmtBF16.fma p q r) x y z) d a b g s

/-- VADD.f16 (R179). -/
def execVaddF16 (d a b : BitVec 7) (g : BitVec 2) (s : State) : Host.Outcome State Fault Refusal :=
  lanes2 (fun x y => packedF fmtF16 (fun p q _ => fmtF16.add p q) x y 0) d a b g s

/-- VMUL.f16 (R179). -/
def execVmulF16 (d a b : BitVec 7) (g : BitVec 2) (s : State) : Host.Outcome State Fault Refusal :=
  lanes2 (fun x y => packedF fmtF16 (fun p q _ => fmtF16.mul p q) x y 0) d a b g s

/-- VFMA.f16 (R179). -/
def execVfmaF16 (d a b : BitVec 7) (g : BitVec 2) (s : State) : Host.Outcome State Fault Refusal :=
  lanes3 (fun x y z => packedF fmtF16 (fun p q r => fmtF16.fma p q r) x y z) d a b g s

/-- VCMPEQ.f32 (R180). -/
def execVcmpeqF32 (d a b : BitVec 7) (g : BitVec 2) (s : State) : Host.Outcome State Fault Refusal :=
  compare (fun x y => (f32 x).eqv (f32 y)) d a b g s

/-- VCMPLT.f32 (R180). -/
def execVcmpltF32 (d a b : BitVec 7) (g : BitVec 2) (s : State) : Host.Outcome State Fault Refusal :=
  compare (fun x y => (f32 x).lt (f32 y)) d a b g s

/-- VCMPLE.f32 (R180). -/
def execVcmpleF32 (d a b : BitVec 7) (g : BitVec 2) (s : State) : Host.Outcome State Fault Refusal :=
  compare (fun x y => (f32 x).lt (f32 y) || (f32 x).eqv (f32 y)) d a b g s

/-- VCMPUN.f32 (R180). -/
def execVcmpunF32 (d a b : BitVec 7) (g : BitVec 2) (s : State) : Host.Outcome State Fault Refusal :=
  compare (fun x y => (f32 x).isNaN || (f32 y).isNaN) d a b g s

/-- VCVT f32i32 (R181, spec/03_numbers.md R87). -/
def execVcvtF32I32 (d a : BitVec 7) (g : BitVec 2) (s : State) : Host.Outcome State Fault Refusal :=
  lanes1 (fun x => flagged (let r := f32ToInt (-(2 ^ 31)) (2 ^ 31 - 1) (f32 x); (ofI r.1, r.2))) d a g s

/-- VCVT f32n32 (R181, spec/03_numbers.md R87). -/
def execVcvtF32N32 (d a : BitVec 7) (g : BitVec 2) (s : State) : Host.Outcome State Fault Refusal :=
  lanes1 (fun x => flagged (let r := f32ToInt (0) (2 ^ 32 - 1) (f32 x); (ofI r.1, r.2))) d a g s

/-- VCVT f32i16 (R181, spec/03_numbers.md R87). -/
def execVcvtF32I16 (d a : BitVec 7) (g : BitVec 2) (s : State) : Host.Outcome State Fault Refusal :=
  lanes1 (fun x => flagged (let r := f32ToInt (-(2 ^ 15)) (2 ^ 15 - 1) (f32 x); (ofI r.1, r.2))) d a g s

/-- VCVT f32n16 (R181, spec/03_numbers.md R87). -/
def execVcvtF32N16 (d a : BitVec 7) (g : BitVec 2) (s : State) : Host.Outcome State Fault Refusal :=
  lanes1 (fun x => flagged (let r := f32ToInt (0) (2 ^ 16 - 1) (f32 x); (ofI r.1, r.2))) d a g s

/-- VCVT f32i8 (R181, spec/03_numbers.md R87). -/
def execVcvtF32I8 (d a : BitVec 7) (g : BitVec 2) (s : State) : Host.Outcome State Fault Refusal :=
  lanes1 (fun x => flagged (let r := f32ToInt (-(2 ^ 7)) (2 ^ 7 - 1) (f32 x); (ofI r.1, r.2))) d a g s

/-- VCVT f32n8 (R181, spec/03_numbers.md R87). -/
def execVcvtF32N8 (d a : BitVec 7) (g : BitVec 2) (s : State) : Host.Outcome State Fault Refusal :=
  lanes1 (fun x => flagged (let r := f32ToInt (0) (2 ^ 8 - 1) (f32 x); (ofI r.1, r.2))) d a g s

/-- VCVT i32_f32 (R181). -/
def execVcvtI32F32 (d a : BitVec 7) (g : BitVec 2) (s : State) : Host.Outcome State Fault Refusal :=
  lanes1 (fun x => flagged (rneF32 (intVal x.toInt))) d a g s

/-- VCVT n32_f32 (R181). -/
def execVcvtN32F32 (d a : BitVec 7) (g : BitVec 2) (s : State) : Host.Outcome State Fault Refusal :=
  lanes1 (fun x => flagged (rneF32 (intVal x.toNat))) d a g s

/-- VCVT f32_bf16 (R181). -/
def execVcvtF32Bf16 (d a : BitVec 7) (g : BitVec 2) (s : State) : Host.Outcome State Fault Refusal :=
  lanes1 (fun x => flagged (let r := fmtBF16.narrow x; (BitVec.ofNat 32 r.1, r.2))) d a g s

/-- VCVT f32_f16 (R181). -/
def execVcvtF32F16 (d a : BitVec 7) (g : BitVec 2) (s : State) : Host.Outcome State Fault Refusal :=
  lanes1 (fun x => flagged (let r := fmtF16.narrow x; (BitVec.ofNat 32 r.1, r.2))) d a g s

/-- VCVT f32_e4m3 (R181). -/
def execVcvtF32E4m3 (d a : BitVec 7) (g : BitVec 2) (s : State) : Host.Outcome State Fault Refusal :=
  lanes1 (fun x => flagged (let r := fmtE4M3.narrow x; (BitVec.ofNat 32 r.1, r.2))) d a g s

/-- VCVT f32_e5m2 (R181). -/
def execVcvtF32E5m2 (d a : BitVec 7) (g : BitVec 2) (s : State) : Host.Outcome State Fault Refusal :=
  lanes1 (fun x => flagged (let r := fmtE5M2.narrow x; (BitVec.ofNat 32 r.1, r.2))) d a g s

/-- VCVT bf16 element k to f32, exactly (R181). -/
def execVcvtBf16F32 (d a : BitVec 7) (k : BitVec 1) (g : BitVec 2) (s : State) : Host.Outcome State Fault Refusal :=
  lanes1 (fun x => plain (fmtBF16.widen (elemNat x 16 k.toNat))) d a g s

/-- VCVT f16 element k to f32, exactly (R181). -/
def execVcvtF16F32 (d a : BitVec 7) (k : BitVec 1) (g : BitVec 2) (s : State) : Host.Outcome State Fault Refusal :=
  lanes1 (fun x => plain (fmtF16.widen (elemNat x 16 k.toNat))) d a g s

/-- VCVT e4m3 element k to f32, exactly (R181). -/
def execVcvtE4m3F32 (d a : BitVec 7) (k g : BitVec 2) (s : State) : Host.Outcome State Fault Refusal :=
  lanes1 (fun x => plain (fmtE4M3.widen (elemNat x 8 k.toNat))) d a g s

/-- VCVT e5m2 element k to f32, exactly (R181). -/
def execVcvtE5m2F32 (d a : BitVec 7) (k g : BitVec 2) (s : State) : Host.Outcome State Fault Refusal :=
  lanes1 (fun x => plain (fmtE5M2.widen (elemNat x 8 k.toNat))) d a g s

/-- VCVT i32i16 (R181). -/
def execVcvtI32I16 (d a : BitVec 7) (g : BitVec 2) (s : State) : Host.Outcome State Fault Refusal :=
  lanes1 (fun x => satLane (-(2 ^ 15)) (2 ^ 15 - 1) x.toInt) d a g s

/-- VCVT i32n16 (R181). -/
def execVcvtI32N16 (d a : BitVec 7) (g : BitVec 2) (s : State) : Host.Outcome State Fault Refusal :=
  lanes1 (fun x => satLane (0) (2 ^ 16 - 1) x.toInt) d a g s

/-- VCVT i32i8 (R181). -/
def execVcvtI32I8 (d a : BitVec 7) (g : BitVec 2) (s : State) : Host.Outcome State Fault Refusal :=
  lanes1 (fun x => satLane (-(2 ^ 7)) (2 ^ 7 - 1) x.toInt) d a g s

/-- VCVT i32n8 (R181). -/
def execVcvtI32N8 (d a : BitVec 7) (g : BitVec 2) (s : State) : Host.Outcome State Fault Refusal :=
  lanes1 (fun x => satLane (0) (2 ^ 8 - 1) x.toInt) d a g s

/-- VCVT n32i32 (R181). -/
def execVcvtN32I32 (d a : BitVec 7) (g : BitVec 2) (s : State) : Host.Outcome State Fault Refusal :=
  lanes1 (fun x => satLane (-(2 ^ 31)) (2 ^ 31 - 1) x.toNat) d a g s

/-- VCVT i32n32 (R181). -/
def execVcvtI32N32 (d a : BitVec 7) (g : BitVec 2) (s : State) : Host.Outcome State Fault Refusal :=
  lanes1 (fun x => satLane (0) (2 ^ 32 - 1) x.toInt) d a g s

/-- VQB4: 32 values into one 4-bit block; every lane is written (R182). -/
def execVqb4 (d a b : BitVec 7) (t : BitVec 2) (s : State) : Host.Outcome State Fault Refusal :=
  word (useB d [a, b]) (fun s =>
    let xs := (List.range 16).map fun i => f32 (laneOf (s.rV a) i)
    let ys := (List.range 16).map fun i => f32 (laneOf (s.rV b) i)
    let q := quantise t.toNat (xs ++ ys)
    (s.orLive q.2.2).wV d 0 (quantVec t.toNat q.1 q.2.1)) s

/-- VRCP.E (R183, R184). -/
def execVrcpE (d a : BitVec 7) (g : BitVec 2) (s : State) : Host.Outcome State Fault Refusal :=
  lanes1 (fun x => plain (rcpE x)) d a g s

/-- VRSQ.E (R183, R184). -/
def execVrsqE (d a : BitVec 7) (g : BitVec 2) (s : State) : Host.Outcome State Fault Refusal :=
  lanes1 (fun x => plain (rsqE x)) d a g s

/-- VRCPS: 2 - a * b (R185). -/
def execVrcps (d a b : BitVec 7) (g : BitVec 2) (s : State) : Host.Outcome State Fault Refusal :=
  replayLanes d g [a, b] (fun s i => refineStep (intVal 2) 0 (laneOf (s.rV a) i) (laneOf (s.rV b) i)) s

/-- VRSQS: 1.5 - 0.5 * a * b (R185). -/
def execVrsqs (d a b : BitVec 7) (g : BitVec 2) (s : State) : Host.Outcome State Fault Refusal :=
  replayLanes d g [a, b] (fun s i => refineStep (.fin false 3 (-1)) 1 (laneOf (s.rV a) i) (laneOf (s.rV b) i)) s

/-- VEXP2.E (R186). -/
def execVexp2E (d a : BitVec 7) (g : BitVec 2) (s : State) : Host.Outcome State Fault Refusal :=
  lanes1 (fun x => plain (exp2E x)) d a g s

/-- VLOG2.E (R187). -/
def execVlog2E (d a : BitVec 7) (g : BitVec 2) (s : State) : Host.Outcome State Fault Refusal :=
  lanes1 (fun x => plain (log2E x)) d a g s

/-- VTANH.E (R188). -/
def execVtanhE (d a : BitVec 7) (g : BitVec 2) (s : State) : Host.Outcome State Fault Refusal :=
  lanes1 (fun x => plain (tanhE x)) d a g s

/-- VRSUM.f32 (R189). -/
def execVrsumF32 (d a : BitVec 7) (g : BitVec 2) (s : State) : Host.Outcome State Fault Refusal :=
  reduce addF32 0x80000000 true d a g s

/-- VRMAX.f32 (R189). -/
def execVrmaxF32 (d a : BitVec 7) (g : BitVec 2) (s : State) : Host.Outcome State Fault Refusal :=
  reduce (fun x y => plain (maxF32 x y)) 0xFF800000 false d a g s

/-- VRMIN.f32 (R189). -/
def execVrminF32 (d a : BitVec 7) (g : BitVec 2) (s : State) : Host.Outcome State Fault Refusal :=
  reduce (fun x y => plain (minF32 x y)) 0x7F800000 false d a g s

/-- VRSUM.i32 (R189). -/
def execVrsumI32 (d a : BitVec 7) (g : BitVec 2) (s : State) : Host.Outcome State Fault Refusal :=
  reduce (fun x y => plain (x + y)) 0 false d a g s

/-- VRMAX.i32 (R189). -/
def execVrmaxI32 (d a : BitVec 7) (g : BitVec 2) (s : State) : Host.Outcome State Fault Refusal :=
  reduce (fun x y => plain (if y.toInt ≤ x.toInt then x else y)) 0x80000000 false d a g s

/-- VPERM (R190). -/
def execVperm (d a b : BitVec 7) (g : BitVec 2) (s : State) : Host.Outcome State Fault Refusal :=
  permute (fun x y i => if bit (laneOf y i) 31 then 0 else laneOf x ((laneOf y i).toNat % 16)) d a b g s

/-- VBCAST (R190). -/
def execVbcast (d a : BitVec 7) (k : BitVec 4) (g : BitVec 2) (s : State) : Host.Outcome State Fault Refusal :=
  permute1 (fun x _ => laneOf x k.toNat) d a g s

/-- VSLIDEUP (R190). -/
def execVslideup (d a : BitVec 7) (n : BitVec 5) (g : BitVec 2) (s : State) : Host.Outcome State Fault Refusal :=
  permute1 (fun x i => if n.toNat ≤ i then laneOf x (i - n.toNat) else 0) d a g s

/-- VSLIDEDN: lanes from above 15 are 0 (R190). -/
def execVslidedn (d a : BitVec 7) (n : BitVec 5) (g : BitVec 2) (s : State) : Host.Outcome State Fault Refusal :=
  permute1 (fun x i => laneOf x (i + n.toNat)) d a g s

/-- VZIPL (R190). -/
def execVzipl (d a b : BitVec 7) (g : BitVec 2) (s : State) : Host.Outcome State Fault Refusal :=
  permute (fun x y i => if i % 2 = 0 then laneOf x (i / 2) else laneOf y (i / 2)) d a b g s

/-- VZIPH (R190). -/
def execVziph (d a b : BitVec 7) (g : BitVec 2) (s : State) : Host.Outcome State Fault Refusal :=
  permute (fun x y i => if i % 2 = 0 then laneOf x (8 + i / 2) else laneOf y (8 + i / 2)) d a b g s

/-- PAND (R191). -/
def execPand (d a b : BitVec 7) (s : State) : Host.Outcome State Fault Refusal :=
  predOp (fun p q => p &&& q) d a b s

/-- POR (R191). -/
def execPor (d a b : BitVec 7) (s : State) : Host.Outcome State Fault Refusal :=
  predOp (fun p q => p ||| q) d a b s

/-- PXOR (R191). -/
def execPxor (d a b : BitVec 7) (s : State) : Host.Outcome State Fault Refusal :=
  predOp (fun p q => p ^^^ q) d a b s

/-- PNOT (R191). -/
def execPnot (d a : BitVec 7) (s : State) : Host.Outcome State Fault Refusal :=
  predOp (fun p _ => ~~~p) d a 0 s

/-- VPCNT: the set bits of the predicate below each lane (R191). -/
def execVpcnt (d a : BitVec 7) (g : BitVec 2) (s : State) : Host.Outcome State Fault Refusal :=
  word (useB d []) (fun s =>
    s.putLanes d g fun i => plain (BitVec.ofNat 32 ((lanesOf (s.rP a.toNat)).filter fun j => j < i).length)) s

/-- MOVW (R192). -/
def execMovw (d a : BitVec 7) (g : BitVec 2) (s : State) : Host.Outcome State Fault Refusal :=
  lanes1 plain d a g s

/-- MOVWI: every lane of d := SEXT(imm7, 7) (R192). -/
def execMovwi (d i : BitVec 7) (g : BitVec 2) (s : State) : Host.Outcome State Fault Refusal :=
  word (useB d []) (fun s => s.putLanes d g fun _ => plain (i.signExtend 32)) s

/-- VRNG: one draw, and CTR advances by 1 (R194). -/
def execVrng (d : BitVec 7) (g : BitVec 2) (s : State) : Host.Outcome State Fault Refusal :=
  word (useB d []) (fun s =>
    let ctr := s.src.rngctr
    if ctr = 0xFFFFFFFF then s.raise 0x0C0 ctr
    else (s.putLanes d g fun i => plain (rngLane s.src.rngkey ctr i)).modLive fun r => { r with rngctr := ctr + 1 }) s

/-- A scalar that a B-word names by a specifier from 96 on (R58). -/
def State.rSpec (s : State) (x : BitVec 7) : Word := s.src.sreg (x.toNat - 96)

/-- RNGSET key: KEY := sa and CTR := sb (R195). -/
def execRngsetKey (a b : BitVec 7) (s : State) : Host.Outcome State Fault Refusal :=
  word (useSrc [a, b]) (fun s => s.modLive fun r => { r with rngkey := s.rSpec a, rngctr := s.rSpec b }) s

/-- RNGSET ctr: CTR := sb (R195). -/
def execRngsetCtr (b : BitVec 7) (s : State) : Host.Outcome State Fault Refusal :=
  word (useSrc [b]) (fun s => s.modLive fun r => { r with rngctr := s.rSpec b }) s

/-- RNGSET adv: CTR := CTR + sb, within 0xFFFF_FFFE (R195). -/
def execRngsetAdv (b : BitVec 7) (s : State) : Host.Outcome State Fault Refusal :=
  word (useSrc [b]) (fun s =>
    let ctr := s.src.rngctr
    if 0xFFFFFFFE < ctr.toNat + (s.rSpec b).toNat then s.raise 0x0C0 ctr
    else s.modLive fun r => { r with rngctr := ctr + s.rSpec b }) s

end Sys2Proof.Machine
end

