-- ==== Sys2Proof/Machine/BulbOps.lean ====
section
/-!
DEFINITION. Computations on bulbs: order, pairing, condensation, moments and quantiles (spec/07_bulb.md R198-R218).
-/

namespace Sys2Proof

/-- A clove of a bulb. -/
def Bulb.clove (b : Bulb) (i c : Nat) : Clove :=
  if h : i < 16 ∧ c < 8 then b.lanes[i][c] else ⟨0, 0⟩

end Sys2Proof

namespace Sys2Proof.Machine

/-- A clove in the form of R199: a clove of weight 0 holds +0. -/
def mkClove (v : Word) (w : Nat) : Clove := if w % 2 ^ 16 = 0 then ⟨0, 0⟩ else ⟨v, BitVec.ofNat 16 w⟩

/-- A bulb from its cloves. -/
def bulbOf (tag : BitVec 16) (f : Nat → Nat → Clove) : Bulb :=
  { lanes := Vector.ofFn fun i => Vector.ofFn fun c => f i.val c.val, tag := tag }

end Sys2Proof.Machine

namespace Sys2Proof

/-- The cloves of a lane, in order. -/
def Bulb.lane (b : Bulb) (i : Nat) : List Clove := (List.range 8).map fun c => b.clove i c

/-- The cloves of non-zero weight of a lane, as value and weight, in order. -/
def Bulb.live (b : Bulb) (i : Nat) : List (Word × Nat) :=
  ((b.lane i).filter fun c => c.wt != 0).map fun c => (c.val, c.wt.toNat)

end Sys2Proof

namespace Sys2Proof.Machine

/-- The 128 places of a bulb, lane first, then clove. -/
def clovePlaces : List (Nat × Nat) := (List.range 16).flatMap fun i => (List.range 8).map fun c => (i, c)

/-- Does a value stand before another in the order of R200? -/
def before (x y : Word) : Bool := !(f32 x).isNaN && ((f32 y).isNaN || (f32 x).lt (f32 y))

/-- Insertion behind every clove that the new one does not stand before. -/
def insertClove (x : Word × Nat) : List (Word × Nat) → List (Word × Nat)
  | [] => [x]
  | y :: ys => if before x.1 y.1 then x :: y :: ys else y :: insertClove x ys

/-- The stable sort of R200. -/
def sortCloves (l : List (Word × Nat)) : List (Word × Nat) := l.foldl (fun a x => insertClove x a) []

/-- The Ward cost of two adjacent cloves as an exact fraction; `none` is infinite (R214). -/
def wardCost (a b : Word × Nat) : Option (FVal × Nat) :=
  match f32 a.1, f32 b.1 with
  | .nan _ _, .nan _ _ => some (.fin false 0 0, 1)
  | .inf s, .inf t => if s = t then some (.fin false 0 0, 1) else none
  | .fin s1 m1 e1, .fin s2 m2 e2 =>
    match addFin s1 m1 e1 (!s2) m2 e2 with
    | .fin _ m e => some (.fin false (a.2 * b.2 * m * m) (2 * e), a.2 + b.2)
    | _ => none
  | _, _ => none

/-- Is a cost smaller than another, compared exactly? -/
def costLt (x y : Option (FVal × Nat)) : Bool :=
  match x, y with
  | some (p, c), some (q, d) => (prodExact p (intVal d)).lt (prodExact q (intVal c))
  | some _, none => true
  | none, _ => false

/-- MERGE (R214). -/
def mergeVal (a b : Word × Nat) : Word :=
  match f32 a.1, f32 b.1 with
  | .nan _ _, _ => nanF32
  | _, .nan _ _ => nanF32
  | .inf s, .inf t => if s = t then a.1 else nanF32
  | .inf _, _ => a.1
  | _, .inf _ => b.1
  | .fin s1 m1 e1, .fin s2 m2 e2 =>
    match fmtF64.decode (fmtF64.round (addFin s1 (a.2 * m1) e1 s2 (b.2 * m2) e2)).1 with
    | .fin s m e => rne (fmtF64.decode (fmtF64.roundQuot s m (a.2 + b.2) (-e)).1)
    | _ => nanF32

/-- The lowest position whose adjacent pair has the smallest cost. -/
def cheapest (l : List (Word × Nat)) : Nat :=
  let costs := (l.zip l.tail).map fun p => wardCost p.1 p.2
  ((List.range costs.length).foldl (fun (best : Nat × Option (FVal × Nat)) i =>
    let c := costs.getD i none
    if costLt c best.2 then (i, c) else best) (0, costs.headD none)).1

/-- The adjacent pair at a position merged. -/
def mergeAt : Nat → List (Word × Nat) → List (Word × Nat)
  | 0, a :: b :: l => (mergeVal a b, a.2 + b.2) :: l
  | n + 1, a :: l => a :: mergeAt n l
  | _, l => l

/-- CONDENSE of a sorted list, with at most the given number of merges (R214). -/
def condense : Nat → List (Word × Nat) → List (Word × Nat)
  | 0, l => l
  | n + 1, l => if l.length ≤ 8 then l else condense n (mergeAt (cheapest l) l)

/-- The weights of the 64 pairings of a lane, with the remainder on the greatest (R213). -/
def pairWeights (x y : List Clove) : List Nat :=
  let w := x.flatMap fun a => y.map fun b => (shiftRne (a.wt.toNat * b.wt.toNat) 15).1
  let rem : Int := 32768 - (w.foldl (· + ·) 0 : Nat)
  let m := w.findIdx fun k => w.all fun j => j ≤ k
  (List.range w.length).map fun p => if p = m then ((w.getD p 0 : Int) + rem).toNat else w.getD p 0

/-- A lane of two independent operands: its cloves and flags (R213). -/
def independentLane (f : Word → Word → Word × Flags) (x y : List Clove) : List (Word × Nat) × Flags :=
  let vs := x.flatMap fun a => y.map fun b => (a.val, b.val)
  let ps := ((vs.zip (pairWeights x y)).filter fun p => p.2 != 0).map fun p => (f p.1.1 p.1.2, p.2)
  (condense 64 (sortCloves (ps.map fun p => (p.1.1, p.2))), ps.foldl (fun a p => a ||| p.1.2) 0)

/-- A lane from at most eight cloves. -/
def laneClove (l : List (Word × Nat)) (c : Nat) : Clove := match l[c]? with | some (v, w) => mkClove v w | none => ⟨0, 0⟩

/-! ## Extraction in binary64 (R216) -/

/-- RNE_F64(a + b). -/
def add64 (a b : FVal) : FVal := fmtF64.decode (fmtF64.add a b).1

/-- RNE_F64(a * b). -/
def mul64 (a b : FVal) : FVal := fmtF64.decode (fmtF64.mul a b).1

/-- w * v, exact. -/
def weighed (w : Nat) (v : FVal) : FVal :=
  match v with
  | .fin s m e => .fin s (w * m) e
  | x => x

/-- The moment k of the cloves of a lane, as bits and flags (R216). -/
def moment (k : Nat) (cs : List (Word × Nat)) : Word × Flags :=
  let vs := cs.map fun c => (f32 c.1, c.2)
  if vs.any fun c => c.1.isNaN then (nanF32, 0)
  else
    let zero := FVal.fin false 0 0
    let mu := (vs.foldl (fun s c => add64 s (weighed c.2 c.1)) zero).scale (-15)
    let t :=
      if k = 0 then mu
      else
        (vs.foldl (fun s c =>
          let d := add64 c.1 (negOperand mu)
          let t := mul64 d d
          let t := if k = 2 then mul64 t d else t
          add64 s (mul64 (intVal c.2) t)) zero).scale (-15)
    if t.isNaN then (nanF32, 0) else rneF32 t

/-- The first clove in order at which the cumulative weight reaches a level. -/
def quantileOf (q : FVal) : Nat → List (Word × Nat) → Word
  | _, [] => 0
  | cum, c :: cs => if q.le (intVal (cum + c.2 : Nat)) then c.1 else quantileOf q (cum + c.2) cs

/-- A value as it is written: a NaN with its quiet bit set (spec/03_numbers.md R84). -/
def quieted (x : Word) : Word := match f32 x with | .nan s p => quietNaN s p | _ => x

/-- The quantile at a level; a clove that is a NaN is written quiet (R217, spec/03_numbers.md R84, log entry 64). -/
def quantile (x : Word) (cs : List (Word × Nat)) : Word × Flags :=
  match f32 x with
  | .nan s p => (quietNaN s p, 0)
  | q => if one.lt q then (nanF32, flagNV) else (quieted (quantileOf (q.scale 15) 0 (sortCloves cs)), 0)

/-- P(value <= x) (R218). -/
def cdf (x : Word) (cs : List (Word × Nat)) : Word :=
  match f32 x with
  | .nan s p => quietNaN s p
  | v =>
    let w := cs.foldl (fun n c => if !(f32 c.1).isNaN && (f32 c.1).le v then n + c.2 else n) 0
    rne (.fin false w (-15))

/-! ## The image of a bulb in memory (R209) -/

end Sys2Proof.Machine

namespace Sys2Proof

/-- The 1,024 bytes of a bulb's image. -/
def Bulb.image (b : Bulb) : List Byte :=
  Machine.leBytes 2 b.tag.toNat ++ List.replicate 62 0
    ++ (Machine.clovePlaces.flatMap fun p => Machine.leBytes 4 (b.clove p.1 p.2).val.toNat)
    ++ (Machine.clovePlaces.flatMap fun p => Machine.leBytes 2 (b.clove p.1 p.2).wt.toNat)
    ++ List.replicate 192 0

end Sys2Proof

namespace Sys2Proof.Machine

/-- The bulb of an image (R210). -/
def bulbOfImage (bs : List Byte) : Bulb :=
  let num (o n : Nat) : Nat := leNat ((bs.drop o).take n)
  bulbOf (BitVec.ofNat 16 (num 0 2)) fun i c => mkClove (BitVec.ofNat 32 (num (0x40 + 32 * i + 4 * c) 4)) (num (0x240 + 16 * i + 2 * c) 2)

end Sys2Proof.Machine

namespace Sys2Proof

/-- The sum of the weights of a lane. -/
def Bulb.weight (b : Bulb) (i : Nat) : Nat := (b.lane i).foldl (fun n c => n + c.wt.toNat) 0

/-- The lowest lane whose weights do not sum to 0x8000. -/
def Bulb.badLane (b : Bulb) : Option Nat := (List.range 16).find? fun i => b.weight i != 0x8000

/-- The rules of R199: every lane's weights sum to 0x8000, and a clove of weight 0 holds +0. -/
def Bulb.wf (b : Bulb) : Bool :=
  b.badLane.isNone && Machine.clovePlaces.all fun p => (b.clove p.1 p.2).wt != 0 || (b.clove p.1 p.2).val == 0

end Sys2Proof
end

