-- ==== Sys2Proof/Machine/BulbEngine.lean ====
section
/-!
DEFINITION. The instructions of the bulb engine (spec/07_bulb.md R204-R219).
-/

namespace Sys2Proof.Machine

/-- A bulb source, as it stood before the bundle. -/
def State.rQ (s : State) (n : BitVec 3) : Bulb := s.src.bulb n.toNat

/-- A bulb destination; lx is unchanged (R205). -/
def State.wQ (s : State) (d : BitVec 3) (b : Bulb) : State :=
  (s.dropLoad fun x => match x with | .bulb n => n == d.toNat | _ => false).modLive fun r => r.setBulb d.toNat b

/-- The next fresh tag, and the counter behind it (R201). -/
def freshTag (q : Word) : BitVec 16 × Word :=
  (q.setWidth 16, if bits q 0 16 = 0xFFFF then 1 else BitVec.ofNat 32 (bits q 0 16 + 1))

/-- A bulb written with a fresh tag. -/
def State.wFresh (s : State) (d : BitVec 3) (f : Nat → Nat → Clove) : State :=
  let t := freshTag s.src.qtagc
  (s.wQ d (bulbOf t.1 f)).modLive fun r => { r with qtagc := t.2 }

/-- Equal tags: the operands are one variable, paired clove by clove (R212). -/
def equalTags (f : Word → Word → Word × Flags) (d : BitVec 3) (x y : Bulb) (s : State) : State :=
  match clovePlaces.find? fun p => (x.clove p.1 p.2).wt != (y.clove p.1 p.2).wt with
  | some (i, c) => s.raise 0x100 (BitVec.ofNat 32 (8 * i + c))
  | none =>
    let r (i c : Nat) := f (x.clove i c).val (y.clove i c).val
    let fl := clovePlaces.foldl (fun a p => if (x.clove p.1 p.2).wt = 0 then a else a ||| (r p.1 p.2).2) 0
    (s.orLive fl).wQ d (bulbOf x.tag fun i c => mkClove (r i c).1 (x.clove i c).wt.toNat)

/-- Different tags: the operands are independent; 64 pairings a lane, condensed (R213, R214). -/
def differentTags (f : Word → Word → Word × Flags) (d : BitVec 3) (x y : Bulb) (s : State) : State :=
  let rs : Vector (List (Word × Nat) × Flags) 16 := Vector.ofFn fun i => independentLane f (x.lane i) (y.lane i)
  let fl := (List.range 16).foldl (fun a i => a ||| (if h : i < 16 then rs[i].2 else 0)) 0
  (s.orLive fl).wFresh d fun i c => if h : i < 16 then laneClove rs[i].1 c else ⟨0, 0⟩

/-- A binary operation on bulbs (R211-R213). -/
def qbin (f : Word → Word → Word × Flags) (d a b : BitVec 3) (s : State) : Host.Outcome State Fault Refusal :=
  word { q := [d.toNat, a.toNat, b.toNat] } (fun s =>
    let x := s.rQ a
    let y := s.rQ b
    if x.tag = y.tag then equalTags f d x y s else differentTags f d x y s) s

/-- The bits and flags of a lane result. -/
def LaneResult.pair (r : LaneResult) : Word × Flags := (r.val, r.flags)

/-- QADD (R211). -/
def execQadd (d a b : BitVec 3) (s : State) : Host.Outcome State Fault Refusal :=
  qbin (fun x y => (addF32 x y).pair) d a b s

/-- QSUB (R211). -/
def execQsub (d a b : BitVec 3) (s : State) : Host.Outcome State Fault Refusal :=
  qbin (fun x y => (subF32 x y).pair) d a b s

/-- QMUL (R211). -/
def execQmul (d a b : BitVec 3) (s : State) : Host.Outcome State Fault Refusal :=
  qbin (fun x y => (mulF32 x y).pair) d a b s

/-- QMAX (R211). -/
def execQmax (d a b : BitVec 3) (s : State) : Host.Outcome State Fault Refusal :=
  qbin (fun x y => (maxF32 x y, 0)) d a b s

/-- QMIN (R211). -/
def execQmin (d a b : BitVec 3) (s : State) : Host.Outcome State Fault Refusal :=
  qbin (fun x y => (minF32 x y, 0)) d a b s

/-- A unary operation: each clove of non-zero weight gets a new value; tag, weights and order are kept (R215). -/
def quna (u : Uses) (f : State → Nat → Word → Word × Flags) (d a : BitVec 3) (s : State) :
    Host.Outcome State Fault Refusal :=
  word { u with q := [d.toNat, a.toNat] } (fun s =>
    let x := s.rQ a
    let r (i c : Nat) := f s i (x.clove i c).val
    let fl := clovePlaces.foldl (fun m p => if (x.clove p.1 p.2).wt = 0 then m else m ||| (r p.1 p.2).2) 0
    (s.orLive fl).wQ d (bulbOf x.tag fun i c => mkClove (r i c).1 (x.clove i c).wt.toNat)) s

/-- QSCL: scaled by lane i of the operand v (R215). -/
def execQscl (d a : BitVec 3) (v : BitVec 7) (s : State) : Host.Outcome State Fault Refusal :=
  quna (useSrc [v]) (fun s i x => (mulF32 x (laneOf (s.rV v) i)).pair) d a s

/-- A word with bit [31] inverted; a NaN is quietened. -/
def negQuiet (x : Word) : Word :=
  match f32 x with
  | .nan s p => quietNaN (!s) p
  | _ => x ^^^ 0x80000000

/-- QNEG (R215). -/
def execQneg (d a : BitVec 3) (s : State) : Host.Outcome State Fault Refusal :=
  quna {} (fun _ _ x => (negQuiet x, 0)) d a s

/-- The functions of QMAP (R215). -/
def qmapFn (f : Nat) (x : Word) : Word :=
  match f with
  | 0 => exp2E x
  | 1 => log2E x
  | 2 => tanhE x
  | _ => maxF32 x 0

/-- QMAP (R215). -/
def execQmap (d a f : BitVec 3) (s : State) : Host.Outcome State Fault Refusal :=
  quna {} (fun _ _ x => (qmapFn f.toNat x, 0)) d a s

/-- QMOV: every clove and the tag (R208). -/
def execQmov (d a : BitVec 3) (s : State) : Host.Outcome State Fault Refusal :=
  word { q := [d.toNat, a.toNat] } (fun s => s.wQ d (s.rQ a)) s

/-- QPICK: the value or the weight of clove c of each included lane (R208). -/
def execQpick (p a c : BitVec 3) (v : BitVec 7) (g : BitVec 2) (s : State) : Host.Outcome State Fault Refusal :=
  word { useB v [] with q := [a.toNat] } (fun s =>
    s.putLanes v g fun i =>
      let k := (s.rQ a).clove i c.toNat
      plain (if p = 0 then k.val else k.wt.setWidth 32)) s

/-- The weight of clove c of lane i among the registers of a QMAKE of n cloves from v(k) on (R207). -/
def qmakeWeight (r : Regs) (k n i c : Nat) : Nat :=
  if c < n then elemNat (laneOf (r.vreg (k + n + c / 2)) i) 16 (c % 2) else 0

/-- QMAKE: a bulb from n vectors of values and the vectors of packed weights behind them (R207). -/
def execQmake (d n : BitVec 3) (v : BitVec 7) (s : State) : Host.Outcome State Fault Refusal :=
  let k := v.toNat
  let m := n.toNat + 1
  let rs := (List.range (m + (m + 1) / 2)).map fun j => k + j
  word { v := rs, q := [d.toNat], reads := rs } (fun s =>
    let w := qmakeWeight s.src k m
    match (List.range 16).find? fun i => (List.range 8).foldl (fun t c => t + w i c) 0 != 0x8000 with
    | some i => s.raise 0x101 (BitVec.ofNat 32 i)
    | none => s.wFresh d fun i c => mkClove (laneOf (s.src.vreg (k + c)) i) (w i c)) s

/-- QMOM: mean, variance or third moment of each included lane (R216). -/
def execQmom (a k : BitVec 3) (v : BitVec 7) (g : BitVec 2) (s : State) : Host.Outcome State Fault Refusal :=
  word { useB v [] with q := [a.toNat] } (fun s =>
    s.putLanes v g fun i => flagged (moment k.toNat ((s.rQ a).live i))) s

/-- QQNT: the quantile of each included lane at the level the lane of v holds (R217). -/
def execQqnt (a : BitVec 3) (v : BitVec 7) (g : BitVec 2) (s : State) : Host.Outcome State Fault Refusal :=
  word { useB v [v] with q := [a.toNat] } (fun s =>
    s.putLanes v g fun i => flagged (quantile (laneOf (s.rV v) i) ((s.rQ a).live i))) s

/-- QCDF (R218). -/
def execQcdf (a : BitVec 3) (v : BitVec 7) (g : BitVec 2) (s : State) : Host.Outcome State Fault Refusal :=
  word { useB v [v] with q := [a.toNat] } (fun s =>
    s.putLanes v g fun i => plain (cdf (laneOf (s.rV v) i) ((s.rQ a).live i))) s

/-! ## Loads and stores of images (R210) -/

/-- The checks of the 1,024 bytes of an image in ascending order: the first failing check of the lowest failing byte. -/
def State.checkImage (s : State) (a : Word) (store : Bool) : Option (Nat × Word) :=
  (List.range 1024).findSome? fun j =>
    let x := a + BitVec.ofNat 32 j
    (s.checkLocal x 1 false store (a.toNat % 64 == 0) 0x011).map fun c => (c, x)

/-- The places of the image's bytes, each by its own address modulo 2^32 (R210). -/
def State.imagePlaces (s : State) (a : Word) : List Place := (List.range 1024).filterMap fun j => s.locate (a + BitVec.ofNat 32 j)

/-- QLD (R210). Every byte of the image is read, also those that QLD ignores: the model's choice (log entry 73). -/
def execQld (q : BitVec 6) (a : BitVec 5) (o : BitVec 10) (s : State) : Host.Outcome State Fault Refusal :=
  word { s := [a.toNat], q := [q.toNat] } (fun s =>
    let x := s.addrAV a o
    match s.checkImage x false with
    | some (c, y) => s.raise c y
    | none =>
      let ps := s.imagePlaces x
      let b := bulbOfImage (ps.map fun p => (s.readPlace 1 p).setWidth 8)
      let s1 := (ps.filter Place.readOnly).foldl (fun s p => s.touchPlace 1 p) (s.noteRead (ps.flatMap (Place.bytes 1)))
      match b.badLane with
      | some i => s1.raise 0x102 (BitVec.ofNat 32 i)
      | none => s1.deliver (loadQ q.toNat b)) s

/-- QST (R210). -/
def execQst (q : BitVec 6) (a : BitVec 5) (o : BitVec 10) (s : State) : Host.Outcome State Fault Refusal :=
  word { s := [a.toNat], q := [q.toNat] } (fun s =>
    let x := s.addrAV a o
    match s.checkImage x true with
    | some (c, y) => s.raise c y
    | none => s.buffer (((s.imagePlaces x).flatMap (Place.bytes 1)).zip (s.src.bulb q.toNat).image)) s

end Sys2Proof.Machine
end

