-- ==== Sys2Proof/Machine/MatrixEngine.lean ====
section
/-!
DEFINITION. The instructions of the matrix engine and the steps of the engine and the Onion (spec/08_matrix.md R220-R252).
-/

namespace Sys2Proof.Machine

/-! ## Launch bundles (R224-R226) -/

/-- The token register named by a launch becomes pending (spec/01_engines.md R28). -/
def State.markToken (s : State) (t : BitVec 5) : State :=
  if t = 0 then s else s.modLive fun r => { r with pend := withBit r.pend t.toNat true }

/-- The descriptor of an instruction that has one is malformed (R226). -/
def MatOp.badDesc (op : MatOp) (d : Word) : Bool :=
  let shape := descM d == 0 || 64 < descM d || 64 < descRow0 d + descM d
  match op with
  | .mma sparse _ => shape || bits d 11 3 != 0 || (!sparse && descMdoff d != 0)
  | .mzero _ => shape || bits d 0 15 != 0
  | .mdrain _ release zero fill => shape || bits d 0 15 != 0 || (fill && (release || zero))
  | _ => false

/-- The lowest byte of a range that lies outside the RAW scratchpad, if any (R226). -/
def outsidePad (r : Nat × Nat) : Option Nat :=
  if r.1 < 0x10000000 ∨ 0x10200000 ≤ r.1 then some r.1 else if 0x10200000 < r.1 + r.2 then some 0x10200000 else none

/-- The first misaligned address or stride (R226). -/
def MatOp.misaligned (op : MatOp) (a c : Word) : Option Word :=
  let off (x : Word) (n : Nat) : Option Word := if x.toNat % n = 0 then none else some x
  match op with
  | .mwld _ => off a 64
  | .mma _ ty => if ty = 3 then off a 32 else (off a 64).or (off c 64)
  | .mdrain _ _ _ _ => off a 64
  | _ => none

/-- A matrix launch: the checks of R226 in their order, then the deferred effect and the pending token. -/
def matLaunch (op : MatOp) (t : BitVec 5) (a b c : State → Word) (u : List (BitVec 5)) (s : State) :
    Host.Outcome State Fault Refusal :=
  word (useS (t :: u)) (fun s =>
    if op.badDesc (b s) then s.raise 0x140 (b s)
    else
      match leastOf ((op.reads (a s) (b s) (c s) ++ op.writes (a s) (b s)).filterMap outsidePad) with
      | some x => s.raise 0x141 (BitVec.ofNat 32 x)
      | none =>
        match op.misaligned (a s) (c s) with
        | some x => s.raise 0x142 x
        | none => (s.effect (.mat op t.toNat (a s) (b s) (c s))).markToken t) s

/-- The value 0 for a field that an instruction does not use. -/
def noReg (_ : State) : Word := 0

/-- A scalar register's value before the bundle. -/
def regOf (n : BitVec 5) (s : State) : Word := s.rS n

/-- MWLD (R227): the scale plane register is read for the block formats only. -/
def execMwld (t a b : BitVec 5) (f : BitVec 3) (s : State) : Host.Outcome State Fault Refusal :=
  matLaunch (.mwld f.toNat) t (regOf a) (if f.toNat < 3 then noReg else regOf b) noReg
    (if f.toNat < 3 then [a] else [a, b]) s

/-- MMA and MMAS (R228, R229). -/
def mmaLaunch (sparse : Bool) (ty : Nat) (t a b c : BitVec 5) (s : State) : Host.Outcome State Fault Refusal :=
  matLaunch (.mma sparse ty) t (regOf a) (regOf b) (regOf c) [a, b, c] s

/-- MMA.bf16 (R229). -/
def execMmaBf16 (t a b c : BitVec 5) (s : State) : Host.Outcome State Fault Refusal := mmaLaunch false 0 t a b c s
/-- MMA.e4m3 (R229). -/
def execMmaE4m3 (t a b c : BitVec 5) (s : State) : Host.Outcome State Fault Refusal := mmaLaunch false 1 t a b c s
/-- MMA.e5m2 (R229). -/
def execMmaE5m2 (t a b c : BitVec 5) (s : State) : Host.Outcome State Fault Refusal := mmaLaunch false 2 t a b c s
/-- MMA.b4 (R229). -/
def execMmaB4 (t a b c : BitVec 5) (s : State) : Host.Outcome State Fault Refusal := mmaLaunch false 3 t a b c s
/-- MMAS.bf16 (R229). -/
def execMmasBf16 (t a b c : BitVec 5) (s : State) : Host.Outcome State Fault Refusal := mmaLaunch true 0 t a b c s
/-- MMAS.e4m3 (R229). -/
def execMmasE4m3 (t a b c : BitVec 5) (s : State) : Host.Outcome State Fault Refusal := mmaLaunch true 1 t a b c s
/-- MMAS.e5m2 (R229). -/
def execMmasE5m2 (t a b c : BitVec 5) (s : State) : Host.Outcome State Fault Refusal := mmaLaunch true 2 t a b c s
/-- MMAS.b4 (R229). -/
def execMmasB4 (t a b c : BitVec 5) (s : State) : Host.Outcome State Fault Refusal := mmaLaunch true 3 t a b c s

/-- MZERO (R232). -/
def execMzero (t b : BitVec 5) (k : BitVec 1) (s : State) : Host.Outcome State Fault Refusal :=
  matLaunch (.mzero (k == 1)) t noReg (regOf b) noReg [b] s

/-- MDRAIN: release, zero and fill are the bits of o (R233). -/
def execMdrain (t a b : BitVec 5) (o : BitVec 3) (s : State) : Host.Outcome State Fault Refusal :=
  matLaunch (.mdrain false (o.toNat % 2 == 1) (o.toNat / 2 % 2 == 1) (o.toNat / 4 == 1)) t (regOf a) (regOf b) noReg
    [a, b] s

/-- MDRAIN.bf16 (R233). -/
def execMdrainBf16 (t a b : BitVec 5) (o : BitVec 2) (s : State) : Host.Outcome State Fault Refusal :=
  matLaunch (.mdrain true (o.toNat % 2 == 1) (o.toNat / 2 == 1) false) t (regOf a) (regOf b) noReg [a, b] s

/-- MWAIT (R234). -/
def execMwait (t : BitVec 5) (s : State) : Host.Outcome State Fault Refusal :=
  matLaunch .mwait t noReg noReg noReg [] s

/-- The word that MQRY reads (R235). -/
def Matrix.query (m : Matrix) (k g : Nat) : Word :=
  let pend := (m.cmds.filter fun c => c.op.acc c.b == some k).length
  let onion := m.groups.foldl (fun n x => n + x.members.length) 0
  BitVec.ofNat 32 ((if (mfind m.owner k).isNone then 2 ^ 31 else 0) + (if m.owns k g then 2 ^ 30 else 0)
    + min 31 pend * 2 ^ 20 + onion * 2 ^ 15 + min 31 (m.ofSlot g).length * 2 ^ 10)

/-- MQRY (R235). -/
def execMqry (t : BitVec 5) (k : BitVec 4) (s : State) : Host.Outcome State Fault Refusal :=
  word (useS [t]) (fun s => s.wS t ((s.cluster s.myCluster).mat.query k.toNat s.cur)) s

/-! ## Fetching operands (R229, R233) -/

/-- The operands of a command, as they arrive in A staging: rows, scale bytes of each row, metadata (R223, R229). -/
def State.fetchRows (s : State) (gc : Nat) (c : MatCmd) : Fetch :=
  match c.op with
  | .mma sparse ty =>
    let rows := (List.range (descM c.b)).map fun i => s.padBytes gc (c.a.toNat + i * rowStep sparse ty c.c) (rowBytes sparse ty)
    let scales := if ty = 3 then (List.range (descM c.b)).map fun i => s.padBytes gc (c.c.toNat + i * scaleBytes sparse) (scaleBytes sparse) else []
    .done rows scales (if sparse then s.padBytes gc (0x10000000 + descMdoff c.b * 1024) 1024 else [])
  | .mdrain _ _ _ true => .done ((List.range (descM c.b)).map fun i => s.padBytes gc (c.a.toNat + 256 * i) 256) [] []
  | _ => .none

/-- Does a byte of some scratchpad ranges lie in a discarded range (spec/14_host.md R397)? -/
def State.readsDiscarded (s : State) (gc : Nat) (rs : List (Nat × Nat)) : Bool :=
  (s.cluster gc).seals.any fun x => x.discarded && rs.any fun r => overlaps (flatPad gc r.1) r.2 x.addr x.len

/-- The RAW address of a line with an uncorrectable error that some scratchpad ranges meet (spec/15_taproot.md R419). -/
def State.faultyPad (s : State) (gc : Nat) (rs : List (Nat × Nat)) : Option Nat :=
  (s.faultyIn (rs.map fun r => (flatPad gc r.1, r.2))).map localAddr

/-- An engine read of a slot that met a discarded byte sets its DISCARD (spec/14_host.md R397). -/
def State.noteEngineRead (s : State) (gc g : Nat) (rs : List (Nat × Nat)) : State :=
  if s.readsDiscarded gc rs then s.modSlot g Slot.markDiscard else s

/-- Bytes that the operands of a command take in A staging (R220). -/
def MatCmd.operands (c : MatCmd) : Nat := ((c.op.fetches c.a c.b c.c).map (·.2)).sum

/-- Bytes that the fetched operands of a command take in A staging until its work has ended. -/
def MatCmd.staged (c : MatCmd) : Nat := match c.fetch with | .done _ _ _ => if c.isEnded then 0 else c.operands | _ => 0

/-- May the operands of a command arrive now: its core's A staging takes them in the order of the queue, and while they fit; a fetch
does not wait for room while a commit of the cluster is held, which its own range may hold (R220, R236, spec/05_commit.md R151, log
entry 65). -/
def State.stages (s : State) (gc : Nat) (c : MatCmd) : Bool :=
  let mates := (s.mat gc).cmds.filter fun x => coreOf x.slot == coreOf c.slot
  (mates.all fun x => c.seq ≤ x.seq || x.fetch != .pending)
    && ((mates.map MatCmd.staged).sum + c.operands ≤ Config.aStaging || (s.requests gc).any (s.requestHeld gc))

/-- What the fetch of a command finds: the lowest byte in another domain's partition, a line in error, or its operands
(R229, R233). -/
def State.fetched (s : State) (gc : Nat) (c : MatCmd) : Fetch :=
  let rs := c.op.fetches c.a c.b c.c
  match s.foreignByte gc c.domain.toNat rs with
  | some a => .fault (BitVec.ofNat 32 a)
  | none => match s.faultyPad gc rs with
    | some l => .error (BitVec.ofNat 32 l)
    | none => s.fetchRows gc c

/-- The operands of a command arrive in staging and its ranges are released. A started request that faults is removed and
completes; one whose metadata differs leaves its group (R229, R230, R242, R247). -/
def State.stageMat (s : State) (gc : Nat) (c : MatCmd) : State :=
  let c1 := { c with fetch := s.fetched gc c }
  let s1 := (s.noteEngineRead gc c.slot (c.op.fetches c.a c.b c.c)).release gc 0 c.seq
  match c.op, c.stage, c1.fetchFault with
  | .mma _ _, .started, some (state, code, a) => s1.endMat gc c1 state (some (code, a))
  | .mma _ _, .onion, some (state, code, a) => s1.endMat gc c1 state (some (code, a))
  | _, _, _ => (s1.modMat gc fun m => m.setCmd c1).regroup gc

/-- MATRIX_A_FETCH_DONE: the operands of a command arrive in staging (R229, R230, R242, R247). -/
def execMatrixAFetchDone (gc seq : Nat) (s : State) : Host.Outcome State Fault Refusal :=
  match (s.mat gc).cmd seq with
  | some c => .next (if c.fetch = .pending ∧ s.stages gc c then (s.stageMat gc c).settle gc else s)
  | none => .next s

/-! ## Starting a command (R227, R229, R237) -/

/-- May a command start (R237)? The MWLDs of a slot start in their order (log entry 65). -/
def Matrix.startable (m : Matrix) (c : MatCmd) : Bool :=
  let earlier := m.cmds.filter fun x => x.seq < c.seq
  let acc := match c.op.acc c.b with | some k => earlier.all fun x => x.op.acc x.b != some k | none => true
  let own := earlier.filter fun x => x.slot == c.slot
  let bound (x : MatCmd) : Bool := match x.op with | .mwld _ => x.stage != .queued | _ => true
  acc && match c.op with
  | .mma _ _ => own.all bound
  | .mwld _ => own.all fun x => match x.op with | .mma _ _ => false | _ => bound x
  | .mwait => own.isEmpty
  | _ => true

/-- Does a format of weights serve an operation (R228)? -/
def fmtServes (sparse : Bool) (ty fmt : Nat) : Bool := if ty = 3 then fmt == (if sparse then 4 else 3) else fmt == ty

/-! ### Ports (R238) -/

/-- The command that a port takes of those that have started, and whether it goes on with the core served last: the highest
level, then the cores by weighted round robin, then the oldest. The weight is counted at each grant (R238, log entry
65). -/
def MatPort.choose (p : MatPort) (started : List MatCmd) : Option (MatCmd × Bool) :=
  let top := started.foldl (fun n c => max n c.level) 0
  let of (k : Nat) := started.filter fun c => c.level == top && coreOf c.slot == k
  let weight := ((of p.core).map fun c => c.slot).eraseDups.length
  match if p.granted < weight then (of p.core).head? else none with
  | some c => some (c, true)
  | none => ((List.range 8).findSome? fun i => (of ((p.core + 1 + i) % 8)).head?).map fun c => (c, false)

/-- A port that is free takes its next command (R238). -/
def MatPort.serve (p : MatPort) (started : List MatCmd) : MatPort :=
  match p.cmd, p.choose started with
  | none, some (c, again) => { cmd := some c.seq, core := coreOf c.slot, granted := if again then p.granted + 1 else 1 }
  | _, _ => p

/-- The weight read port takes its next MWLD when it is free (R227, R238). -/
def Matrix.serveWeights (m : Matrix) : Matrix :=
  { m with weights := m.weights.serve (m.cmds.filter fun c => c.stage == .reading c.seq) }

/-- An MWLD starts: it shares a clean entry of the same tile, or opens one and waits for its read; a tile in another
domain's partition is refused. An MWLD of the slot that still reads goes on and completes by its own read, though the
binding is no longer its own (R227, log entry 65). -/
def State.startMwld (s : State) (gc : Nat) (c : MatCmd) (fmt : Nat) : State :=
  let m := { s.mat gc with bind := mdel (s.mat gc).bind c.slot }.tidy
  match m.staging.find? fun e => e.2.clean && e.2.addr == c.a && e.2.fmt == fmt && e.2.plane == c.b with
  | some (i, e) =>
    let s1 := (s.release gc 0 c.seq).modMat gc fun _ => { m with bind := mput m.bind c.slot i }
    if e.data.isSome then s1.endMat gc c 0x00 none else s1.modMat gc fun m => m.setCmd { c with stage := .reading i }
  | none =>
    match s.foreignByte gc c.domain.toNat (c.op.reads c.a c.b c.c) with
    | some a => (s.modMat gc fun _ => m).endMat gc c 0x40 (some (0x151, a))
    | none =>
      let e : Staging := { addr := c.a, fmt := fmt, plane := c.b, clean := true, data := none }
      s.modMat gc fun _ =>
        ({ m with bind := mput m.bind c.slot c.seq, staging := mput m.staging c.seq e }.setCmd
          { c with stage := .reading c.seq }).serveWeights

/-- An MMA or MMAS starts: its checks in order, the first deciding its STATE; then it waits for the Onion. A check behind
a fetch that is still under way waits for the fetch (R229, log entry 14). -/
def State.startMma (s : State) (gc : Nat) (c : MatCmd) (sparse : Bool) (ty : Nat) : State :=
  let m := s.mat gc
  let entry := mfind m.bind c.slot
  let serves := match entry.bind fun e => mfind m.staging e with | some e => fmtServes sparse ty e.fmt | none => false
  match c.fetchFault with
  | some (0x82, code, a) =>
    if !m.owns (descAcc c.b) c.slot then s.endMat gc c 0x40 none
    else if !serves then s.endMat gc c 0x80 none
    else s.endMat gc c 0x82 (some (code, a))
  | some (state, code, a) => s.endMat gc c state (some (code, a))
  | none =>
    if !m.owns (descAcc c.b) c.slot then (if c.fetch = .pending then s else s.endMat gc c 0x40 none)
    else if !serves then (if c.fetch = .pending then s else s.endMat gc c 0x80 none)
    else s.modMat gc fun m => m.setCmd { c with stage := .started, entry := entry }

/-- MATRIX_COMMAND_START (R237). -/
def execMatrixCommandStart (gc seq : Nat) (s : State) : Host.Outcome State Fault Refusal :=
  match (s.mat gc).cmd seq with
  | none => .next s
  | some c =>
    if c.stage ≠ .queued ∨ !(s.mat gc).startable c then .next s
    else
      match c.op with
      | .mwld fmt => .next ((s.startMwld gc c fmt).settle gc)
      | .mma sparse ty => .next ((s.startMma gc c sparse ty).settle gc)
      | _ => .next (s.modMat gc fun m => m.setCmd { c with stage := .started })

/-- The read of an MWLD ends and the port falls free: its entry, if it is still there, holds the tile and the plane, and
every MWLD that waits for the read completes. An uncorrectable error ends them with 0x81 and the cause 0x153 and clears
the bindings to the entry; a request that has started under one of them, and has not ended since, completes with 0x80 (R227, R229,
log entry 65). -/
def State.endRead (s : State) (gc : Nat) (c : MatCmd) : State :=
  let m := s.mat gc
  let waiting := m.cmds.filter fun x => x.stage == .reading c.seq
  let ranges := c.op.reads c.a c.b c.c
  let s1 := s.modMat gc fun m => { m with weights := { m.weights with cmd := none } }
  let s2 : State :=
    match s.faultyPad gc ranges with
    | none =>
      let part (n : Nat) : List Byte := match ranges[n]? with | some r => s.padBytes gc r.1 r.2 | none => []
      waiting.foldl (fun s x => (s.noteEngineRead gc x.slot ranges).endMat gc x 0x00 none)
        (s1.modMat gc fun m => { m with staging := m.staging.map fun e =>
          if e.1 = c.seq then (e.1, { e.2 with data := some (part 0, part 1) }) else e })
    | some l =>
      let s3 := s1.modMat gc fun m => { m with bind := m.bind.filter fun b => b.2 != c.seq, staging := mdel m.staging c.seq }
      (m.cmds.filter fun x => x.entry == some c.seq && !x.isEnded).foldl (fun s x => s.endMat gc { x with entry := none } 0x80 none)
        (waiting.foldl (fun s x => s.endMat gc x 0x81 (some (0x153, l))) s3)
  s2.modMat gc Matrix.serveWeights

/-- MWLD_READ_COMPLETE: the read of the MWLD on the weight read port is complete (R227). -/
def execMwldReadComplete (gc seq : Nat) (s : State) : Host.Outcome State Fault Refusal :=
  match if (s.mat gc).weights.cmd = some seq then (s.mat gc).cmd seq else none with
  | some c => .next ((s.endRead gc c).settle gc)
  | none => .next s

/-! ## The accumulator port (R232, R233, R238) -/

/-- Does a command run on the accumulator port? -/
def MatOp.onPort : MatOp → Bool
  | .mzero _ => true
  | .mdrain _ _ _ _ => true
  | _ => false

/-- ACC_PORT_SERVE: the free port takes its next command (R238). -/
def execAccPortServe (gc : Nat) (s : State) : Host.Outcome State Fault Refusal :=
  .next (s.modMat gc fun m => { m with port := m.port.serve (m.cmds.filter fun c => c.stage == .started && c.op.onPort) })

/-- What a command asks of the commit unit: the commit of a work that writes some bytes (spec/05_commit.md R152, R156). -/
def MatCmd.asks (c : MatCmd) (w : Work) (ws : FMap Byte) : Done :=
  { engine := 0, slot := c.slot, st := c.st, state := 0, disc := false, no := c.seq, work := w, lines := linesOf ws }

/-- MZERO_DONE: the command on the port completes (R232). -/
def execMzeroDone (gc : Nat) (s : State) : Host.Outcome State Fault Refusal :=
  let s := s.settle gc
  let m := s.mat gc
  match m.port.cmd.bind m.cmd with
  | none => .next s
  | some c =>
    match c.op with
    | .mzero claim =>
      let k := descAcc c.b
      let zero (row0 cnt : Nat) (m : Matrix) : Matrix := m.setRows k row0 cnt fun _ _ => 0
      .next (s.attempt gc (c.asks (.port c.seq) []) fun s =>
        if claim ∧ (mfind m.owner k).isNone then
          s.completeMat gc c 0x00 [] 0 fun m => { zero 0 64 m with owner := mput m.owner k (c.slot, c.domain) }
        else if m.owns k c.slot then s.completeMat gc c 0x00 [] 0 (zero (descRow0 c.b) (descM c.b))
        else s.failMat gc c 0x40)
    | _ => .next s

/-- The bytes of a drain with the flags of its rounding (R223, R233). -/
def Matrix.drained (m : Matrix) (gc : Nat) (c : MatCmd) (bf16 : Bool) : FMap Byte × Flags :=
  let n := if bf16 then 2 else 4
  let cells := (List.range (descM c.b)).flatMap fun i => (List.range 64).map fun j =>
    let x := m.elem (descAcc c.b) (descRow0 c.b + i) j
    let r := if bf16 then fmtBF16.narrow x else (x.toNat, 0)
    (flatPad gc (c.a.toNat + 64 * n * i + n * j), r)
  (cells.flatMap fun p => placed p.1 (leBytes n p.2.1), cells.foldl (fun f p => f ||| p.2.2) 0)

/-- What a drain leaves in its accumulator: rows zeroed, ownership released. -/
def Matrix.afterDrain (m : Matrix) (c : MatCmd) (release zero : Bool) : Matrix :=
  let m1 := if zero then m.setRows (descAcc c.b) (descRow0 c.b) (descM c.b) fun _ _ => 0 else m
  if release then { m1 with owner := mdel m1.owner (descAcc c.b) } else m1

/-- MDRAIN_DONE: the drain or fill on the port completes (R221, R233). -/
def execMdrainDone (gc : Nat) (s : State) : Host.Outcome State Fault Refusal :=
  let s := s.settle gc
  let m := s.mat gc
  match m.port.cmd.bind m.cmd with
  | none => .next s
  | some c =>
    match c.op with
    | .mdrain bf16 release zero fill =>
      let end_ (ws : FMap Byte) (f : State → State) : Host.Outcome State Fault Refusal :=
        .next (s.attempt gc (c.asks (.port c.seq) ws) f)
      if !m.owns (descAcc c.b) c.slot then end_ [] fun s => s.failMat gc c 0x40
      else if fill then
        match c.fetch with
        | .fault a => end_ [] fun s => s.faultMat gc c 0x40 0x152 a.toNat
        | .error a => end_ [] fun s => s.faultMat gc c 0x81 0x153 a.toNat
        | .done rows _ _ =>
          end_ [] fun s => s.completeMat gc c 0x00 [] 0 fun m =>
            m.setRows (descAcc c.b) (descRow0 c.b) (descM c.b) fun i n =>
              BitVec.ofNat 32 (leNat (((rows.getD i []).drop (4 * n)).take 4))
        | _ => .next s
      else
        match s.foreignByte gc c.domain.toNat (c.op.writes c.a c.b) with
        | some a => end_ [] fun s => s.faultMat gc c 0x40 0x152 a
        | none =>
          let d := m.drained gc c bf16
          if s.writesSealed d.1 then end_ [] fun s => s.failMat gc c 0x40
          else end_ d.1 fun s => s.completeMat gc c 0x00 d.1 d.2 fun m => m.afterDrain c release zero
    | _ => .next s

/-- MWAIT_DONE: every earlier command of the slot has completed (R234). -/
def execMwaitDone (gc seq : Nat) (s : State) : Host.Outcome State Fault Refusal :=
  let s := s.settle gc
  match (s.mat gc).cmd seq with
  | none => .next s
  | some c =>
    .next (if c.op = .mwait ∧ !c.isEnded ∧ (s.mat gc).startable c then
      s.attempt gc (c.asks (.mwait seq) []) fun s => s.failMat gc c 0x00 else s)

/-! ## Passes (R241-R247) -/

/-- ONION_ENTER: the oldest started request enters the Onion when it has a free entry (R241-R243). -/
def execOnionEnter (gc : Nat) (s : State) : Host.Outcome State Fault Refusal :=
  let m := s.mat gc
  let inside := m.groups.foldl (fun n g => n + g.members.length) 0
  match m.cmds.filter fun c => c.stage == .started && (match c.op with | .mma _ _ => true | _ => false) with
  | [] => .next s
  | c :: _ =>
    if 16 ≤ inside then .next s
    else
      let k : Member := { seq := c.seq, entered := s.ckOf gc, hold := if descNow c.b then 0 else holdBudget c.level }
      let c1 := { c with stage := .onion }
      .next ((s.modMat gc fun m => m.setCmd c1).joinOnion gc c1 k)

/-- ONION_GROUP_DUE: the due time of the group at a position is reached, or it holds 64 rows (R244). -/
def execOnionGroupDue (gc k : Nat) (s : State) : Host.Outcome State Fault Refusal :=
  let m := s.mat gc
  let ck := s.ckOf gc
  .next (s.modMat gc fun _ =>
    { m with groups := m.groups.mapIdx fun i g =>
        if i = k ∧ (g.dueAt ≤ ck ∨ 64 ≤ m.rowsOf g) then { g with due := true } else g })

/-- Is a member staged: its rows, scale bytes and metadata are in staging (R245)? -/
def Matrix.staged (m : Matrix) (k : Member) : Bool :=
  match m.cmd k.seq with | some c => (match c.fetch with | .done _ _ _ => true | _ => false) | none => false

/-- The staging entry of a group, when its read is complete. -/
def Matrix.entryOf (m : Matrix) (g : Group) : Option Nat :=
  ((m.cmdsOf g).head?.bind MatCmd.entry).filter fun e => match mfind m.staging e with | some x => x.data.isSome | none => false

/-- The order in which groups issue: pass priority, then due time, then the oldest launch (R245). -/
def Matrix.goesFirst (m : Matrix) (g h : Group) : Bool :=
  let p (x : Group) := (m.cmdsOf x).foldl (fun n c => max n c.level) 0
  let o (x : Group) := (leastOf (x.members.map Member.seq)).getD 0
  if p g ≠ p h then p h < p g else if g.dueAt ≠ h.dueAt then g.dueAt < h.dueAt else o g < o h

/-- The first group of a list in the issue order. -/
def Matrix.firstGroup (m : Matrix) : List Group → Option Group
  | [] => none
  | g :: gs => match m.firstGroup gs with | none => some g | some h => if m.goesFirst h g then some h else some g

/-- The ready due group that issues first: its entry is read and one of its members is staged (R245). -/
def Matrix.readyGroup (m : Matrix) : Option Group :=
  m.firstGroup (m.groups.filter fun g => g.due && (m.entryOf g).isSome && g.members.any m.staged)

/-- ARRAY_LOAD: the idle array starts loading the entry of the group to issue, or loads ahead when no open group's entry
is latched (R245). -/
def execArrayLoad (gc : Nat) (s : State) : Host.Outcome State Fault Refusal :=
  let m := s.mat gc
  let latched (g : Group) := m.latched.isSome && (m.cmdsOf g).head?.bind MatCmd.entry == m.latched
  let load (e : Option Nat) : State :=
    match e with
    | some i => if m.latched = some i then s else s.modMat gc fun m => { m with array := some (.load i), latched := none }
    | none => s
  if m.array.isSome then .next s
  else
    match m.readyGroup with
    | some g => .next (load (m.entryOf g))
    | none =>
      if m.groups.any latched then .next s
      else .next (load ((m.firstGroup (m.groups.filter fun g => (m.entryOf g).isSome)).bind m.entryOf))

/-- ARRAY_LOAD_DONE (R245). -/
def execArrayLoadDone (gc : Nat) (s : State) : Host.Outcome State Fault Refusal :=
  match (s.mat gc).array with
  | some (.load i) => .next (s.modMat gc fun m => { m with array := none, latched := some i })
  | _ => .next s

/-- PASS_ISSUE: the idle array issues the first ready due group whose entry it holds; members that are not staged leave
the group, and those whose metadata differs from that of the oldest member that stays (R242, R244, R245). -/
def execPassIssue (gc : Nat) (s : State) : Host.Outcome State Fault Refusal :=
  let m := s.mat gc
  match m.array, m.readyGroup with
  | none, some g =>
    if (m.entryOf g).isNone ∨ m.entryOf g ≠ m.latched then .next s
    else
      let staged : Group := { g with members := g.members.filter m.staged }
      let differ := m.misfits staged
      let run := staged.members.filter fun k => !differ.contains k
      let s1 := s.modMat gc fun m =>
        { m with array := some (.pass (run.map Member.seq)), groups := m.groups.filter fun h => h.members != g.members }
      .next ((g.members.filter fun k => !run.contains k).foldl (fun s k =>
        match (s.mat gc).cmd k.seq with | some c => s.joinOnion gc c k | none => s) s1)
  | _, _ => .next s

/-- The insertion of a number in rising order. -/
def insertNat (x : Nat) : List Nat → List Nat
  | [] => [x]
  | y :: ys => if x ≤ y then x :: y :: ys else y :: insertNat x ys

/-- Numbers in rising order. -/
def sortNat (l : List Nat) : List Nat := l.foldl (fun a x => insertNat x a) []

/-- PASS_END: the array falls free, and each member is ready to complete by its own commit, in the order of their launches
(R239, R245, R246). -/
def execPassEnd (gc : Nat) (s : State) : Host.Outcome State Fault Refusal :=
  match (s.mat gc).array with
  | some (.pass qs) =>
    .next (((sortNat qs).foldl (fun s q => match (s.mat gc).cmd q with | some c => s.endMat gc c 0x00 none | none => s)
      (s.modMat gc fun m => { m with array := none })).settle gc)
  | _ => .next s

end Sys2Proof.Machine
end

