-- ==== Sys2Proof/Machine/Pull.lean ====
section
/-!
DEFINITION. Remote loads and the launches of the pull unit (spec/09_pull.md R253-R278).
-/

namespace Sys2Proof.Machine

/-! ## Pages that a launch names (spec/14_host.md R390) -/

/-- An address in every page that a run of bytes touches. -/
def chunkAddrs (len a : Nat) : List Nat :=
  a :: (List.range ((a + len - 1) / 1024 - a / 1024)).map fun i => (a / 1024 + 1 + i) * 1024

/-- The pages of some addresses for the acting slot: every page in order, or the first address whose translation is
missing, or has a cause. -/
def State.pagesFor (s : State) (need : Nat) : List Nat → List Page → Except (Nat × Option Nat) (List Page)
  | [], ps => .ok ps
  | a :: as, ps =>
    if (pageAt ps a).isSome then s.pagesFor need as ps
    else
      match s.translate s.cur a need with
      | .wait => .error (a, none)
      | .cause c => .error (a, some c)
      | .ok p => s.pagesFor need as (ps ++ [p])

/-- A bundle goes on with the pages of some addresses, once it has them: a missing translation stalls it, and a cause is
raised with A[31:0]; those that walks have found for it need not be kept any longer (R390, R394). -/
def State.withPages (s : State) (need kind : Nat) (addrs : List Nat) (k : List Page → State → State) : State :=
  match s.pagesFor need addrs [] with
  | .error (a, none) => s.stallFor (.walk a kind)
  | .error (a, some c) => s.raise c (BitVec.ofNat 32 a)
  | .ok ps => k ps ((ps.foldl (fun s p => s.fillPlb s.cur s.me.domain p) s).modMe fun x => { x with pages := [] })

/-- Is an SEQLD.A of the acting slot still in flight? A later read waits for it, since it is a read issued after the
acquire (R266, spec/01_engines.md R31). -/
def State.acquiring (s : State) : Bool :=
  s.bundleD.loads.any fun l => match l.fetch with
    | some i => (s.pull s.myCluster).fetches.any fun f => f.id == i && f.acq
    | none => false

/-! ## LDG and SEQLD.A (R259-R262, R266) -/

/-- The cause of a remote load that failed, by the STATE of its request (R262). -/
def loadCause (state : Nat) : Nat := if state = 0x40 then 0x1C8 else if state = 0x81 then 0x1CA else 0x1C9

/-- The lease of a cluster's fetches in ck: long or short (R260). -/
def State.lease (s : State) (gc : Nat) : Nat := if bit (s.modeOf gc) 3 then 1024 else 4096

/-- STATUS.DISCARD is set by a read of the acting slot. -/
def State.markRead (s : State) : State := s.modLive fun r => { r with status := withBit r.status 16 true }

/-- The word at a pod address in an answered line. -/
def lineWord (data : List Byte) (a : Nat) : Word := BitVec.ofNat 32 (leNat ((data.drop (a % 64)).take 4))

/-- The valid line of the reader cache that holds an address of a page (R260). -/
def State.cachedLine (s : State) (gc : Nat) (p : Page) (a : Nat) : Option CacheLine :=
  (s.pull gc).cache.find? fun l =>
    l.addr == a / 64 * 64 && l.chip == p.chip && l.owner == p.owner && s.ckOf gc < l.till

/-- The fetch in flight that a further miss of its line shares (R260). -/
def State.sharedFetch (s : State) (gc : Nat) (p : Page) (a : Nat) : Option LineFetch :=
  if isMem gc then none
  else (s.pull gc).fetches.find? fun f =>
    !f.acq && f.keep && f.addr == a / 64 * 64 && f.page == p && s.ckOf gc < f.till

/-- A load of the acting slot waits for a fetch. -/
def State.awaitFetch (s : State) (d : BitVec 5) (a id : Nat) : State :=
  let pc := s.bundleD.pc
  s.modMe fun x =>
    { x with loads := x.loads ++ [{ loadS d 0 with region := x.region.no, fetch := some id, addr := a, pc := pc }] }

/-- A fetch of a line leaves for its owner (R259). -/
def State.issueFetch (s : State) (g : Nat) (p : Page) (a : Nat) (acq : Bool) : Nat × State :=
  let gc := clusterOf g
  let (id, s1) := s.takeId gc
  let f : LineFetch :=
    { id := id, addr := a / 64 * 64, page := p, acq := acq, keep := true, floor := 0, slot := g, till := s.ckOf gc + s.lease gc, answer := none }
  let s2 := s1.modPull gc fun u => { u with fetches := u.fetches ++ [f] }
  (id, if p.chip = s.chip then s2 else s2.request p.chip gc id .fetch 64)

/-- The read of a word of a translated page by LDG or SEQLD.A: a cached line serves an LDG, also of an owner fenced since; an
acquire of an alias's word waits until host memory has it, and a read of the own cluster's alias for an absent host page (R259, R260,
R266; spec/01_engines.md R39, R46; spec/14_host.md R401). -/
def State.readRemote (s : State) (d : BitVec 5) (p : Page) (a : Nat) (acq : Bool) : State :=
  let gc := s.myCluster
  let v := BitVec.ofNat 32 a
  let ask : Ask := if acq then .acquire else .read
  match if acq then none else s.cachedLine gc p a with
  | some l => s.deliver (loadS d (lineWord l.data a))
  | none =>
    if s.cutOff p then s.raise (loadCause 0x43) v
    else if acq && !s.within gc p then s.raise 0x1C1 v
    else if acq && s.foreign p.chip then s.raise 0x1C8 v
    else if p.disc then (s.deliver (loadS d 0)).markRead
    else if p.chip = s.chip ∧ p.owner = gc then
      match s.pageAwaited p a with
      | some q => s.stallFor (.hostPage q.1 q.2 (BitVec.ofNat 32 (((s.flatOf p a).map s.localOf).getD 0)))
      | none =>
      if s.acquireWaits p ask a then s.stallFor (.wait true)
      else
        match s.portLine s.cur p ask a with
        | (.line data _ disc, _) =>
          let s1 := s.deliver (loadS d (lineWord data a))
          if disc then s1.markRead else s1
        | (.fail n, r) => (match r with | some x => s.logBundle x | none => s).raise (loadCause n) v
    else
      match if acq then none else s.sharedFetch gc p a with
      | some f => s.awaitFetch d a f.id
      | none =>
        if 64 ≤ (s.pull gc).fetches.length then s.stallFor (.wait false)
        else
          let (id, s1) := s.issueFetch s.cur p a acq
          s1.awaitFetch d a id

/-- The checks of a remote load, its translation and its read (R256, R259, R266). -/
def State.remoteLoad (s : State) (d : BitVec 5) (hi : Word) (a : Nat) (acq : Bool) : State :=
  if notCanonical hi then s.raise 0x1C0 hi
  else if 2 ^ 56 ≤ a then s.raise 0x1C0 (BitVec.ofNat 32 (a / 2 ^ 32))
  else if a % 4 ≠ 0 then s.raise 0x1C4 (BitVec.ofNat 32 a)
  else if s.acquiring then s.stallFor (.wait false)
  else
    s.withPages (if acq then rdRight + acqRight else rdRight) (if acq then 2 else 1) [a] fun ps s =>
      match ps with
      | p :: _ => s.readRemote d p a acq
      | [] => s

/-- LDG (R259). -/
def execLdg (d a b : BitVec 5) (k : BitVec 9) (s : State) : Host.Outcome State Fault Refusal :=
  word (useS [d, a, b]) (fun s => s.remoteLoad d (s.rS a) (podAddr (s.rS a) (s.rS b) + 4 * k.toNat) false) s

/-- SEQLD.A (R266). -/
def execSeqldA (d a b : BitVec 5) (s : State) : Host.Outcome State Fault Refusal :=
  word (useS [d, a, b]) (fun s => s.remoteLoad d (s.rS a) (podAddr (s.rS a) (s.rS b)) true) s

/-! ## The descriptor quad (R257) and the checks of R258 -/

/-- Register i of the quad at sc. -/
def State.quad (s : State) (c : BitVec 5) (i : Nat) : Word := s.src.sreg (c.toNat + i)

/-- LEN. -/
def descLen (w1 : Word) : Nat := bits w1 0 20
/-- ROWS. -/
def descRows (w1 : Word) : Nat := bits w1 20 11

/-- The rows of a source or destination. -/
def rowsOf (a n stride : Nat) : List Nat := (List.range n).map fun r => a + r * stride

/-- The first source row that does not lie below 2^56 (R258). -/
def highFault (rows : List Nat) (len : Nat) : Option (Nat × Word) :=
  rows.findSome? fun a =>
    if 2 ^ 56 ≤ a then some (0x1C0, BitVec.ofNat 32 (a / 2 ^ 32))
    else if 2 ^ 56 < a + len then some (0x1C0, 0x01000000) else none

/-- The lowest byte of a local range that lies outside the core's TCM, the RAW window and a memory core's HBM window
(R258). -/
def outsideLocal (gc : Nat) (r : Nat × Nat) : Option Nat :=
  let within (top : Nat) : Option Nat := if r.1 + r.2 ≤ top then none else some (top % 2 ^ 32)
  if r.1 < 0x40000 then within 0x40000
  else if 0x10000000 ≤ r.1 ∧ r.1 < 0x10000000 + ramSize gc then within (0x10000000 + ramSize gc)
  else if isMem gc ∧ 0x80000000 ≤ r.1 then within (2 ^ 32)
  else some r.1

/-- The malformed descriptors of a copy or pull of some rows (R258). -/
def badShape (len rows : Nat) : Bool := len == 0 || len % 4 != 0 || 262144 < len || rows == 0 || 2 ^ 20 < len * rows

/-- The checks of R258 in their order: pod addresses, the descriptor, alignments, local ranges. Of several misaligned values the first in
the list `aligned` is named: the model's choice (log entry 74). -/
def State.pullCause (s : State) (hi : Option Word) (pods : List Nat) (len : Nat) (bad : Bool) (w1 : Word)
    (aligned : List (Word × Nat)) (locals : List (Nat × Nat)) : Option (Nat × Word) :=
  (hi.bind fun h => if notCanonical h then some (0x1C0, h) else none).or
    ((highFault pods len).or
      ((if bad then some (0x1C2, w1) else none).or
        ((aligned.findSome? fun x => if x.1.toNat % x.2 = 0 then none else some (0x1C4, x.1)).or
          ((leastOf (locals.filterMap (outsideLocal s.myCluster))).map fun x => (0x1C3, BitVec.ofNat 32 x)))))

/-- The flat address of a local address that passed its checks. -/
def State.flatLocal (s : State) (a : Nat) : Nat :=
  match s.locate (BitVec.ofNat 32 a) with
  | some (.mem f) => f
  | _ => 0

/-- The local rows of a copy or pull: the address is taken modulo 2^32 (R257). -/
def localRows (loc n stride : Nat) : List Nat := (rowsOf loc n stride).map (· % 2 ^ 32)

/-- The strides that a copy or pull uses, with their alignment. -/
def State.strides (s : State) (c : BitVec 5) (rows : Nat) : List (Word × Nat) :=
  if 1 < rows then [(s.quad c 2, 4), (s.quad c 3, 4)] else []

/-- A launch is appended, and its token becomes pending (R255, spec/01_engines.md R28). -/
def State.launch (s : State) (t : BitVec 5) (e : Effect) : State := (s.effect e).markToken t

/-- CPY (R271). -/
def execCpy (t a c : BitVec 5) (s : State) : Host.Outcome State Fault Refusal :=
  word { s := [t.toNat, a.toNat] ++ regsFrom c 4 } (fun s =>
    let w1 := s.quad c 1
    let len := descLen w1
    let rows := descRows w1
    let src := localRows (s.rS a).toNat rows (s.quad c 2).toNat
    let dst := localRows (s.quad c 0).toNat rows (s.quad c 3).toNat
    match s.pullCause none [] len (badShape len rows || bit w1 31) w1
        ([(s.rS a, 4), (s.quad c 0, 4)] ++ s.strides c rows) ((src ++ dst).map fun x => (x, len)) with
    | some (k, v) => s.raise k v
    | none => s.launch t (.pull .cpy t.toNat (src.map s.flatLocal) (dst.map s.flatLocal) len [])) s

/-- A pull from a pod address: its checks, its pages, its launch. -/
def State.pullWord (s : State) (t a b c : BitVec 5) (kind : PullKind) (need rows : Nat) (bad : Bool)
    (extra : List (Word × Nat)) (digest : List (Nat × Nat)) : State :=
  let w1 := s.quad c 1
  let len := descLen w1
  let pod := podAddr (s.rS a) (s.rS b)
  let src := rowsOf pod rows (s.quad c 2).toNat
  let dst := localRows (s.quad c 0).toNat rows (s.quad c 3).toNat
  match s.pullCause (some (s.rS a)) (if src.isEmpty then [pod] else src) len bad w1
      ([(s.rS b, 4), (s.quad c 0, 4)] ++ extra) ((dst.map fun x => (x, len)) ++ digest) with
  | some (k, v) => s.raise k v
  | none =>
    if s.acquiring then s.stallFor (.wait false)
    else
      s.withPages need 3 (src.flatMap (chunkAddrs len)) fun ps s =>
        s.launch t (.pull kind t.toNat src (dst.map s.flatLocal) len ps)

/-- The rights that a pull needs (spec/14_host.md R390). -/
def pullNeed (acq : Bool) : Nat := if acq then rdRight + acqRight else rdRight

/-- PULL (R272, R273). -/
def execPull (t a b c : BitVec 5) (s : State) : Host.Outcome State Fault Refusal :=
  word { s := [t.toNat, a.toNat, b.toNat] ++ regsFrom c 4 } (fun s =>
    let w1 := s.quad c 1
    let rows := descRows w1
    s.pullWord t a b c (.pull (bit w1 31)) (pullNeed (bit w1 31)) rows (badShape (descLen w1) rows) (s.strides c rows) []) s

/-- PULLC (R274). -/
def execPullc (t a b c : BitVec 5) (s : State) : Host.Outcome State Fault Refusal :=
  word { s := [t.toNat, a.toNat, b.toNat] ++ regsFrom c 4 } (fun s =>
    let w1 := s.quad c 1
    s.pullWord t a b c (.pullc (bits w1 24 8)) (rdRight + conRight) 1 (badShape (descLen w1) 1 || bits w1 20 4 != 0) [] []) s

/-- PULLD (R275). -/
def execPulld (t a b c : BitVec 5) (s : State) : Host.Outcome State Fault Refusal :=
  word { s := [t.toNat, a.toNat, b.toNat] ++ regsFrom c 4 } (fun s =>
    let w1 := s.quad c 1
    let dig := (s.quad c 3).toNat
    let bad := badShape (descLen w1) (descRows w1) || descRows w1 != 1 || overlaps (s.quad c 0).toNat (descLen w1) dig 64
    s.pullWord t a b c (.pulld (bit w1 31) (s.flatLocal dig)) (pullNeed (bit w1 31)) 1 bad [(s.quad c 3, 64)] [(dig, 64)]) s

/-- The verify form of PULLD (R275). -/
def execPulldVerify (t c : BitVec 5) (s : State) : Host.Outcome State Fault Refusal :=
  word { s := t.toNat :: regsFrom c 4 } (fun s =>
    let w1 := s.quad c 1
    let len := descLen w1
    let loc := (s.quad c 0).toNat
    let dig := (s.quad c 3).toNat
    let bad := badShape len (descRows w1) || descRows w1 != 1 || overlaps loc len dig 64
    match s.pullCause none [] len bad w1 [(s.quad c 0, 4), (s.quad c 3, 64)] [(loc, len), (dig, 64)] with
    | some (k, v) => s.raise k v
    | none => s.launch t (.pull (.verify (s.flatLocal dig)) t.toNat [s.flatLocal loc] [] len [])) s

/-! ## Watches and sequence words -/

/-- The launch of a watch: its checks, its page, its effect (R258, R267). -/
def State.watchWord (s : State) (t a b c : BitVec 5) (timeout : Option Nat) : State :=
  let pod := podAddr (s.rS a) (s.rS b)
  match s.pullCause (some (s.rS a)) [pod] 4 false 0 [(s.rS b, 4)] [] with
  | some (k, v) => s.raise k v
  | none =>
    if s.acquiring then s.stallFor (.wait false)
    else
      s.withPages (rdRight + acqRight) 3 [pod] fun ps s =>
        match ps with
        | p :: _ => s.launch t (.watch t.toNat pod p (s.rS c) timeout)
        | [] => s

/-- WATCH (R267). -/
def execWatch (t a b c : BitVec 5) (s : State) : Host.Outcome State Fault Refusal :=
  word (useS [t, a, b, c]) (fun s => s.watchWord t a b c none) s

/-- WATCHT: the timeout in ck stands in sc + 1 (R267). -/
def execWatcht (t a b c : BitVec 5) (s : State) : Host.Outcome State Fault Refusal :=
  word { s := [t.toNat, a.toNat, b.toNat] ++ regsFrom c 2 } (fun s => s.watchWord t a b c (some (s.quad c 1).toNat)) s

/-- The word at a flat address as an advance finds it: the furthest of the pending advances of the region, its gang's, counts (R264,
spec/04_control.md R123). -/
def State.seqOld (s : State) (f : Nat) : Word :=
  ((s.gangEffects s.cur).foldl (fun (o : Option Word) e => match e with
    | .seqadv g v => if g = f ∧ (o.all fun w => w.toNat < v.toNat) then some v else o
    | _ => o) none).getD (BitVec.ofNat 32 (s.peekNat f 4))

/-- SEQADV (R264; spec/14_host.md R397). -/
def execSeqadv (a b : BitVec 5) (s : State) : Host.Outcome State Fault Refusal :=
  word (useS [a, b]) (fun s =>
    let x := s.rS a
    if x.toNat % 4 ≠ 0 then s.raise 0x1C4 x
    else if x.toNat < 0x40000 ∨ (outsideLocal s.myCluster (x.toNat, 4)).isSome then s.raise 0x1C3 x
    else
      let f := s.flatLocal x.toNat
      if (s.sealOf f).isSome then s.raise 0x386 x
      else
        let old := s.seqOld f
        if (s.rS b).toNat ≤ old.toNat then s.raise 0x1C5 old
        else
          ((s.noteRead [f]).modMe fun y => { y with region := { y.region with wsig := y.region.wsig ||| sigBits f } }).effect
            (.seqadv f (s.rS b))) s

/-- WCANCEL names its register and neither reads nor writes it (R269). -/
def execWcancel (t : BitVec 5) (s : State) : Host.Outcome State Fault Refusal :=
  word {} (fun s => s.effect (.wcancel t.toNat)) s

end Sys2Proof.Machine
end

