-- ==== Sys2Proof/Machine/CommitSteps.lean ====
section
/-!
DEFINITION. The steps of the commit unit and the barriers (spec/05_commit.md R143, R156, R163; spec/01_engines.md R40, R43;
spec/04_control.md R133-R135).
-/

namespace Sys2Proof.Machine

/-- The data of load n of a slot arrive: in the live registers, and in the checkpoint when the region that issued the load
has committed (R143). -/
def Slot.arrives (x : Slot) (n : Nat) (l : Load) : Slot :=
  { x with
    live := x.live.arrive l
    loads := x.loads.eraseIdx n
    region := { x.region with ckpt := if l.region = x.region.no then x.region.ckpt else x.region.ckpt.arrive l } }

/-- LOAD_DATA_ARRIVAL: the data of the local load that is n-th among a slot's loads in flight arrive (R143). -/
def execLoadDataArrival (g n : Nat) (s : State) : Host.Outcome State Fault Refusal :=
  match (s.slot g).loads[n]? with
  | some l => if l.fetch.isNone then .next (s.modSlot g fun x => x.arrives n l) else .next s
  | none => .next s

/-- May a slot take an asynchronous cause now: it runs, does not leave for good, and one is due on its gang (R43)? -/
def State.asyncReady (s : State) (g : Nat) : Bool :=
  !s.stopped (clusterOf g) && (s.slot g).runs && !(s.cluster (clusterOf g)).fenced && (s.gangOf g).headD g == g
    && !(s.slot g).leaves && (s.gangOf g).any fun m => (s.dueCause m).isSome

/-- ASYNC_TRAP_ENTRY: a slot's first asynchronous cause is taken at its bundle boundary, an exhausted budget in its place
among those that pend (R40, R43; spec/12_tasks.md R347). -/
def execAsyncTrapEntry (g : Nat) (s : State) : Host.Outcome State Fault Refusal :=
  .next (if s.asyncReady g then s.takeDue g else s)

/-- SOLO_RUN_START: the solo run of a cluster that waits longest starts once no other is active (R163). -/
def execSoloRunStart (gc : Nat) (s : State) : Host.Outcome State Fault Refusal := .next (s.startSolo gc)

/-- SOLO_RUN_TIMEOUT: a solo run ends when 16,384 ck have passed (R163). -/
def execSoloRunTimeout (g : Nat) (s : State) : Host.Outcome State Fault Refusal :=
  match (s.slot g).solo with
  | some t =>
    .next (if t + Config.soloCk ≤ s.ckOf (clusterOf g) then
      (s.gangOf g).foldl (fun s m => s.modSlot m fun x => { x with solo := none }) s else s)
  | none => .next s

/-! ## Barriers (R133-R135) -/

/-- A cluster drops every line that its reader cache holds; a fetch in flight does not bring one back (R133). -/
def State.dropCache (s : State) (gc : Nat) : State :=
  s.modPull gc fun u => { u with cache := [], fetches := u.fetches.map fun f => { f with keep := false } }

/-- Is a phase of an instance full, with no slot of a fenced cluster (R133, R135)? -/
def State.fullPhase (s : State) (level scope domain b : Nat) (p : Phase) : Bool :=
  p.level == level && p.scope == scope && p.domain == domain && p.b == b && p.full && !s.deadPhase p

/-- A phase completes: from level 3 on the reader caches of its clusters are dropped; its marks are cleared (R133). -/
def State.endPhase (s : State) (p : Phase) : State :=
  let s1 : State := { s with phases := s.phases.erase p }
  let s2 := if 3 ≤ p.level then ((p.all.map clusterOf).eraseDups).foldl (fun s gc => s.dropCache gc) s1 else s1
  p.arrived.foldl (fun s g => s.modSlot g fun x => { x with arrivals := x.arrivals.filter (· != p.b) }) s2

/-- BARRIER_PHASE_COMPLETE: the first full phase of an instance completes (R133). -/
def execBarrierPhaseComplete (level scope domain b : Nat) (s : State) : Host.Outcome State Fault Refusal :=
  match s.phases.find? (s.fullPhase level scope domain b) with
  | some p => .next (s.endPhase p)
  | none => .next s

end Sys2Proof.Machine
end

