-- ==== Sys2Proof/Machine/Boot.lean ====
section
/-!
DEFINITION. The verification of an image at boot: its header, its digests and its RSASSA-PSS signature (spec/15_taproot.md
R407).
-/

namespace Sys2Proof.Machine

/-- The bytes of an image from an offset on. -/
def slice (bs : List Byte) (off n : Nat) : List Byte := (bs.drop off).take n

/-- A little-endian field of an image. -/
def field (bs : List Byte) (off n : Nat) : Nat := leNat (slice bs off n)

/-- The number whose big-endian octet string these bytes are. -/
def beNat (bs : List Byte) : Nat := leNat bs.reverse

/-- b^e modulo n, for an exponent e of at most k bits. -/
def powMod (n : Nat) : Nat → Nat → Nat → Nat
  | 0, _, _ => 1 % n
  | k + 1, b, e =>
    let r := powMod n k (b * b % n) (e / 2)
    if e % 2 = 1 then b * r % n else r

/-- MGF1 with SHA-256: n bytes of the mask of a seed. -/
def mgf1 (seed : List Byte) (n : Nat) : List Byte :=
  ((List.range ((n + 31) / 32)).flatMap fun i => sha256 (seed ++ (leBytes 4 i).reverse)).take n

/-- Is an encoded message of 3,071 bits one of a message under EMSA-PSS with SHA-256 and a salt of 32 bytes? -/
def pssHolds (em msg : List Byte) : Bool :=
  let masked := em.take 351
  let h := slice em 351 32
  let clear (bs : List Byte) : List Byte := match bs with | b :: r => (b &&& 0x7F) :: r | [] => []
  let db := clear (List.zipWith (· ^^^ ·) masked (mgf1 h 351))
  em.length == 384 && em.getLastD 0 == 0xBC && clear (masked.take 1) == masked.take 1
    && db.take 319 == List.replicate 318 0 ++ [1]
    && sha256 (List.replicate 8 0 ++ sha256 msg ++ db.drop 319) == h

/-- Does the signature of an image verify under the key in its header (R407)? -/
def signed (image : List Byte) : Bool :=
  let n := beNat (slice image 0x080 384)
  let sig := beNat (slice image 0x200 384)
  2 ^ 3071 ≤ n && sig < n && pssHolds (leBytes 384 (powMod n 32 sig (field image 0x040 4))).reverse (slice image 0 64)

/-- The version in an image's header. -/
def imageVersion (image : List Byte) : Nat := field image 0x00C 4

/-- The digest of an image's body. -/
def bodyDigest (image : List Byte) : List Byte := sha256 (image.drop 1024)

/-- Is an image accepted as one of a kind (R407)? -/
def accepted (kind : Nat) (image : List Byte) : Bool :=
  let zero (off n : Nat) : Bool := (slice image off n).all (· == 0)
  field image 0 4 == 0x4844585A && field image 4 4 == 1 && field image 8 4 == kind
    && zero 0x014 12 && zero 0x044 60 && zero 0x380 128
    && image.length == 1024 + field image 0x010 4 && field image 0x010 4 % 64 == 0
    && sha256 (slice image 0x040 448) == (List.range 32).map Config.keyDigest
    && signed image && bodyDigest image == slice image 0x020 32 && Config.minVersion kind ≤ imageVersion image

end Sys2Proof.Machine
end

