-- ==== Sys2Proof/Machine/Pool.lean ====
section
/-!
DEFINITION. The instructions of the tile pool and the consuming loads (spec/10_pool.md R285-R305).
-/

namespace Sys2Proof.Machine

/-! ## Handles (R289) -/

/-- WIN of a handle. -/
def handleWin (h : Word) : Nat := bits h 21 3
/-- OFF of a handle. -/
def handleOff (h : Word) : Nat := bits h 0 21
/-- GEN of a handle. -/
def handleGen (h : Word) : Nat := bits h 24 8

/-- BASEW and SCALE of a window. -/
def windowOf (w : Nat) : Nat × Nat :=
  match w with
  | 0 => (0x10000000, 1)
  | 1 => (0x20000000, 2)
  | 2 => (0x30000000, 4)
  | 3 => (0x38000000, 4)
  | _ => (0x40000000, 8)

/-- The address of a tile's first byte through its handle's window. -/
def handleBase (h : Word) : Word := BitVec.ofNat 32 ((windowOf (handleWin h)).1 + (windowOf (handleWin h)).2 * handleOff h)

/-- A slot's region with keys entered. -/
def State.enterKeys (s : State) (rs ws : List Nat) : State := s.modMe fun x => { x with region := x.region.keyed rs ws }

/-! ## TPART (R287) -/

/-- The cause of a partition change. -/
def State.tpartCause (s : State) (k base w1 w2 : Word) : Option (Nat × Word) :=
  let count := bits w1 9 13
  let size := 2 ^ bits w1 0 5
  let stop := base.toNat + count * size
  if !s.src.rt then some (0x248, 0)
  else if 15 < k.toNat then some (0x241, k)
  else if count != 0 && (bits w1 5 4 != 0 || bits w2 16 16 != 0 || bits w1 0 5 < 9 || 18 < bits w1 0 5 || 4096 < count) then
    some (0x246, w1)
  else if count != 0 && (base.toNat % size != 0 || base.toNat < 0x10000000 || 0x10200000 < stop) then some (0x246, base)
  else if count != 0 && ((s.cluster s.myCluster).parts.any fun p =>
      p.1 != k.toNat && overlaps base.toNat (count * size) p.2.base (p.2.count * 2 ^ p.2.szlog)) then some (0x247, base)
  else
    match s.part s.myCluster k.toNat with
    | some p => if p.tiles.any fun t => t.2.state != .free then some (0x247, k) else none
    | none => none

/-- TPART (R287). -/
def execTpart (a c : BitVec 5) (s : State) : Host.Outcome State Fault Refusal :=
  word { s := a.toNat :: regsFrom c 4 } (fun s =>
    let k := s.rS a
    match s.tpartCause k (s.quad c 0) (s.quad c 1) (s.quad c 2) with
    | some (code, v) => s.raise code v
    | none =>
      (s.enterKeys [useKey k.toNat] [cfgKey k.toNat]).effect
        (.tpart k.toNat (s.quad c 0) (s.quad c 1) (s.quad c 2) (s.quad c 3))) s

/-! ## TALLOC and TALLOCN (R291) -/

/-- The cause of an allocation. -/
def State.tallocCause (s : State) (k n : Word) : Option (Nat × Word) :=
  match if k.toNat ≤ 15 then s.part s.myCluster k.toNat else none with
  | none => some (0x241, k)
  | some p =>
    if p.domain ≠ s.me.domain then some (0x240, k)
    else if n = 0 ∨ 65535 < n.toNat then some (0x24A, n) else none

/-- A tile is taken by the acting slot's open region, with its count and lifetime; its handle is the result (R291). -/
def State.takeTile (s : State) (d : BitVec 5) (k t : Nat) (p : Partition) (n life : Word) : State :=
  let x := p.tile t
  let key := tileKey (p.off t)
  let p1 := (p.setTile t { x with state := .provisional, count := n.toNat, life := life.toNat, expiry := none })
  ((s.setPart s.myCluster k p1).enterKeys [key] [key]).wS d (BitVec.ofNat 32 (x.gen * 2 ^ 24 + p.off t))

/-- The kept tile of a partition that a replayed allocation takes (spec/14_host.md R395). -/
def Region.keptTile (r : Region) (k cfg : Nat) : Option (Nat × Nat × Nat × Nat) :=
  r.kept.tiles.find? fun t => t.1 == k && t.2.2.1 == cfg

/-- The allocation behind its checks: a kept or granted tile, the head of the free list, or a wait (R291). -/
def State.allocate (s : State) (wait : Bool) (d : BitVec 5) (k : Nat) (p : Partition) (n life : Word) : State :=
  let s1 := s.enterKeys [cfgKey k] [useKey k]
  let bound (s : State) (t : Nat) (kept : List (Nat × Nat × Nat × Nat)) : State :=
    s.modMe fun x =>
      { x with region := { x.region with res := { x.region.res with tiles := x.region.res.tiles ++ [(k, t, p.cfg, x.region.bundles)] },
                                         kept := { x.region.kept with tiles := kept } } }
  match s.me.region.keptTile k p.cfg with
  | some r => (bound s1 r.2.1 (s.me.region.kept.tiles.erase r)).takeTile d k r.2.1 p n life
  | none =>
    match s.me.grant with
    | some g => (s1.modMe fun x => { x with grant := none }).takeTile d k g.2 p n life
    | none =>
      match p.free with
      | t :: ts => (bound s1 t s.me.region.kept.tiles).takeTile d k t { p with free := ts } n life
      | [] =>
        if !wait then s1.wS d 0xFFFFFFFF
        else if s.me.region.atomic then s.raise 0x249 (BitVec.ofNat 32 k)
        else if p.waiters.any fun w => w.slot == s.cur then s.stallFor (.wait true)
        else s.stallFor (.force (.talloc k 0))

/-- The body of both allocations. -/
def talloc (wait : Bool) (t a b c : BitVec 5) (s : State) : Host.Outcome State Fault Refusal :=
  word (useS [t, a, b, c]) (fun s =>
    let k := s.rS a
    match s.tallocCause k (s.rS b), s.part s.myCluster k.toNat with
    | none, some p => s.allocate wait t k.toNat p (s.rS b) (s.rS c)
    | some (code, v), _ => s.raise code v
    | none, none => s.raise 0x241 k) s

/-- TALLOC (R291). -/
def execTalloc (t a b c : BitVec 5) (s : State) : Host.Outcome State Fault Refusal := talloc true t a b c s

/-- TALLOCN never waits (R291). -/
def execTallocn (t a b c : BitVec 5) (s : State) : Host.Outcome State Fault Refusal := talloc false t a b c s

/-! ## The checks of a handle (R295) -/

/-- Does the acting region, which is its gang's (spec/04_control.md R123), hold a decrement of a tile? -/
def State.holdsDecrement (s : State) (k t : Nat) : Bool :=
  (s.gangEffects s.cur).any fun e => match e with | .consume i j _ => i == k && j == t | _ => false

/-- The reads that the pending decrement and the TABANs of the acting region, its gang's, take from a tile. -/
def State.pendingReads (s : State) (k t : Nat) : Nat :=
  (s.gangEffects s.cur).foldl (fun n e => match e with
    | .consume i j _ => if i = k ∧ j = t then n + 1 else n
    | .giveUp i j _ m => if i = k ∧ j = t then n + m else n
    | _ => n) 0

/-- A refusal of a consuming access, as the violation log records it (R19, R295). -/
def State.consumeRefusal (s : State) (reason : Nat) (addr : Word) : Violation :=
  { kind := 3, reason := reason, chip := s.chip, who := s.cur, key := 0, addr := addr.toNat }

/-- A handle's tile after the checks of R295 on the handle, or the cause with its TVAL and the refusal that is logged.
`addr` is the TVAL of 0x240. -/
def State.checkHandle (s : State) (h addr : Word) : Except (Nat × Word × Option Violation) (Nat × Partition × Nat) :=
  match s.tileAt s.myCluster (handleOff h) with
  | none => .error (0x241, h, none)
  | some (k, p, t) =>
    let x := p.tile t
    if p.domain ≠ s.me.domain then .error (0x240, addr, none)
    else if handleGen h ≠ x.gen then .error (0x242, h, some (s.consumeRefusal 6 addr))
    else if !(x.state == .live || x.state == .held) || (!s.holdsDecrement k t && x.count ≤ s.pendingReads k t) then
      .error (0x243, h, some (s.consumeRefusal 7 addr))
    else .ok (k, p, t)

/-- A cause with the refusal that it logs. -/
def State.raiseLogged (s : State) (c : Nat × Word × Option Violation) : State :=
  (match c.2.2 with | some v => s.logBundle v | none => s).raise c.1 c.2.1

/-- Does an element at a local address lie outside a tile; the scale byte of a B4 element may (R295)? -/
def State.outsideTile (s : State) (p : Partition) (t : Nat) (a : Word) : Bool :=
  let lo := flatRam s.myCluster (p.off t)
  let out (b : Nat) : Bool := b < lo || lo + 2 ^ p.szlog ≤ b
  match s.locate a with
  | some (.block b _ _) => out b
  | some q => (q.bytes 4).any out || (q.bytes 4).isEmpty
  | none => true

/-- A consuming access at some addresses, which have passed checks 1-4 of R114: its checks, then the read, the tile's key
and the decrement (R295, R296). -/
def State.consumeAt (s : State) (h : Word) (addrs : List Word) (foreign : Option Word) (read : State → State) : State :=
  let addr := addrs.headD 0
  match s.checkHandle h (foreign.getD addr) with
  | .error c => s.raiseLogged c
  | .ok (k, p, t) =>
    match foreign, addrs.find? (s.outsideTile p t) with
    | some a, _ => s.raise 0x240 a
    | none, some a => s.raise 0x244 a
    | none, none =>
      let key := tileKey (p.off t)
      let s1 := read s
      if s.holdsDecrement k t then s1.enterKeys [key] [] else (s1.enterKeys [key] [key]).effect (.consume k t p.cfg)

/-- LDC (R295). -/
def execLdc (d a : BitVec 5) (o : BitVec 14) (s : State) : Host.Outcome State Fault Refusal :=
  word (useS [d, a]) (fun s =>
    let h := s.rS a
    let x := handleBase h + BitVec.ofInt 32 (o.toInt * 4)
    let read (s : State) : State := let r := s.readAt x 4; r.2.deliver (loadS d r.1)
    if 4 < handleWin h then s.raise 0x241 h
    else
      match s.checkLocal x 4 true false (x.toNat % 4 == 0) 0x010 with
      | some 0x240 => s.consumeAt h [x] (some x) read
      | some c => s.raise c x
      | none => s.consumeAt h [x] none read) s

/-- The address of lane i of VLDC (R295). -/
def vldcAddr (a : BitVec 5) (o : BitVec 10) (s : State) (i : Nat) : Word :=
  handleBase (s.rS a) + BitVec.ofInt 32 (o.toInt * 64) + BitVec.ofNat 32 (4 * i)

/-- VLDC; with no lane included it makes no access (R295). -/
def execVldc (v : BitVec 6) (a : BitVec 5) (p : BitVec 3) (o : BitVec 10) (s : State) :
    Host.Outcome State Fault Refusal :=
  word { s := [a.toNat], v := [v.toNat] } (fun s =>
    let h := s.rS a
    let m := s.rP p.toNat
    let at_ := vldcAddr a o s
    let read (s : State) : State :=
      let data := vecOf fun i => if lane m i then (s.readAt (at_ i) 4).1 else 0
      ((lanesOf m).foldl (fun t i => (t.readAt (at_ i) 4).2) s).deliver (loadV v m data)
    if lanesOf m = [] then s
    else if 4 < handleWin h then s.raise 0x241 h
    else
      match s.checkLanes m at_ false (fun _ => (at_ 0).toNat % 64 == 0) with
      | some (0x240, x) => s.consumeAt h ((lanesOf m).map at_) (some x) read
      | some (c, x) => s.raise c x
      | none => s.consumeAt h ((lanesOf m).map at_) none read) s

/-- TABAN: gives up sb reads, or all that remain when sb is 0 (R301). -/
def execTaban (a b : BitVec 5) (s : State) : Host.Outcome State Fault Refusal :=
  word (useS [a, b]) (fun s =>
    let h := s.rS a
    if 4 < handleWin h then s.raise 0x241 h
    else
      match s.checkHandle h h with
      | .error c => s.raiseLogged c
      | .ok (k, p, t) =>
        let v := (p.tile t).count - s.pendingReads k t
        let n := if s.rS b = 0 then v else (s.rS b).toNat
        let key := tileKey (p.off t)
        if v < n then s.raise 0x245 (s.rS b) else (s.enterKeys [key] [key]).effect (.giveUp k t p.cfg n)) s

/-! ## TQRY (R304, R305) -/

/-- The code of a tile's state. -/
def TileState.code : TileState → Nat
  | .free => 0
  | .provisional => 1
  | .live => 2
  | .held => 3
  | .quarantined => 4

/-- The result of a query of kind `part` or `stat` about an enabled partition. -/
def Partition.report (p : Partition) (stat : Bool) : Word :=
  if stat then BitVec.ofNat 32 (min 65535 p.aband * 2 ^ 16 + min 65535 p.lost)
  else
    BitVec.ofNat 32 (2 ^ 31 + (if p.pol then 2 ^ 30 else 0) + (if p.conf then 2 ^ 29 else 0) + p.free.length * 2 ^ 16
      + p.waiters.length * 2 ^ 10 + p.szlog)

/-- The result of a query of kind `tile`. -/
def Partition.reportTile (p : Partition) (k t : Nat) (h : Word) : Word :=
  let x := p.tile t
  BitVec.ofNat 32 (x.state.code * 2 ^ 29 + (if handleGen h = x.gen then 2 ^ 28 else 0) + k * 2 ^ 24 + x.gen * 2 ^ 16 + x.count)

/-- TQRY (R304). -/
def execTqry (t a q : BitVec 5) (s : State) : Host.Outcome State Fault Refusal :=
  word (useS [t, a]) (fun s =>
    let x := s.rS a
    let closed (p : Partition) : Bool := p.domain != s.me.domain && !s.src.rt
    if q = 1 then
      match if 4 < handleWin x then none else s.tileAt s.myCluster (handleOff x) with
      | none => s.raise 0x241 x
      | some (k, p, j) => if closed p then s.raise 0x240 x else s.wS t (p.reportTile k j x)
    else if 15 < x.toNat then s.raise 0x241 x
    else
      match s.part s.myCluster x.toNat with
      | none => s.wS t 0
      | some p => if closed p then s.raise 0x240 x else s.wS t (p.report (q == 2))) s

end Sys2Proof.Machine
end

