-- ==== Sys2Proof/Machine/Messages.lean ====
section
/-!
DEFINITION. The instructions of the message interface (spec/11_messages.md R310-R323).
-/

namespace Sys2Proof.Machine

/-- The signature key of a cluster's ring generation counter (R315). -/
def ringKey : Nat := 0x8001020

/-- RING and CORE of a handle (R314). -/
def handleRing (h : Word) : Nat := bits h 20 4
/-- CORE. -/
def handleCore (h : Word) : Nat := bits h 17 3

/-- The ring of a handle of the acting slot, or the cause (R314). -/
def State.ringOf (s : State) (h : Word) : Except Nat (Nat × Ring) :=
  let k := handleRing h
  let closing := s.me.region.effects.any fun e => match e with | .rclose j => j == k | _ => false
  let r := (s.core (s.cur / 4)).ring k
  if bits h 0 17 ≠ 0 ∨ handleCore h ≠ coreOf s.cur ∨ !r.isOpen ∨ closing ∨ r.gen ≠ handleGen h then .error 0x284
  else if r.slot ≠ s.cur then .error 0x285
  else .ok (k, r)

/-- Does a range of the scratchpad lie in a partition of another domain (R315)? -/
def State.padForeign (s : State) (a n : Nat) : Bool :=
  (s.cluster s.myCluster).parts.any fun p =>
    p.2.domain != s.me.domain && overlaps a n p.2.base (p.2.count * 2 ^ p.2.szlog)

/-- The kept reservation that a replayed ROPEN takes (spec/14_host.md R395). -/
def Region.keptRing (r : Region) (h : Word) (logn : Nat) : Option (Nat × Word × Nat) :=
  r.kept.rings.find? fun k => k.2.1 == h && k.2.2 == logn

/-- The lowest ring of the acting core that is neither open nor reserved (R315). -/
def State.freeRing (s : State) : Option Nat :=
  let core := s.cur / 4
  (List.range 16).find? fun k =>
    !((s.core core).rings.any fun r => r.1 == k && r.2.isOpen) && !((s.reservedRings core).any fun r => r.1 == k)

/-- ROPEN behind its checks: the ring is reserved, its handle written, and the ring change appended; the ROPENs of the whole gang's
region come before it (R315, spec/04_control.md R123). -/
def State.reserveRing (s : State) (t : BitVec 5) (h c : Word) (k : Nat) (kept : List (Nat × Word × Nat)) : State :=
  let logn := bits c 0 4
  let earlier := ((s.gangEffects s.cur).filter fun e => match e with | .ropen _ _ _ _ _ => true | _ => false).length
  let gen := ((s.cluster s.myCluster).ringOpens + earlier) % 256
  let lines := (List.range 4).foldl (fun x i => x ||| sigBits (flatPad s.myCluster (h.toNat + 64 * i))) 0
  let s1 := (s.enterKeys [ringKey] [ringKey]).modMe fun x =>
    { x with region := { x.region with
        wsig := x.region.wsig ||| lines
        res := { x.region.res with rings := x.region.res.rings ++ [(k, h, logn)] }
        kept := { x.region.kept with rings := kept } } }
  (s1.wS t (BitVec.ofNat 32 (gen * 2 ^ 24 + k * 2 ^ 20 + coreOf s.cur * 2 ^ 17))).effect (.ropen k h logn (bit c 31) gen)

/-- ROPEN (R315). -/
def execRopen (t a b : BitVec 5) (s : State) : Host.Outcome State Fault Refusal :=
  word (useS [t, a, b]) (fun s =>
    let h := s.rS a
    let c := s.rS b
    let logn := bits c 0 4
    let size := ringBytes logn
    let kept := s.me.region.keptRing h logn
    let others := (s.ringsOf s.myCluster).erase (if kept.isSome then (h.toNat, size) else (0, 0))
    if bits c 4 27 ≠ 0 ∨ logn < 2 ∨ 12 < logn then s.raise 0x281 c
    else if h.toNat % 256 ≠ 0 ∨ h.toNat < 0x10000000 ∨ 0x10000000 + ramSize s.myCluster < h.toNat + size then s.raise 0x280 h
    else if s.padForeign h.toNat size then s.raise 0x280 h
    else if others.any fun r => overlaps h.toNat size r.1 r.2 then s.raise 0x282 h
    else
      match kept, s.freeRing with
      | some r, _ => s.reserveRing t h c r.1 (s.me.region.kept.rings.erase r)
      | none, some k => s.reserveRing t h c k s.me.region.kept.rings
      | none, none => s.raise 0x283 0) s

/-- RCLOSE (R316). -/
def execRclose (a : BitVec 5) (s : State) : Host.Outcome State Fault Refusal :=
  word (useS [a]) (fun s =>
    match s.ringOf (s.rS a) with
    | .error c => s.raise c (s.rS a)
    | .ok (k, _) => s.effect (.rclose k)) s

/-- The pod address of a ring reference's header (R318). -/
def refHeader (hi lo : Word) : Nat := podAddr hi lo / 256 * 256

/-- A send: its reference, the right to send to its page, then the rest of its bundle (R318). -/
def State.sendWord (s : State) (a b : BitVec 5) (k : Nat → Page → State → State) : State :=
  let hi := s.rS a
  let h := refHeader hi (s.rS b)
  if notCanonical hi then s.raise 0x288 hi
  else
    s.withPages sndRight 4 [h] fun ps s =>
      match ps with
      | p :: _ => k h p s
      | [] => s

/-- SEND: four registers are the payload (R318). -/
def execSend (t a b c : BitVec 5) (s : State) : Host.Outcome State Fault Refusal :=
  word { s := [t.toNat, a.toNat, b.toNat] ++ regsFrom c 4 } (fun s =>
    s.sendWord a b fun h p s =>
      s.launch t (.send t.toNat
        { header := h, page := p, gen := bits (s.rS b) 0 8, vector := false,
          words := (List.range 4).flatMap fun i => leBytes 4 (s.quad c i).toNat, src := 0, len := 16 })) s

/-- SENDV: the payload is memory (R318). -/
def execSendv (t a b c : BitVec 5) (s : State) : Host.Outcome State Fault Refusal :=
  word { s := [t.toNat, a.toNat, b.toNat] ++ regsFrom c 2 } (fun s =>
    s.sendWord a b fun h pg s =>
      let p := s.quad c 0
      let len := (s.quad c 1).toNat
      if len = 0 ∨ 960 < len ∨ len % 4 ≠ 0 then s.raise 0x287 (s.quad c 1)
      else if p.toNat % 4 ≠ 0 ∨ (outsideLocal s.myCluster (p.toNat, len)).isSome then s.raise 0x289 p
      else
        let f := s.flatLocal p.toNat
        if (List.range len).any fun i => s.otherPool s.me.domain (f + i) then s.raise 0x28A p
        else
          s.launch t (.send t.toNat
            { header := h, page := pg, gen := bits (s.rS b) 0 8, vector := true, words := [], src := f, len := len })) s

/-- Does a RECV that has forced its commit still wait for a commit that writes the word at H (R323)? -/
def State.recvWaits (s : State) (h : Nat) : Bool := (s.cluster s.myCluster).recvs.contains (s.cur, h)

/-- The body of RECV and RECVN (R323). -/
def recv (wait : Bool) (t a : BitVec 5) (s : State) : Host.Outcome State Fault Refusal :=
  word (useS [t, a]) (fun s =>
    let x := s.rS a
    match s.ringOf x with
    | .error c => s.raise c x
    | .ok (_, r) =>
      let h := flatPad s.myCluster r.header.toNat
      let tail := BitVec.ofNat 32 (s.peekNat h 4)
      let head := BitVec.ofNat 32 (s.peekNat (h + 0x40) 4)
      let s1 := s.noteRead [h, h + 0x40]
      if wait && s.recvWaits h then s.stallFor (.wait true)
      else if tail ≠ head then
        s1.wS t (r.header + 0x100 + BitVec.ofNat 32 (64 * (head.toNat % 2 ^ r.logn)))
      else if !wait then s1.wS t 0
      else if s.me.region.atomic then s.raise 0x286 x
      else s.stallFor (.force (.recv h))) s

/-- RECV (R323). -/
def execRecv (t a : BitVec 5) (s : State) : Host.Outcome State Fault Refusal := recv true t a s

/-- RECVN (R323). -/
def execRecvn (t a : BitVec 5) (s : State) : Host.Outcome State Fault Refusal := recv false t a s

end Sys2Proof.Machine
end

