-- ==== Sys2Proof/Machine/PullSteps.lean ====
section
/-!
DEFINITION. The steps of the pull units and of the owners' ports that serve reads and watches (spec/09_pull.md R253-R278,
spec/13_fabric.md R371).
-/

namespace Sys2Proof.Machine

/-! ## Serving reads (R254) -/

/-- Exactly n bytes of some data. -/
def fitBytes (n : Nat) (data : List Byte) : List Byte := (data ++ List.replicate n 0).take n

/-- The STATEs with which an owner's port answers a request (R278, spec/11_messages.md R327, spec/14_host.md R402): of a line,
of a TAKE, of a consuming pull, of a watch, of a send. -/
def Asked.states (a : Asked) (take : Bool) : List Nat :=
  match a with
  | .consume => [0x40, 0x41, 0x43, 0x81, 0x82]
  | .watch => [0x00, 0x01, 0x40, 0x42, 0x43, 0x80]
  | .message => [0x40, 0x41, 0x43, 0x80]
  | _ => if take then [0x40, 0x43, 0x81, 0x84] else [0x40, 0x43, 0x81]

/-- What an owner outside the module answers to a request for n bytes: the lines of a foreign owner carry stamp 0
(spec/13_fabric.md R374), a TAKE is not served from discarded bytes, and a STATE that no owner gives is no answer. -/
def State.peerLine (s : State) (chip n : Nat) (asked : Asked) (take : Bool) : PeerAnswer → Option Answer
  | .line data stamp disc =>
    some (if take && disc then .fail 0x84 else .line (fitBytes n data) (if s.foreign chip then 0 else stamp) disc)
  | .refused state => if (asked.states take).contains state then some (.fail state) else none
  | .error => some (.fail (if asked = .message then 0x40 else 0x81))
  | .late _ => none

/-- What a peer sends arrives for a request: an answer, or one to a request that is no longer outstanding, which only shows
that the peer answers (spec/13_fabric.md R369, R372). -/
def State.takeAnswer (s : State) (chip gc id n : Nat) (asked : Asked) (take : Bool) (peer : PeerAnswer) : State :=
  match peer, s.peerLine chip n asked take peer with
  | .late c, _ => s.heard c
  | _, some a => s.peerAnswer gc id asked a
  | _, none => s

/-- Does the source of a TAKE lie wholly in one sealed range of its owner (spec/14_host.md R396)? -/
def State.takeSealed (s : State) (o : PullOp) : Bool :=
  let places := (linesOfRows o.src o.len).map fun n => (pageAt o.pages (64 * n)).bind fun p => s.flatOf p (64 * n)
  match places with
  | some f :: _ =>
    match s.sealOf f with
    | some r => !r.discarded && places.all fun p => match p with
      | some a => r.addr ≤ a && a + 64 ≤ r.addr + r.len
      | none => false
    | none => false
  | _ => false

/-- The owner's port serves a line of an operation of the module: the answer, and a refusal that is logged (R254, R278;
spec/14_host.md R396). -/
def State.serveOpLine (s : State) (o : PullOp) (p : Page) (n : Nat) : Answer × State :=
  let r := s.serveLine o.slot p o.kind.ask (64 * n)
  match r.1 with
  | .fail _ => r
  | .line _ _ _ =>
    if o.kind = .take ∧ !s.takeSealed o then (.fail 0x84, s) else r

/-- OWNER_READ_REQUEST: the request of a cluster's fetch, or of line n of one of its operations, is served by its owner's
port; `peer` says what an owner outside the module does. A fenced requester's request is dropped, and an acquire of an alias's
word waits until host memory has it (R254, spec/01_engines.md R39, R46). -/
def execOwnerReadRequest (gc id n : Nat) (peer : PeerAnswer) (s : State) : Host.Outcome State Fault Refusal :=
  if (s.cluster gc).fenced then .next s
  else
    match (s.pull gc).fetches.find? fun f => f.id == id && f.answer.isNone with
    | some f =>
      let ask : Ask := if f.acq then .acquire else .read
      match s.pageAwaited f.page f.addr with
      | some q => .next (s.askPage q.1 q.2)
      | none =>
      if s.acquireWaits f.page ask f.addr then .next s
      else if f.page.chip = s.chip then
        let r := s.serveLine f.slot f.page ask f.addr
        .next (r.2.answerOp gc id .fetch r.1)
      else .next (s.takeAnswer f.page.chip gc id 64 .fetch false peer)
    | none =>
      match (s.pull gc).ops.find? fun o => o.id == id && (mfind o.lines n).isNone && (linesOfRows o.src o.len).contains n with
      | none => .next (match peer with | .late c => s.heard c | _ => s)
      | some o =>
        if o.kind.isLocal || o.kind.ask == .consume then .next s
        else
          match pageAt o.pages (64 * n) with
          | none => .next s
          | some p =>
            match s.pageAwaited p (64 * n) with
            | some q => .next (s.askPage q.1 q.2)
            | none =>
            if s.acquireWaits p o.kind.ask (64 * n) then .next s
            else if p.chip = s.chip then
              let r := s.serveOpLine o p n
              .next (r.2.answerOp gc id (.line n) r.1)
            else .next (s.takeAnswer p.chip gc id 64 (.line n) (o.kind == .take) peer)

/-! ## Remote loads (R259-R262, R266) -/

/-- A fetched line enters the reader cache in place of any older copy, unless a barrier or an invalidation has dropped it on
its way; a line with discarded bytes is not kept (R260, R266, spec/14_host.md R397). -/
def State.enterLine (s : State) (gc : Nat) (f : LineFetch) (data : List Byte) (stamp : Nat) (disc : Bool) : State :=
  let l : CacheLine :=
    { addr := f.addr, chip := f.page.chip, owner := f.page.owner, stamp := stamp, till := f.till, data := data }
  if isMem gc then s
  else
    s.modPull gc fun u =>
      let rest := u.cache.filter fun c => !(c.addr == l.addr && c.chip == l.chip && c.owner == l.owner)
      { u with cache := if f.keep && !disc then (l :: rest).take 4096 else rest }

/-- The loads of a slot that wait for a fetch. -/
def Load.awaits (l : Load) (id : Nat) : Bool := l.fetch == some id

/-- The words of a fetched line reach the loads of a slot that waited for it (R143, R259); a discarded byte sets DISCARD,
which the checkpoint takes with the word. -/
def Slot.receive (x : Slot) (id : Nat) (data : List Byte) (disc : Bool) : Slot :=
  let ls := x.loads.filter fun l => l.awaits id
  ls.foldl (fun x l =>
    let put (r : Regs) : Regs :=
      let r1 := r.arrive { l with word := lineWord data l.addr }
      if disc then { r1 with status := withBit r1.status 16 true } else r1
    { x with
      live := put x.live
      region := { x.region with ckpt := if l.region = x.region.no then x.region.ckpt else put x.region.ckpt } })
    { x with loads := x.loads.filter fun l => !l.awaits id }

/-- The loads of a slot that waited for a fetch fail at the slot's next boundary (R262). -/
def Slot.failLoads (x : Slot) (id code : Nat) : Slot :=
  { x with
    loads := x.loads.filter fun l => !l.awaits id
    fails := x.fails ++ (x.loads.filter fun l => l.awaits id).map fun l => (code, BitVec.ofNat 32 l.addr, l.pc, l.region) }

/-- The loads of a slot wait for another fetch. -/
def Slot.refetch (x : Slot) (id new : Nat) : Slot :=
  { x with loads := x.loads.map fun l => if l.awaits id then { l with fetch := some new } else l }

/-- Every slot of a cluster changed. -/
def State.modSlots (s : State) (gc : Nat) (f : Slot → Slot) : State := (s.slotsOf gc).foldl (fun s g => s.modSlot g f) s

/-- The answer of a fetch that is complete: SEQLD.A cleans the cache first; a line that an acquire has outdated is fetched
again for the loads that wait (R261, R262, R266). -/
def State.endFetch (s : State) (gc : Nat) (f : LineFetch) (a : Answer) : State :=
  let s1 := (s.modPull gc fun u => { u with fetches := u.fetches.filter fun x => x.id != f.id }).dropRequests gc f.id
  match a with
  | .fail n => s1.modSlots gc fun x => x.failLoads f.id (loadCause n)
  | .line data stamp disc =>
    if !f.acq ∧ stamp < f.floor then
      if (s.slotsOf gc).any fun g => (s.slot g).loads.any fun l => l.awaits f.id then
        let r := s1.issueFetch f.slot f.page f.addr false
        r.2.modSlots gc fun x => x.refetch f.id r.1
      else s1
    else
      let s2 := if f.acq then s1.clean gc f.page.chip f.page.owner stamp else s1
      let s3 := if stamp < f.floor then s2 else s2.enterLine gc f data stamp disc
      s3.modSlots gc fun x => x.receive f.id data disc

/-- REMOTE_LOAD_ANSWER: the answer to a fetch of a cluster arrives (R262). -/
def execRemoteLoadAnswer (gc id : Nat) (s : State) : Host.Outcome State Fault Refusal :=
  match (s.pull gc).fetches.find? fun f => f.id == id with
  | some f => .next (match f.answer with | some a => s.endFetch gc f a | none => s)
  | none => .next s

/-- LEASE_EXPIRY: the lines of a reader cache whose lease has ended are no longer returned (R260). -/
def execLeaseExpiry (gc : Nat) (s : State) : Host.Outcome State Fault Refusal :=
  .next (s.modPull gc fun u => { u with cache := u.cache.filter fun l => s.ckOf gc < l.till })

/-! ## Copies and the verify form (R271, R275) -/

/-- An operation of a cluster by its number. -/
def State.opOf (s : State) (gc id : Nat) : Option PullOp := (s.pull gc).ops.find? fun o => o.id == id

/-- Does a local source hold a discarded byte (spec/14_host.md R397)? -/
def State.anyDiscarded (s : State) (rs : List (Nat × Nat)) : Bool :=
  rs.any fun r => (List.range r.2).any fun i => s.isDiscarded (r.1 + i)

/-- The local bytes that an operation reads: its rows, and the digest of a verify form. -/
def State.localBytes (s : State) (o : PullOp) : List Byte :=
  (o.src.flatMap fun a => s.ownBytes a o.len) ++ (match o.kind with | .verify dig => s.ownBytes dig 32 | _ => [])

/-- The local ranges that an operation reads. -/
def PullOp.locals (o : PullOp) : List (Nat × Nat) :=
  (o.src.map fun a => (a, o.len)) ++ (match o.kind with | .verify dig => [(dig, 64)] | _ => [])

/-- An operation has read its registered ranges into staging and releases them; an uncorrectable error ends it, and it waits
for an absent host page (spec/05_commit.md R151, R153, R278; spec/14_host.md R401). -/
def State.stageOp (s : State) (gc : Nat) (o : PullOp) : State :=
  if !o.kind.isLocal || o.bytes.isSome then s
  else if (s.faultyIn o.locals).isSome then s.failPull gc o 0x81 false
  else
    match s.absentIn o.locals with
    | some p => s.askPage p.1 p.2
    | none =>
    let s1 := if s.anyDiscarded o.locals then s.modSlot o.slot Slot.markDiscard else s
    (s1.release gc 1 o.id).modPull gc fun u =>
      { u with ops := u.ops.map fun x => if x.id = o.id then { x with bytes := some (s.localBytes o) } else x }

/-- The bytes of a copy at its destination. -/
def PullOp.copied (o : PullOp) : FMap Byte :=
  let b := o.bytes.getD []
  placeRows o.dst o.len fun r i => b.getD (r * o.len + i) 0

/-- What an operation asks of the commit unit: the commit of its completion with some bytes (spec/05_commit.md R152, R156). -/
def PullOp.completion (o : PullOp) (ws : FMap Byte) : Done :=
  { engine := 1, slot := o.slot, st := o.st, state := 0, disc := false, no := o.id, work := .op o.id, lines := linesOf ws }

/-- The host page that some bytes wait for on their way to a bound alias, as it is not in the cache of host translations
(spec/14_host.md R401). -/
def State.absentFor (s : State) (ws : FMap Byte) : Option (Nat × Nat) := (linesOf ws).findSome? fun l => s.absentPage (64 * l)

/-- A completion with its bytes: refused where they may not be written, kept waiting for a host page, and while its commit is held
(R276, spec/05_commit.md R152, spec/14_host.md R401). `acq` is the owner and the stamp of an acquire, which cleans the cache first
(R261, R273). -/
def State.completeOp (s : State) (gc : Nat) (o : PullOp) (state : Nat) (disc : Bool) (ws : FMap Byte)
    (acq : Option (Nat × Nat × Nat)) : State :=
  if !s.mayWrite o.domain ws then s.failPull gc o 0x40 false
  else
    match s.absentFor ws with
    | some p => s.askPage p.1 p.2
    | none => s.attempt gc (o.completion ws) fun s =>
      let s1 := match acq with | some (chip, owner, k) => s.clean gc chip owner k | none => s
      s1.finishPull gc o state disc ws

/-- CPY_COMPLETE: a copy writes its destination and its token in one commit (R271, R276). -/
def execCpyComplete (gc id : Nat) (s : State) : Host.Outcome State Fault Refusal :=
  let s := s.settle gc
  match s.opOf gc id with
  | none => .next s
  | some o =>
    if o.kind ≠ .cpy then .next s
    else
      let s1 := s.stageOp gc o
      match s1.opOf gc id with
      | some o1 => .next (if o1.bytes.isSome then s1.completeOp gc o1 0x00 false o1.copied none else s1)
      | none => .next s1

/-- PULLD_VERIFY_COMPLETE: the digest of the bytes is compared with the digest line (R275). -/
def execPulldVerifyComplete (gc id : Nat) (s : State) : Host.Outcome State Fault Refusal :=
  let s := s.settle gc
  match s.opOf gc id with
  | none => .next s
  | some o =>
    match o.kind with
    | .verify _ =>
      let s1 := s.stageOp gc o
      match s1.opOf gc id with
      | some o1 =>
        let b := o1.bytes.getD []
        .next (if o1.bytes.isSome
          then s1.completeOp gc o1 (if sha256 (b.take o1.len) = b.drop o1.len then 0x00 else 0x83) false [] none else s1)
      | none => .next s1
    | _ => .next s

/-! ## Pulls (R272-R276) -/

/-- The acquire that the completion of an operation is: its owner, and the greatest stamp of its lines (R273). -/
def PullOp.acquired (o : PullOp) : Option (Nat × Nat × Nat) :=
  if o.kind.acquires then o.pages.head?.map fun p => (p.chip, p.owner, o.stamp) else none

/-- The kinds that PULL_COMPLETE ends. -/
def PullKind.plain : PullKind → Bool
  | .pull _ => true
  | .take => true
  | .footprint _ _ => true
  | .refresh _ _ => true
  | _ => false

/-- The completion of an operation whose lines have arrived: a failure on any line writes nothing; bytes of a discarded page
give STATE 0x02 (R276, R278). `extra` are bytes it writes beside its rows. -/
def State.endPull (s : State) (gc : Nat) (o : PullOp) (extra : FMap Byte) : State :=
  match o.failure with
  | some n => s.failPull gc o n false
  | none =>
    if !o.complete then s
    else s.completeOp gc o (if o.disc then 0x02 else 0x00) o.disc (o.gather ++ extra) o.acquired

/-- PULL_COMPLETE: a pull whose lines have all arrived commits its destination and its token (R272, R273, R276). -/
def execPullComplete (gc id : Nat) (s : State) : Host.Outcome State Fault Refusal :=
  let s := s.settle gc
  match s.opOf gc id with
  | some o => .next (if o.kind.plain then s.endPull gc o [] else s)
  | none => .next s

/-- The digest line of some bytes (R275). -/
def digestLine (dig : Nat) (bs : List Byte) : FMap Byte :=
  placed dig (sha256 bs ++ leBytes 4 bs.length ++ List.replicate 28 0)

/-- PULLD_COMPLETE: a digesting pull commits its bytes, its digest line and its token (R275). -/
def execPulldComplete (gc id : Nat) (s : State) : Host.Outcome State Fault Refusal :=
  let s := s.settle gc
  match s.opOf gc id with
  | none => .next s
  | some o =>
    match o.kind with
    | .pulld _ dig => .next (s.endPull gc o (digestLine dig (o.gather.map Prod.snd)))
    | _ => .next s

/-- The bytes that an operation whose reads have ended is to write, none before they have (R271-R276). -/
def PullOp.writes (o : PullOp) : FMap Byte :=
  if o.failure.isSome then []
  else
    match o.kind with
    | .cpy => if o.bytes.isSome then o.copied else []
    | .verify _ => []
    | .pullc _ => match mfind o.lines 0 with | some (.line data _ _) => placed (o.dst.headD 0) (fitBytes o.len data) | _ => []
    | .pulld _ dig => if o.complete then o.gather ++ digestLine dig (o.gather.map Prod.snd) else []
    | _ => if o.complete then o.gather else []

/-- PULLC_ANSWER: the answer to a consuming pull completes it (R274). -/
def execPullcAnswer (gc id : Nat) (s : State) : Host.Outcome State Fault Refusal :=
  let s := s.settle gc
  match s.opOf gc id with
  | none => .next s
  | some o =>
    match o.kind, mfind o.lines 0 with
    | .pullc _, some (.fail n) => .next (s.failPull gc o n false)
    | .pullc _, some (.line data _ disc) =>
      .next (s.completeOp gc o (if disc then 0x02 else 0x00) disc (placed (o.dst.headD 0) (fitBytes o.len data)) none)
    | _, _ => .next s

/-! ## Watches (R267-R270, spec/13_fabric.md R371) -/

/-- A watch of a cluster by its number. -/
def State.watchOf (s : State) (gc id : Nat) : Option Watch := (s.pull gc).watches.find? fun w => w.id == id

/-- A watch changed. -/
def State.modWatch (s : State) (gc id : Nat) (f : Watch → Watch) : State :=
  s.modPull gc fun u => { u with watches := u.watches.map fun w => if w.id = id then f w else w }

/-- A watch placement reaches its owner's port in the module (R267). -/
def State.arriveWatch (s : State) (gc : Nat) (w : Watch) : State :=
  (s.modWatch gc w.id fun x => { x with placed := true }).placeWatch w.page.owner (w.placement s.chip gc)

/-- WATCH_PLACEMENT_ARRIVAL: the placement of a watch reaches the port of its owner, another cluster of the module; a fenced
watcher's is dropped (R267, spec/01_engines.md R46). -/
def execWatchPlacementArrival (gc id : Nat) (s : State) : Host.Outcome State Fault Refusal :=
  match s.watchOf gc id with
  | some w => .next (if w.placed || w.page.chip != s.chip || (s.cluster gc).fenced then s else s.arriveWatch gc w)
  | none => .next s

/-- A watch completes with an outcome: it cleans the cache when it is an acquire, and its token waits for its commit (R261,
R268). -/
def State.finishWatch (s : State) (gc : Nat) (w : Watch) (state stamp : Nat) : State :=
  (if state < 2 then s.clean gc w.page.chip w.page.owner stamp else s).endWatch gc w state

/-- Has a watch been cancelled in an earlier ck, so that no outcome of it is taken any more (R269)? -/
def State.withdrawn (s : State) (gc : Nat) (w : Watch) : Bool := match w.cancel with | some t => t < s.ckOf gc | none => false

/-- Has the time of a WATCHT passed? An answer that arrives in the ck of its end still comes before it (R267, R269). -/
def State.lapsed (s : State) (gc : Nat) (w : Watch) : Bool :=
  match w.expiry with | some t => !w.once && t < s.ckOf gc | none => false

/-- An outcome of a watch that has not been withdrawn reaches the watcher's pull unit, which holds it while the slice is away from its
slot (R270). -/
def State.watchOutcome (s : State) (gc : Nat) (w : Watch) (state stamp : Nat) : State :=
  let x := s.slot w.slot
  if w.heldAnswer.isSome || s.withdrawn gc w then s
  else if x.sliceId ≠ w.slice then
    let s1 := s.dropWatch gc w
    s1.modPull gc fun u => { u with watches := u.watches ++ [{ w with heldAnswer := some (state, stamp) }] }
  else s.finishWatch gc w state stamp

/-- The answer that a peer sends to a watch: one of the STATEs that an owner's port gives, of which 0x42 ends a WATCHT only (R267,
R278). -/
def Watch.peerAnswer (w : Watch) (chip : Nat) (peer : Option (Nat × Nat)) : Option (Nat × Nat) :=
  if w.page.chip = chip then none
  else peer.filter fun a => (Asked.watch.states false).contains a.1 && (a.1 != 0x42 || w.expiry.isSome)

/-- A peer's answer to a watch ends its request and shows that the peer answers (spec/13_fabric.md R371, R372). -/
def State.hearWatch (s : State) (gc : Nat) (w : Watch) (peer : Option (Nat × Nat)) : State :=
  if (w.peerAnswer s.chip peer).isSome then (s.heard w.page.chip).dropRequests gc w.id else s

/-- WATCH_ANSWER_ARRIVAL: the answer to a watch reaches the watcher; `peer` is the STATE and the stamp that an owner outside
the module answers with; one that comes after the end of a WATCHT finds it timed out (R267, R268, R270). -/
def execWatchAnswerArrival (gc id : Nat) (peer : Option (Nat × Nat)) (s : State) : Host.Outcome State Fault Refusal :=
  match s.watchOf gc id with
  | none => .next s
  | some w =>
    let s1 := s.hearWatch gc w peer
    match w.answer.or (w.peerAnswer s.chip peer) with
    | some (state, stamp) => .next (if s1.lapsed gc w then s1.watchOutcome gc w 0x42 0 else s1.watchOutcome gc w state stamp)
    | none => .next s1

/-- WATCHT_EXPIRY: the timeout of a WATCHT has passed with no answer arrived (R267). -/
def execWatchtExpiry (gc id : Nat) (s : State) : Host.Outcome State Fault Refusal :=
  match s.watchOf gc id with
  | none => .next s
  | some w => .next (if s.lapsed gc w && w.cancel.isNone then s.watchOutcome gc w 0x42 0 else s)

/-- A request that has been sent is sent again on another up port; with no port up its owner is unreachable
(spec/13_fabric.md R366, R369). -/
def State.resend (s : State) (r : Request) : State :=
  match s.choosePort (some r.port) with
  | none => (s.endRequest r).answerOp r.gc r.id r.asked (.fail 0x43)
  | some k =>
    let s1 := s.sendOn k r.bytes
    { s1 with reqs := s1.reqs.map fun q => if q = r then { q with last := s.now, sends := q.sends + 1, port := k } else q }

/-- The placement of a watch on another chip is sent again: as the request that is still outstanding, which is left to its turn
while it has not been sent, or as a new one (spec/13_fabric.md R366, R371, R373). -/
def State.refreshWatch (s : State) (gc : Nat) (w : Watch) : State :=
  match s.reqs.find? fun r => r.is gc w.id .watch with
  | some r => if r.first.isSome then s.resend r else s
  | none => s.request w.page.chip gc w.id .watch 64

/-- WATCH_REFRESH: a pull unit sends the placement of a watch on another chip again, 32 us after the last (R371). -/
def execWatchRefresh (gc id : Nat) (s : State) : Host.Outcome State Fault Refusal :=
  match s.watchOf gc id with
  | none => .next s
  | some w =>
    .next (if w.page.chip ≠ s.chip ∧ w.heldAnswer.isNone ∧ w.sent + usUnits 32 ≤ s.now then
      (s.modWatch gc id fun x => { x with sent := s.now }).refreshWatch gc w else s)

/-- WATCH_UNACKED_TIMEOUT: a watch on another chip that goes without acknowledgement for 100 us ends (R371). -/
def execWatchUnackedTimeout (gc id : Nat) (s : State) : Host.Outcome State Fault Refusal :=
  match s.watchOf gc id with
  | none => .next s
  | some w =>
    .next (if w.page.chip ≠ s.chip ∧ w.acked + usUnits 100 ≤ s.now then s.watchOutcome gc w 0x43 0 else s)

/-- WATCH_ACKNOWLEDGEMENT_ARRIVAL: the owner's port has acknowledged a placement or a refresh (R371, R372). -/
def execWatchAcknowledgementArrival (gc id : Nat) (s : State) : Host.Outcome State Fault Refusal :=
  match s.watchOf gc id with
  | none => .next s
  | some w =>
    .next (if w.page.chip = s.chip then s
      else ((s.heard w.page.chip).dropRequests gc id).modWatch gc id fun x => { x with placed := true, acked := s.now })

/-! ## Releases (spec/05_commit.md R151) -/

/-- The payload of a SENDV has been read into staging, and its range is released; an uncorrectable error ends the send, and it
waits for an absent host page (spec/11_messages.md R318, R327). -/
def State.stageSend (s : State) (gc id : Nat) : State :=
  match (s.pull gc).sends.find? fun x => x.id == id && x.payload.isNone with
  | none => s
  | some x =>
    match s.absentIn [(x.msg.src, x.msg.len)] with
    | some p => s.askPage p.1 p.2
    | none =>
    let s1 := if s.anyDiscarded [(x.msg.src, x.msg.len)] then s.modSlot x.slot Slot.markDiscard else s
    (s1.release gc 3 id).modPull gc fun u =>
      { u with sends := u.sends.map fun y =>
          if y.id = id then
            { y with
              payload := some (s.ownBytes x.msg.src x.msg.len)
              answer := if (s.faultyIn [(x.msg.src, x.msg.len)]).isSome then some 0x81 else y.answer }
          else y }

/-- ENGINE_RANGE_RELEASE: an engine has read a registered range into staging and releases it (R151). -/
def execEngineRangeRelease (gc engine op : Nat) (s : State) : Host.Outcome State Fault Refusal :=
  match engine with
  | 0 => execMatrixAFetchDone gc op s
  | 1 => .next (match s.opOf gc op with | some o => s.stageOp gc o | none => s)
  | 3 => .next (s.stageSend gc op)
  | _ => .next s

end Sys2Proof.Machine
end

