-- ==== Sys2Proof/Machine/PoolSteps.lean ====
section
/-!
DEFINITION. The tile pools behind their steps: lifetimes, quarantine, abandonment events and remote consumption
(spec/10_pool.md R297-R303, spec/11_messages.md R324).
-/

namespace Sys2Proof.Machine

/-! ## Lifetimes (R302, R303) -/

/-- The 16 bytes of an abandonment message: event kind and partition, handle, count, commit number (R303). -/
def abandonBytes (kind k : Nat) (handle count n : Nat) : List Byte :=
  leBytes 4 (kind * 16 + k) ++ leBytes 4 handle ++ leBytes 4 (count % 2 ^ 16) ++ leBytes 4 n

/-- A tile whose lifetime has passed is abandoned: held or reclaimed by the partition's policy, counted, and announced
(R302, R303). -/
def State.abandon (s : State) (gc k t : Nat) (p : Partition) (x : Tile) : State :=
  let s1 := s.setPart gc k { p with aband := min 65535 (p.aband + 1) }
  let s2 :=
    if p.pol then s1.freeTile gc k t
    else
      match s1.part gc k with
      | some q => s1.setPart gc k (q.setTile t { x with state := .held, life := 0, expiry := none })
      | none => s1
  let n := s.nextCommit gc
  let bytes := abandonBytes (if p.pol then 2 else 1) k (x.gen * 2 ^ 24 + p.off t) x.count n
  let s3 := if p.evring = 0 then s2 else s2.modCluster gc fun c => { c with events := c.events ++ [(p.evring, k, bytes)] }
  s3.portCommit gc [] [tileKey (p.off t)]

/-- TILE_LIFETIME_EXPIRY: the lifetime of a live tile has passed (R302). -/
def execTileLifetimeExpiry (gc k t : Nat) (s : State) : Host.Outcome State Fault Refusal :=
  let s := s.settle gc
  match s.part gc k with
  | none => .next s
  | some p =>
    let x := p.tile t
    match x.state, x.expiry with
    | .live, some e =>
      .next (if e ≤ s.ckOf gc then s.attempt gc (agentAsk 6 (.lifetime k t e) []) fun s => s.abandon gc k t p x else s)
    | _, _ => .next s

/-! ## The consuming request table (R297, R299) -/

/-- Is the quarantine of a tile over that has been freed at a generation: no entry of the table holds it (R297)? -/
def State.quarantineOver (s : State) (gc k t gen : Nat) : Bool :=
  match s.part gc k with
  | none => false
  | some p => (p.tile t).state == .quarantined && (p.tile t).gen == (gen + 1) % 256 && !s.quarantines gc k t gen

/-- A tile whose quarantine is over is released by an owner-port change commit (R297). -/
def State.endQuarantine (s : State) (gc k t gen : Nat) : State :=
  match s.part gc k with
  | some p => if s.quarantineOver gc k t gen then (s.releaseTile gc k t false).portCommit gc [] [tileKey (p.off t)] else s
  | none => s

/-! ## Remote consumption (R298-R300) -/

/-- A consuming pull as it reaches an owner's port. -/
structure Consume where
  chip : Nat
  gc : Nat
  rid : Nat
  who : Nat
  key : Nat
  off : Nat
  gen : Nat
  len : Nat
  deriving DecidableEq, Repr

/-- The bytes of a served range, with whether one is discarded. -/
def State.servedRange (s : State) (a n : Nat) : Answer :=
  .line (s.ownBytes a n) 0 ((List.range n).any fun i => s.isDiscarded (a + i))

/-- An entry of the consuming request table is made. -/
def State.addServed (s : State) (gc : Nat) (e : Served) : State := s.modCluster gc fun c => { c with served := c.served ++ [e] }

/-- The entry that a retry matches (R299). -/
def State.servedFor (s : State) (owner chip gc rid : Nat) : Option Served :=
  (s.cluster owner).served.find? fun e => e.chip == chip && e.gc == gc && e.rid == rid

/-- The checks of R298 at a flat address: the tile with its partition, or the STATE and the reason of its log record. -/
def State.consumeCheck (s : State) (owner a gen len : Nat) : Except (Nat × Option Nat) (Nat × Partition × Nat) :=
  let o := a - flatRam owner 0
  if a < flatRam owner 0 ∨ 0x200000 ≤ o then .error (0x82, none)
  else
    match s.tileOf owner o with
    | none => .error (0x82, none)
    | some (k, p, t) =>
      let x := p.tile t
      if p.off t + 2 ^ p.szlog < o + len then .error (0x82, none)
      else if x.gen ≠ gen then .error (0x41, some 6)
      else if x.state ≠ .live ∧ x.state ≠ .held then .error (0x41, some 7)
      else .ok (k, p, t)

/-- The owner's port serves a consuming pull: a retry from the table, else its checks, and the read and the decrement in one
change commit; a line with an uncorrectable error is not read and nothing is decremented (log entry 25); `none` while it
waits for the table or for its commit, as the request `q` of the port (R278, R298, R299). -/
def State.servePullc (s : State) (q : PortItem) (c : Consume) : Option Answer × State :=
  let owner := c.key % 4096
  if (s.cluster owner).fenced then (some (.fail 0x43), s)
  else
    match s.servedFor owner c.chip c.gc c.rid with
    | some e => (some (if e.outcome = 0x00 then s.servedRange e.addr e.len else .fail e.outcome), s)
    | none =>
      match s.keyFault owner c.key c.chip .consume c.off c.len, s.keyOf owner c.key with
      | none, some k =>
        let a := k.base + c.off
        let e : Served :=
          { chip := c.chip, gc := c.gc, rid := c.rid, tile := none, addr := a, len := c.len, outcome := 0x00, time := s.now }
        if 4096 ≤ (s.cluster owner).served.length then (none, s)
        else
          match s.consumeCheck owner a c.gen c.len with
          | .error (st, reason) =>
            let s1 := s.addServed owner { e with outcome := st }
            (some (.fail st), match reason with
              | some r => s1.logRefusal owner (s.refusal owner .consume r c.chip c.who c.key c.off)
              | none => s1)
          | .ok (i, p, t) =>
            if (s.faultyIn [(a, c.len)]).isSome then (some (.fail 0x81), s)
            else
              let d := agentAsk 6 (.item q) []
              let s1 := ((s.unasked owner d.work).addServed owner { e with tile := some (i, t, (p.tile t).gen) }).takeReads owner i t 1
              if s.grants owner d then (some (s.servedRange a c.len), s1.portCommit owner [] [tileKey (p.off t)])
              else (none, s.defer owner d)
      | r, _ => (some (.fail 0x40), s.logRefusal owner (s.refusal owner .consume (r.getD 1) c.chip c.who c.key c.off))

/-- A consuming pull of a cluster of the module as its owner's port sees it. -/
def PullOp.asks (o : PullOp) (chip gc : Nat) (p : Page) (gen : Nat) : Consume :=
  { chip := chip, gc := gc, rid := o.id, who := o.slot, key := p.key, off := p.off + (o.src.headD 0 - p.base), gen := gen,
    len := o.len }

/-- The consuming pull of a cluster of the module at its owner's port: nothing is left to serve when it has been answered, has
ended, or its requester is fenced; `false` while it waits (R298-R300, spec/01_engines.md R46). -/
def State.serveOwn (s : State) (owner gc id : Nat) : Bool × State :=
  match if (s.cluster gc).fenced then none else s.opOf gc id with
  | none => (true, s)
  | some o =>
    match o.kind, o.pages with
    | .pullc gen, p :: _ =>
      if (mfind o.lines 0).isSome ∨ p.owner ≠ owner then (true, s)
      else
        match s.servePullc (.pullc gc id) (o.asks s.chip gc p gen) with
        | (some a, t) => (true, t.answerOp gc id .consume a)
        | (none, t) => (false, t)
    | _, _ => (true, s)

/-! ## Events (R303, spec/11_messages.md R324) -/

/-- A pool event as a message (spec/11_messages.md R312). -/
def eventMessage (chip : Nat) (h : Word) (bytes : List Byte) : Arrival :=
  { kind := 3, chip := chip, who := 0xFFFFFFFF, key := 0, header := 0, gen := handleGen h, payload := bytes }

/-- An event that its ring refuses is counted by its partition (R303). -/
def State.loseEvent (s : State) (gc k : Nat) : State :=
  match s.part gc k with
  | some p => s.setPart gc k { p with lost := min 65535 (p.lost + 1) }
  | none => s

/-- POOL_EVENT_DELIVERY: the oldest abandonment message of a cluster is delivered to the ring that its handle names, or
dropped and counted (spec/11_messages.md R324). -/
def execPoolEventDelivery (gc : Nat) (s : State) : Host.Outcome State Fault Refusal :=
  let s := s.settle gc
  match (s.cluster gc).events with
  | [] => .next s
  | (h, k, bytes) :: es =>
    let m := eventMessage s.chip h bytes
    let r := (s.core (gc * 8 + handleCore h)).ring (handleRing h)
    match if bits h 0 17 = 0 then s.checkRing gc r m else .error (0x41, none) with
    | .error _ => .next ((s.modCluster gc fun c => { c with events := es }).loseEvent gc k)
    | .ok _ =>
      let ws := s.messageBytes gc r m
      .next (s.attempt gc (agentAsk 3 .event (linesOf ws)) fun s =>
        (s.modCluster gc fun c => { c with events := es }).agentCommit gc 3 ws [])

end Sys2Proof.Machine
end

