-- ==== Sys2Proof/Machine/MessageSteps.lean ====
section
/-!
DEFINITION. The steps of the message interfaces: sends of the module and of peers at their owner's port, their order and
their answers (spec/11_messages.md R318-R325; spec/13_fabric.md R367, R368).
-/

namespace Sys2Proof.Machine

/-! ## Sends at an owner's port (R319, R320) -/

/-- A message that waits at an owner's port is refused or delivered: its STATE, or `none` while it waits for its commit (R319,
R397). -/
def State.deliverMessage (s : State) (gc : Nat) (i : PortItem) (m : Arrival) : Option Nat × State :=
  match s.checkMessage gc m with
  | .error (state, reason) =>
    (some state, match reason with
      | none => s
      | some r => s.logRefusal gc { kind := 4, reason := r, chip := m.chip, who := m.who, key := m.key, addr := m.header })
  | .ok r =>
    let ws := s.messageBytes gc r m
    let d := agentAsk 3 (.item i) (linesOf ws)
    if s.grants gc d then (some 0x00, (s.unasked gc d.work).agentCommit gc 3 ws []) else (none, s.defer gc d)

/-- A send as it reaches an owner's port. -/
structure SendReq where
  chip : Nat
  gc : Nat
  rid : Nat
  who : Nat
  key : Nat
  off : Nat
  gen : Nat
  vector : Bool
  payload : List Byte
  deriving DecidableEq, Repr

/-- The message of a send whose header lies at a flat address. -/
def SendReq.message (q : SendReq) (a : Nat) : Arrival :=
  { kind := if q.vector then 2 else 1, chip := q.chip, who := q.who, key := q.key, header := localAddr a, gen := q.gen,
    payload := q.payload }

/-- The owner's port answers a send that waits there: a retry from its table, else its checks and its delivery; `none` while it waits
for the table or for its commit (R319, R320). -/
def State.serveSend (s : State) (i : PortItem) (q : SendReq) : Option Nat × State :=
  let owner := q.key % 4096
  if (s.cluster owner).fenced then (some 0x43, s)
  else
    match s.servedFor owner q.chip q.gc q.rid with
    | some e => (some e.outcome, s)
    | none =>
      if 4096 ≤ (s.cluster owner).served.length then (none, s)
      else
        let entry (st : Nat) : Served :=
          { chip := q.chip, gc := q.gc, rid := q.rid, tile := none, addr := 0, len := 0, outcome := st, time := s.now }
        match s.keyFault owner q.key q.chip .message q.off 4, s.keyOf owner q.key with
        | none, some k =>
          match s.deliverMessage owner i (q.message (k.base + q.off)) with
          | (some st, t) => (some st, t.addServed owner (entry st))
          | (none, t) => (none, t)
        | r, _ =>
          (some 0x40, (s.logRefusal owner (s.refusal owner .message (r.getD 1) q.chip q.who q.key q.off)).addServed owner (entry 0x40))

/-! ## The module's own sends -/

/-- A send of a cluster by its number. -/
def State.sendOf (s : State) (gc id : Nat) : Option SendRec := (s.pull gc).sends.find? fun x => x.id == id

/-- Does an earlier send of the same slot to the same ring still wait for its answer (R321, spec/13_fabric.md R367)? -/
def State.earlierSend (s : State) (gc : Nat) (x : SendRec) : Bool :=
  (s.pull gc).sends.any fun y => y.slot == x.slot && y.msg.header == x.msg.header && y.num < x.num && y.answer.isNone

/-- A send of the module as its owner's port sees it. -/
def SendRec.asks (x : SendRec) (chip gc : Nat) : SendReq :=
  { chip := chip, gc := gc, rid := x.id, who := x.slot, key := x.msg.page.key,
    off := x.msg.page.off + (x.msg.header - x.msg.page.base), gen := x.msg.gen, vector := x.msg.vector,
    payload := x.payload.getD [] }

/-- The answer to a send is recorded. -/
def State.answerSend (s : State) (gc id state : Nat) : State := s.answerOp gc id .message (if state = 0 then .line [] 0 false else .fail state)

/-- May a send of a cluster be carried to its owner's port in the module: it is not answered, its payload is in staging, and no earlier one
of its slot to the ring waits (R318, R321)? -/
def State.sendReady (s : State) (gc : Nat) (x : SendRec) : Bool :=
  x.answer.isNone && x.payload.isSome && !(s.cluster gc).fenced && !s.earlierSend gc x

/-- A send of a cluster of the module at its owner's port; `false` while it waits (R319, R320). -/
def State.serveOwnSend (s : State) (owner gc id : Nat) : Bool × State :=
  match s.sendOf gc id with
  | none => (true, s)
  | some x =>
    if !s.sendReady gc x ∨ x.msg.page.owner ≠ owner then (true, s)
    else
      match s.serveSend (.send gc id) (x.asks s.chip gc) with
      | (some st, t) => (true, t.answerSend gc id st)
      | (none, t) => (false, t)

/-- SEND_ANSWER_ARRIVAL: the answer to a send returns, and the sender's token commits (R319). -/
def execSendAnswerArrival (gc id : Nat) (s : State) : Host.Outcome State Fault Refusal :=
  match s.sendOf gc id with
  | none => .next s
  | some x =>
    match x.answer with
    | none => .next s
    | some st =>
      .next (((s.dropSend gc id).pushDone gc { engine := 3, slot := x.slot, st := x.st, state := st, disc := false, no := id }).settle gc)

/-! ## Sends of peers (spec/13_fabric.md R367) -/

/-- The order record of a peer's slot and a ring. -/
def State.orderOf (s : State) (chip slot header : Nat) : SendOrder :=
  (s.orders.find? fun o => o.chip == chip && o.slot == slot && o.header == header).getD
    { chip := chip, slot := slot, header := header, next := 0, waiting := [] }

/-- The order record written. -/
def State.setOrder (s : State) (o : SendOrder) : State :=
  { s with orders := (s.orders.filter fun x => !(x.chip == o.chip && x.slot == o.slot && x.header == o.header)) ++ [o] }

/-- A peer's send as its owner's port sees it. -/
def Inbound.asks (i : Inbound) (chip slot : Nat) : SendReq :=
  { chip := chip, gc := i.gc, rid := i.rid, who := slot, key := i.key, off := i.off, gen := i.gen, vector := i.vector,
    payload := i.payload }

/-- A peer's waiting sends that come next are handled in the order of their numbers, as many as `n`; `false` when the next one
waits for the table or for its commit (R319, R367). -/
def State.serveOrder : Nat → State → Nat → Nat → Nat → Bool × State
  | 0, s, _, _, _ => (true, s)
  | n + 1, s, chip, slot, header =>
    let o := s.orderOf chip slot header
    match o.waiting.find? fun i => i.num == o.next with
    | none => (true, s)
    | some i =>
      match s.serveSend (.order chip slot header) (i.asks chip slot) with
      | (none, t) => (false, t)
      | (some st, r) =>
        let t := r.setOrder { o with next := o.next + 1, waiting := o.waiting.erase i }
        (t.emit (.answer chip i.rid st [] [] false)).serveOrder n chip slot header

/-! ## Ring writes of foreign peers (R325) -/

/-- Does a request of a peer arrive too late: more than 12 us of pod time after its send (spec/13_fabric.md R368)? -/
def State.stale (s : State) (h : PeerHeader) : Bool := h.sent + 12 < s.podUs

/-- Does a request of a peer reach the module: from another chip, by a port that is up, in time (spec/13_fabric.md R353, R368)? -/
def State.hears (s : State) (h : PeerHeader) : Bool := h.chip != s.chip && (s.port h.port).up && !s.stale h

/-- Some bytes of a peer arrive at a port of the module, which counts their flits while it is up (spec/13_fabric.md R364). -/
def State.arriving (s : State) (h : PeerHeader) (bytes : Nat) : State := if (s.port h.port).up then s.hearOn h.port bytes else s

/-- A request of a peer is answered with a UALink error response, and its refusal is logged at the owner's die (spec/13_fabric.md
R362, R363). -/
def State.refusePeer (s : State) (h : PeerHeader) (kind reason : Nat) : State :=
  let owner := h.key % 4096
  let addr := match s.keyOf owner h.key with | some e => localAddr (e.base + h.off) | none => h.off
  (s.logRefusal owner { kind := kind, reason := reason, chip := h.chip, who := h.who, key := h.key, addr := addr }).emit
    (.error h.chip h.rid)

/-- The reason code of a ring write that a ring refuses (spec/13_fabric.md R363, log entry 24). -/
def ringReason (state : Nat) (reason : Option Nat) : Nat := reason.getD (if state = 0x80 then 0 else 3)

/-- What a ring write of a peer comes to at its owner's port: the message with its ring, or a refusal with its kind and its reason. The
low 8 bits of the address written to are the generation (R325, spec/13_fabric.md R354, R361, R362). -/
def State.checkRingWrite (s : State) (h : PeerHeader) (payload : List Byte) : Except (Nat × Nat) (Arrival × Ring) :=
  let owner := h.key % 4096
  let len := payload.length
  if h.high ≠ 0 then .error (4, 1)
  else if len = 0 ∨ len % 4 ≠ 0 ∨ 960 < len then .error (5, 3)
  else
    match s.keyFault owner h.key h.chip .message h.off 1, s.keyOf owner h.key with
    | none, some k =>
      let gen := (k.base + h.off) % 256
      if h.off < gen then .error (4, 4)
      else
        let m : Arrival :=
          { kind := 4, chip := (s.peer h.chip).ident % 2 ^ 16, who := 0xFFFFFFFF, key := h.key,
            header := localAddr (k.base + h.off - gen), gen := gen, payload := payload }
        match s.checkMessage owner m with
        | .error (st, reason) => .error (4, ringReason st reason)
        | .ok r => .ok (m, r)
    | r, _ => .error (4, r.getD 1)

/-- A ring write of a peer that waits at its owner's port is delivered as KIND 4 with the peer's accelerator identifier, or refused
with an error response; `false` while it waits for its commit (R325, spec/13_fabric.md R362). -/
def State.serveRingWrite (s : State) (h : PeerHeader) (payload : List Byte) : Bool × State :=
  let owner := h.key % 4096
  if (s.cluster owner).fenced then (true, s.emit (.error h.chip h.rid))
  else
    match s.checkRingWrite h payload with
    | .error (kind, reason) => (true, s.refusePeer h kind reason)
    | .ok (m, r) =>
      let ws := s.messageBytes owner r m
      let d := agentAsk 3 (.item (.ringWrite h payload)) (linesOf ws)
      if s.grants owner d then
        (true, ((s.unasked owner d.work).agentCommit owner 3 ws []).emit (.answer h.chip h.rid 0x00 [] [] false))
      else (false, s.defer owner d)

/-! ## Requests that wait at an owner's port (spec/10_pool.md R299, R319) -/

/-- A consuming pull of a peer at its owner's port: it is answered, or waits (spec/10_pool.md R298, R299). -/
def State.servePeer (s : State) (h : PeerHeader) (gc gen len : Nat) : Bool × State :=
  let q : Consume := { chip := h.chip, gc := gc, rid := h.rid, who := h.who, key := h.key, off := h.off, gen := gen, len := len }
  match s.servePullc (.peerPullc h gc gen len) q with
  | (none, t) => (false, t)
  | (some (.fail st), t) => (true, t.emit (.answer h.chip h.rid st [] [] false))
  | (some (.line data _ disc), t) => (true, t.emit (.answer h.chip h.rid 0x00 data [] disc))

/-- A request is served by the port of its owner; `false` while it waits. -/
def State.serveItem (s : State) (owner : Nat) (i : PortItem) : Bool × State :=
  match i with
  | .pullc gc id => s.serveOwn owner gc id
  | .send gc id => s.serveOwnSend owner gc id
  | .peerPullc h gc gen len => s.servePeer h gc gen len
  | .order chip slot header => s.serveOrder (s.orderOf chip slot header).waiting.length chip slot header
  | .ringWrite h payload => s.serveRingWrite h payload

/-- Is a request one that waits already, under its requester and its identifier? -/
def PortItem.same (i j : PortItem) : Bool :=
  match i, j with
  | .peerPullc h gc _ _, .peerPullc k hc _ _ => h.chip == k.chip && gc == hc && h.rid == k.rid
  | .ringWrite h _, .ringWrite k _ => h.chip == k.chip && h.rid == k.rid
  | _, _ => i == j

/-- The chip that a request comes from, in a module of a chip number: the queue in which it waits (spec/13_fabric.md R373). -/
def PortItem.chip (own : Nat) (i : PortItem) : Nat :=
  match i with
  | .pullc _ _ => own
  | .send _ _ => own
  | .peerPullc h _ _ _ => h.chip
  | .order chip _ _ => chip
  | .ringWrite h _ => h.chip

/-- The chip whose queue has the turn: the least number of some from a number on, else the least (spec/13_fabric.md R373). -/
def nextChip (turn : Nat) (chips : List Nat) : Option Nat := (leastOf (chips.filter (turn ≤ ·))).or (leastOf chips)

/-- At most `n` of some requests in the order in which a port serves them: round robin over the queues of the requesting chips, from a
chip number on, one request per turn, and each queue in the order of arrival (R299, spec/13_fabric.md R373). -/
def roundRobin (own : Nat) : Nat → Nat → List PortItem → List PortItem
  | 0, _, _ => []
  | n + 1, turn, is =>
    match (nextChip turn (is.map (·.chip own))).bind fun c => is.find? fun i => i.chip own == c with
    | none => []
    | some i => i :: roundRobin own n (i.chip own + 1) (is.erase i)

/-- A request of an owner's port is served, and the turn passes to the queue of the next chip; one that must wait stays in its place
(R299, spec/13_fabric.md R373). -/
def State.serveOne (s : State) (owner : Nat) (i : PortItem) : State :=
  match s.serveItem owner i with
  | (true, t) => t.modCluster owner fun c =>
    { c with inbound := c.inbound.filter fun j => !i.same j, inboundTurn := i.chip s.chip + 1 }
  | (false, t) => t

/-- The requests of an owner's port are served in their order (R299, spec/13_fabric.md R373). -/
def State.serveInbound (s : State) (owner : Nat) : State :=
  let s1 := s.settle owner
  let c := s1.cluster owner
  (roundRobin s1.chip c.inbound.length c.inboundTurn c.inbound).foldl (fun s i => s.serveOne owner i) s1

/-- A request arrives at its owner's port, behind those that wait there. -/
def State.enqueue (s : State) (owner : Nat) (i : PortItem) : State :=
  (s.modCluster owner fun c => if c.inbound.any i.same then c else { c with inbound := c.inbound ++ [i] }).serveInbound owner

/-- OWNER_PULLC_SERVE: the consuming pull of a cluster reaches its owner's port; `peer` says what an owner outside the module
does (spec/10_pool.md R298-R300). -/
def execOwnerPullcServe (gc id : Nat) (peer : PeerAnswer) (s : State) : Host.Outcome State Fault Refusal :=
  match s.opOf gc id with
  | none => .next (match peer with | .late c => s.heard c | _ => s)
  | some o =>
    match o.kind, o.pages with
    | .pullc _, p :: _ =>
      if (mfind o.lines 0).isSome ∨ (s.cluster gc).fenced then .next s
      else if p.chip ≠ s.chip then .next (s.takeAnswer p.chip gc id o.len .consume false peer)
      else .next (s.enqueue p.owner (.pullc gc id))
    | _, _ => .next s

/-- The oldest entry of a consuming request table expires when it is 64 us old; the last entry of a quarantined tile releases
it, by a commit that the expiry waits for (spec/10_pool.md R297, R299). -/
def State.expireServed (s : State) (gc : Nat) : State :=
  match (s.cluster gc).served with
  | [] => s
  | e :: es =>
    let gone (s : State) : State := s.modCluster gc fun c => { c with served := es }
    if s.now < e.time + usUnits 64 then s
    else
      match e.outcome, e.tile with
      | 0x00, some (k, t, gen) =>
        if (gone s).quarantineOver gc k t gen then
          s.attempt gc (agentAsk 6 .entry []) fun s => (gone s).endQuarantine gc k t gen
        else gone s
      | _, _ => gone s

/-- CRT_ENTRY_EXPIRY: the oldest entry of a consuming request table expires, and the requests that wait for the table are served
(spec/10_pool.md R297, R299). -/
def execCrtEntryExpiry (gc : Nat) (s : State) : Host.Outcome State Fault Refusal :=
  .next (((s.settle gc).expireServed gc).serveInbound gc)

/-- SEND_ARRIVAL: a send of a cluster, whose payload is in staging, reaches its owner's port; `peer` says what an owner outside
the module does (R319-R321). -/
def execSendArrival (gc id : Nat) (peer : PeerAnswer) (s : State) : Host.Outcome State Fault Refusal :=
  let s := s.stageSend gc id
  match s.sendOf gc id with
  | none => .next (match peer with | .late c => s.heard c | _ => s)
  | some x =>
    if x.msg.page.chip ≠ s.chip then
      .next (if x.answer.isSome || x.payload.isNone || (s.cluster gc).fenced then s
        else s.takeAnswer x.msg.page.chip gc id 0 .message false peer)
    else .next (if s.sendReady gc x then s.enqueue x.msg.page.owner (.send gc id) else s)

/-! ## Sends of peers (spec/13_fabric.md R367) -/

/-- A send of a peer arrives: a retry is answered from the table of its owner, one below the number expected is dropped, any
other joins the order of its slot and ring, by the ring's header pod address (R320, R367, log entry 23). -/
def State.takeInbound (s : State) (chip slot header : Nat) (i : Inbound) : State :=
  let owner := i.key % 4096
  let o := s.orderOf chip slot header
  match s.servedFor owner chip i.gc i.rid with
  | some e => s.emit (.answer chip i.rid e.outcome [] [] false)
  | none =>
    if i.num < o.next then s
    else
      let s1 := if o.waiting.any fun j => j.num == i.num then s else s.setOrder { o with waiting := o.waiting ++ [i] }
      if i.num = o.next then s1.enqueue owner (.order chip slot header) else s1

/-- The least number of some waiting sends. -/
def leastNum (l : List Inbound) : Option Nat := leastOf (l.map fun i => i.num)

/-- SEND_ORDER_TIMEOUT: a send of a peer has waited 64 us for an earlier number, which counts as refused from now on; the
sends that waited for it are handled (R367). -/
def execSendOrderTimeout (chip slot header : Nat) (s : State) : Host.Outcome State Fault Refusal :=
  let o := s.orderOf chip slot header
  match leastNum o.waiting, o.waiting with
  | some n, i :: _ =>
    if o.waiting.any fun i => i.arrived + usUnits 64 ≤ s.now then
      .next ((s.setOrder { o with next := max n o.next }).enqueue (i.key % 4096) (.order chip slot header))
    else .next s
  | _, _ => .next s

/-! ## Ring writes of foreign peers (R325) -/

/-- FOREIGN_RING_WRITE: a write of a peer to a ring's header plus its generation reaches its owner's port (R325, spec/13_fabric.md
R361, R362). -/
def execForeignRingWrite (h : PeerHeader) (payload : List Byte) (s : State) : Host.Outcome State Fault Refusal :=
  let s := s.arriving h payload.length
  .next (if s.hears h then s.enqueue (h.key % 4096) (.ringWrite h payload) else s)

end Sys2Proof.Machine
end

