-- ==== Sys2Proof/Machine/FabricSteps.lean ====
section
/-!
DEFINITION. The steps of the Oxgor port: links, requests of peers, retries and failed peers, keys, attestation, and the
violation logs (spec/13_fabric.md R353-R377, spec/15_taproot.md R409).
-/

namespace Sys2Proof.Machine

/-! ## Links (R353, R364) -/

/-- LINK_TRAINING: a port has trained with some lanes and agreed link keys with the switch; it comes up with four lanes only,
from bring-up state 5 on (R353, R364, spec/15_taproot.md R408). -/
def execLinkTraining (k lanes : Nat) (s : State) : Host.Outcome State Fault Refusal :=
  .next (if k < 16 ∧ lanes = 4 ∧ 5 ≤ s.man.stage ∧ !s.man.trip then
    s.modPort k fun p => { p with up := true, tx := p.tx.renew, rx := p.rx.renew, failed := 0 } else s)

/-- LINK_REKEY: a port agrees a new key for each direction; the flit counters start again (R364). -/
def execLinkRekey (k : Nat) (s : State) : Host.Outcome State Fault Refusal :=
  .next (if (s.port k).up then s.modPort k fun p => { p with tx := p.tx.renew, rx := p.rx.renew } else s)

/-- FLIT_TAG_FAIL: a flit fails authentication, is dropped and counted; `again` says that the flit before it failed too. Eight
in a row take the port down (R364). -/
def execFlitTagFail (k : Nat) (again : Bool) (s : State) : Host.Outcome State Fault Refusal :=
  let p := s.port k
  let failed := if again then p.failed + 1 else 1
  if !p.up then .next s
  else if failed < 8 then .next (s.modPort k fun p => { p with failed := failed, dropped := p.dropped + 1 })
  else
    .next ((s.modPort k fun p => { p with up := false, failed := 0, dropped := p.dropped + 1 }).logMachine 0x3E3 k [])

/-- PORT_LANE_LOSS: a port that loses a lane goes down as a whole (R353). -/
def execPortLaneLoss (k : Nat) (s : State) : Host.Outcome State Fault Refusal :=
  .next (if (s.port k).up then s.modPort k fun p => { p with up := false } else s)

/-! ## Reads of peers (R355, R359, R362) -/

/-- What a peer's read asks of the owner's port. -/
def peerAsk : PeerRead → Ask
  | .plain => .read
  | .digest => .digest
  | .acquire _ => .acquire
  | .digestAcquire _ => .digestAcquire
  | .take _ _ _ => .acquire

/-- Does a peer's read acquire from outside the coherence domain of its page (R254, spec/01_engines.md R38, log entry 27)? -/
def peerOutside : PeerRead → Bool
  | .acquire cdom => cdom < 3
  | .digestAcquire cdom => cdom < 3
  | .take cdom _ _ => cdom < 3
  | _ => false

/-- Does a range of flat addresses lie wholly in one sealed range (spec/14_host.md R396)? -/
def State.sealedRange (s : State) (a n : Nat) : Bool :=
  match s.sealOf a with
  | some r => !r.discarded && r.addr ≤ a && a + n ≤ r.addr + r.len
  | none => false

/-- A read of a peer behind the key check, from a flat address on: its bytes, with the stamps of its lines for a Punosko
peer. A read that meets an absent host page waits, and an acquire waits for the commits that have not reached host memory: it
is not answered, and the peer sends it again (R369, spec/01_engines.md R39, spec/14_host.md R401). -/
def State.answerRead (s : State) (h : PeerHeader) (owner a n : Nat) (acquires : Bool) : State :=
  let lines := linesOfRows [a] n
  let stamps := if s.foreign h.chip then [] else lines.map fun l => s.stamp owner l
  if (s.faultyIn [(a, n)]).isSome then s.emit (.answer h.chip h.rid 0x81 [] [] false)
  else if acquires && lines.any s.writingThrough then s
  else
    match s.absentIn [(a, n)] with
    | some p => s.askPage p.1 p.2
    | none => s.emit (.answer h.chip h.rid 0x00 (s.ownBytes a n) stamps ((List.range n).any fun i => s.isDiscarded (a + i)))

/-- The read of a peer: 32, 64, 128 or 256 bytes, naturally aligned, within one key range (R355, R359, R362). -/
def State.serveRead (s : State) (h : PeerHeader) (kind : PeerRead) (len : Nat) : State :=
  let owner := h.key % 4096
  let ask := peerAsk kind
  match s.keyFault owner h.key h.chip ask h.off len, s.keyOf owner h.key with
  | none, some k =>
    let a := k.base + h.off
    if !([32, 64, 128, 256].contains len) || h.off % len != 0 then s.refusePeer h ask.kind 4
    else if peerOutside kind then s.refusePeer h ask.kind 8
    else
      match kind with
      | .take _ first size =>
        if s.sealedRange (k.base + first) size then s.answerRead h owner a len true
        else s.emit (.answer h.chip h.rid 0x84 [] [] false)
      | _ => s.answerRead h owner a len ask.acquires
  | r, _ => s.refusePeer h ask.kind (r.getD 1)

/-- The reason by which a write or an atomic is refused: an unknown or a revoked key, else its kind (R254, R362, R363). -/
def State.writeReason (s : State) (h : PeerHeader) : Nat :=
  match s.keyOf (h.key % 4096) h.key with
  | none => 1
  | some e => if e.revoked.isSome then 2 else 3

/-- The bytes that a request of a peer carries (log entry 26). -/
def peerBytes : PeerRequest → Nat
  | .read _ _ => 0
  | .write => 64
  | .atomic => 64

/-- PEER_REQUEST_ARRIVAL: a read, write or atomic of a peer is served, or refused with an error response; one that arrives too
late is dropped (R361, R362, R368). -/
def execPeerRequestArrival (h : PeerHeader) (q : PeerRequest) (s : State) : Host.Outcome State Fault Refusal :=
  let s := s.arriving h (peerBytes q)
  if !s.hears h then .next s
  else if (s.cluster (h.key % 4096)).fenced then .next (s.emit (.answer h.chip h.rid 0x43 [] [] false))
  else
    match q with
    | .read kind len => .next (if h.high ≠ 0 then s.refusePeer h (peerAsk kind).kind 1 else s.serveRead h kind len)
    | .write => .next (s.refusePeer h 5 (if h.high ≠ 0 then 1 else s.writeReason h))
    | .atomic => .next (s.refusePeer h 6 (if h.high ≠ 0 then 1 else s.writeReason h))

/-! ## Commands of peers (R357) -/

/-- The parts of a command that have arrived. -/
def State.partsOf (s : State) (chip rid : Nat) : Option Parts := s.parts.find? fun p => p.chip == chip && p.rid == rid

/-- The record of a command's parts, without it. -/
def State.dropParts (s : State) (chip rid : Nat) : State :=
  { s with parts := s.parts.filter fun p => !(p.chip == chip && p.rid == rid) }

/-- The watch of a peer is acknowledged and placed; its key is checked before its coherence domain (R371; spec/09_pull.md R254,
R267). -/
def State.placePeerWatch (s : State) (h : PeerHeader) (gc id : Nat) (thr : Word) (once : Bool) (cdom : Nat) : State :=
  let owner := h.key % 4096
  let p : Placement := { chip := h.chip, gc := gc, id := id, who := h.who, key := h.key, off := h.off, thr := thr, once := once }
  let s1 := s.emit (.ack h.chip gc id)
  if cdom < 3 ∧ !(s.cluster owner).fenced ∧ (s.keyFault owner h.key h.chip .acquire h.off 4).isNone then
    (s1.logRefusal owner (s.refusal owner .acquire 8 h.chip h.who h.key h.off)).emit (.watch h.chip gc id 0x40 0)
  else s1.placeWatch owner p

/-- A whole command acts at the port of its owner (R357). -/
def State.performCommand (s : State) (h : PeerHeader) (c : PeerCommand) : State :=
  let done := s.dropParts h.chip h.rid
  match c with
  | .watch gc id thr once cdom => done.placePeerWatch h gc id thr once cdom
  | .consume gc gen len => done.enqueue (h.key % 4096) (.peerPullc h gc gen len)
  | .send num header gen vector payload =>
    done.takeInbound h.chip h.who header
      { rid := h.rid, gc := h.who / 32, num := num, key := h.key, off := h.off, gen := gen, vector := vector,
        payload := payload, arrived := s.now }

/-- The parts of a command with one more. -/
def Parts.add (p : Parts) (part : Nat) : Parts := { p with got := if p.got.contains part then p.got else part :: p.got }

/-- COMMAND_PART_ARRIVAL: a part of an Oxgor command of a peer arrives; the command acts when all its parts have. Parts from a
chip that is not known as Punosko are refused, and parts that arrive too late are dropped (R357, R362, R368). -/
def execCommandPartArrival (h : PeerHeader) (part count : Nat) (c : PeerCommand) (s : State) :
    Host.Outcome State Fault Refusal :=
  let old := (s.partsOf h.chip h.rid).getD { chip := h.chip, rid := h.rid, got := [], first := s.now }
  let new := old.add part
  let s := s.arriving h 64
  if !s.hears h then .next s
  else if s.foreign h.chip ∨ h.high ≠ 0 then .next (s.refusePeer h 5 3)
  else if 16 < count ∨ count ≤ part then .next s
  else
    let s1 := s.dropParts h.chip h.rid
    let s2 : State := { s1 with parts := s1.parts ++ [new] }
    .next (if new.got.length = count then s2.performCommand h c else s2)

/-- COMMAND_REASSEMBLY_TIMEOUT: a command that is not whole 12 us after its first part is discarded (R357). -/
def execCommandReassemblyTimeout (chip rid : Nat) (s : State) : Host.Outcome State Fault Refusal :=
  match s.partsOf chip rid with
  | some p => .next (if p.first + usUnits 12 ≤ s.now then s.dropParts chip rid else s)
  | none => .next s

/-! ## Requests to peers (R366, R369, R372) -/

/-- May a request be sent again now: not a watch's placement, and not the n-th time before 12 n us after its first send, nor
later than the ck in which 48 us have passed (R369, R371, log entry 68)? -/
def Request.retries (r : Request) (now : Nat) : Bool :=
  match r.first with
  | some t => r.asked != .watch && r.sends ≤ 4 && t + usUnits (12 * r.sends) ≤ now && now < t + usUnits 48 + ckUnits 2
  | none => false

/-- REQUEST_RETRY: the n-th outstanding request is sent again, 12, 24, 36 and 48 us after its first send (R369). -/
def execRequestRetry (n : Nat) (s : State) : Host.Outcome State Fault Refusal :=
  match s.reqs[n]? with
  | none => .next s
  | some r => .next (if r.retries s.now then s.resend r else s)

/-- Does a request end when it has had no answer for 60 us: not a watch's placement, nor the request of an attestation report, for
which 100 us count (R369, R371, R376)? -/
def Request.expires (r : Request) (now : Nat) : Bool :=
  match r.first with
  | some t => r.asked != .watch && r.asked != .attest && t + usUnits 60 ≤ now
  | none => false

/-- REQUEST_TIMEOUT: the n-th outstanding request has had no answer 60 us after its first send (R369). -/
def execRequestTimeout (n : Nat) (s : State) : Host.Outcome State Fault Refusal :=
  match s.reqs[n]? with
  | none => .next s
  | some r => .next (if r.expires s.now then (s.endRequest r).answerOp r.gc r.id r.asked (.fail 0x42) else s)

/-- PEER_ENDPOINT_DOWN: the switch plane reports a peer's endpoint down, and the peer is declared failed (R372). -/
def execPeerEndpointDown (chip : Nat) (s : State) : Host.Outcome State Fault Refusal :=
  .next (if chip = s.chip then s else (s.modPeer chip fun p => { p with up := false }).failPeer chip)

/-- PEER_SILENCE_TIMEOUT: a peer has sent no answer for 100 us while requests to it were outstanding (R372). -/
def execPeerSilenceTimeout (chip : Nat) (s : State) : Host.Outcome State Fault Refusal :=
  let p := s.peer chip
  .next (if !(s.sentTo chip).isEmpty && max p.answered p.busySince + usUnits 100 ≤ s.now then s.failPeer chip else s)

/-- PEER_ENDPOINT_UP: the switch plane reports a peer's endpoint up again; the peer stays failed until Husk clears the mark
(R372). -/
def execPeerEndpointUp (chip : Nat) (s : State) : Host.Outcome State Fault Refusal :=
  .next (s.modPeer chip fun p => { p with up := true })

/-- KEY_ENTRY_FREE: the entries of a key table that were revoked 64 us ago are freed (R360). -/
def execKeyEntryFree (gc : Nat) (s : State) : Host.Outcome State Fault Refusal :=
  .next (s.modCluster gc fun c =>
    { c with keys := c.keys.filter fun e => match e.revoked with | some t => s.now < t + usUnits 64 | none => true })

/-! ## Attestation (spec/15_taproot.md R409, R376) -/

/-- The fenced clusters of the module. -/
def State.fencedClusters (s : State) : List Nat := (s.clusters.filter fun c => c.2.fenced).map (·.1)

/-- The fence mask as bytes, bit 0 first (R409). -/
def State.fenceMask (s : State) : List Byte :=
  leBytes 480 (s.fencedClusters.foldl (fun n gc => n ||| 2 ^ gc) 0)

/-- Is a request of MODEREQ being applied: a die has still to change, or a change of XSTK or LEASE is less than 10 us old
(spec/15_taproot.md R411, log entry 66)? -/
def State.applying (s : State) : Bool :=
  s.man.pending || (match s.man.modeAt with | some t => s.now < t + usUnits 10 | none => false)

/-- MODE as it reads: the modes in force, and PEND, also while a request waits for the one being applied (spec/15_taproot.md R411). -/
def State.modeWord (s : State) : Word := s.mode ||| (if s.applying || s.man.held then 0x80000000 else 0)

/-- The attestation report of the module for a nonce (R409). -/
def State.report (s : State) (nonce : List Byte) : List Byte :=
  let n := s.man.reports
  leBytes 4 0x00010050 ++ leBytes 4 (s.chip % 1024) ++ leBytes 8 Config.feedId.toNat
    ++ fitBytes 32 s.man.monitor ++ fitBytes 32 s.man.husk
    ++ (List.range 32).map (Config.planDigest s.man.plans) ++ fitBytes 32 nonce ++ leBytes 8 s.podNs
    ++ leBytes 4 s.modeWord.toNat ++ leBytes 4 s.fencedClusters.length ++ sha256 s.fenceMask ++ List.replicate 64 0
    ++ (List.range 384).map (Config.signatureByte n)

/-- A report has been made; the next one has another signature. -/
def State.countReport (s : State) : State := { s with man := { s.man with reports := s.man.reports + 1 } }

/-- ATTESTATION_REQUEST: a peer's Oxgor command with a nonce is answered with a report (R357, R409). -/
def execAttestationRequest (h : PeerHeader) (nonce : List Byte) (s : State) : Host.Outcome State Fault Refusal :=
  let s := s.arriving h 64
  if !s.hears h then .next s
  else if s.foreign h.chip ∨ h.high ≠ 0 then .next (s.refusePeer h 5 3)
  else .next ((s.emit (.report h.chip (s.report nonce))).countReport)

/-- The awaited attestation of a chip is no longer awaited. -/
def State.dropAttest (s : State) (a : Attest) : State := { s with attests := s.attests.erase a }

/-- A checkpoint partner is registered; one already registered stays (R376). -/
def State.addPartner (s : State) (chip : Nat) : State :=
  if s.partners.contains chip then s else { s with partners := s.partners ++ [chip] }

/-- The decision on a CKREG, by its number, once the partner's feed identifier is known: the first row of R376 that applies. A
partner that an override registers may be a 17th: the model's choice (log entry 76). -/
def State.decidePartner (s : State) (no chip gc g st : Nat) (override : Bool) (feed : Nat) : State :=
  let done (s : State) (n : Nat) : State := s.pushDone gc { engine := 5, slot := g, st := st, state := n, disc := false, no := no }
  if feed = Config.feedId.toNat then
    if override then done ((s.addPartner chip).logMachine 0x3E4 chip [2]) 0x01
    else done (s.logMachine 0x3E4 chip [1]) 0x40
  else if 16 ≤ (s.partners.filter (· != chip)).length then done s 0x80
  else done (s.addPartner chip) 0x00

/-- Has the request for a report that a CKREG waits for been sent? -/
def State.attestSent (s : State) (a : Attest) : Bool :=
  match a.ckreg with
  | some (gc, _, _, _) => s.reqs.any fun r => r.is gc a.id .attest && r.first.isSome
  | none => false

/-- ATTESTATION_REPORT_ARRIVAL: a partner's valid report with its feed identifier decides the oldest CKREG that has asked for it
(R376). -/
def execAttestationReportArrival (chip feed : Nat) (s : State) : Host.Outcome State Fault Refusal :=
  match s.attests.find? fun a => a.chip == chip && s.attestSent a with
  | none => .next s
  | some a =>
    match a.ckreg with
    | some (gc, g, st, override) =>
      .next (((s.peerAnswer gc a.id .attest (.line [] 0 false)).dropAttest a).decidePartner a.id chip gc g st override feed)
    | none => .next s

/-- ATTESTATION_TIMEOUT: no report of a partner has come within 100 us (R376). -/
def execAttestationTimeout (chip : Nat) (s : State) : Host.Outcome State Fault Refusal :=
  match s.attests.find? fun a => a.chip == chip && a.ckreg.isSome && a.since + usUnits 100 ≤ s.now with
  | none => .next s
  | some a =>
    match a.ckreg with
    | some (gc, g, st, _) =>
      .next (((s.dropAttest a).dropRequests gc a.id).pushDone gc
        { engine := 5, slot := g, st := st, state := 0x43, disc := false, no := a.id })
    | none => .next s

/-! ## The violation logs (R363) -/

/-- The 16 bytes of a violation record. -/
def Violation.bytes (v : Violation) : List Byte :=
  leBytes 4 (v.kind * 2 ^ 28 + v.reason * 2 ^ 24 + v.chip % 2 ^ 16) ++ leBytes 4 v.who ++ leBytes 4 v.key ++ leBytes 4 v.addr

/-- The bytes that a record writes: the log word, the count of dropped records, and the record. -/
def ViolLog.bytes (l : ViolLog) (d : Nat) (v : Violation) : FMap Byte :=
  let a := flatRam (taskCluster d) (l.addr.toNat - 0x10000000)
  placed a (leBytes 4 (l.written + 1)) ++ placed (a + 4) (leBytes 4 l.dropped)
    ++ placed (a + 64 + 16 * (l.written % 2 ^ l.logn)) v.bytes

/-- VIOLATION_RECORD: the task engine of a die writes the oldest waiting record, with the advance of the log word, as one commit
of memory cluster 288 (R363); a record that would reach a sealed byte writes nothing (spec/14_host.md R397, log entry 68). -/
def execViolationRecord (d : Nat) (s : State) : Host.Outcome State Fault Refusal :=
  let s := s.settle (taskCluster d)
  match (s.die d).viol with
  | none => .next s
  | some l =>
    match l.waiting with
    | [] => .next s
    | v :: vs =>
      .next (if s.writesSealed (l.bytes d v) then s.modDie d fun x => { x with viol := some { l with waiting := vs } }
        else s.attempt (taskCluster d) (agentAsk 4 .violation (linesOf (l.bytes d v))) fun s =>
          (s.modDie d fun x => { x with viol := some { l with waiting := vs, written := l.written + 1 } }).agentCommit
            (taskCluster d) 4 (l.bytes d v) [])

end Sys2Proof.Machine
end

