-- ==== Sys2Proof/Machine/TaskSteps.lean ====
section
/-!
DEFINITION. The steps of the task engines: submissions and cancels, the timer wheel, dispatch, pre-emption, aborts, and how a
slice leaves its slot (spec/12_tasks.md R329-R351), with the fence of a cluster (spec/01_engines.md R46).
-/

namespace Sys2Proof.Machine

/-! ## Slices that end away from a slot (R330, R350) -/

/-- What a slice kept on the slots that are held for it is given up: accumulators, rings, watches, marks (R221, R270, R317,
R348). -/
def State.dropHeld (s : State) (id : Nat) : State :=
  (s.heldSlots id).foldl (fun s g =>
    let gc := clusterOf g
    let s1 := ((s.pull gc).watches.filter fun w => w.slot == g && w.slice == id).foldl
      (fun s w => s.endWatch gc { w with st := 0 } 0x44) s
    (((s1.closeRings g).modMat gc fun m => m.freeAcc g).dropMarks g).modSlot g fun x => { x with heldFor := none }) s

/-- Does the end of slices of a queue make commits: the queue has a log, and cluster 288 is not fenced (R350, log entry 68)? -/
def State.keepsLog (s : State) (target : Nat) : Bool :=
  (s.queue target).flog != 0 && !(s.cluster (taskCluster (target / 64))).fenced

/-- The end of n slices of a queue, by `f`: it waits for the commit of its records, if it makes some (R350; spec/05_commit.md R152,
R156). -/
def State.attemptRecord (s : State) (target n : Nat) (w : Work) (f : State → State) : State :=
  if n ≠ 0 ∧ s.keepsLog target then s.attempt (taskCluster (target / 64)) (agentAsk 4 w (s.recordLines target n)) f else f s

/-- A queued or timed slice is ended: it leaves its queue or the wheel, and the failure is recorded (R330, R350). -/
def State.endQueued (s : State) (d : Nat) (l : Slice) (reason : Nat) : State :=
  ((s.modDie d fun x =>
    { x with queued := x.queued.filter fun y => y.id != l.id, timed := x.timed.filter fun y => y.2.id != l.id }).dropHeld
      l.id).failSlice l reason 0 0

/-- Has the deadline of a DROP entry passed (R341)? -/
def State.dropped (s : State) (l : Slice) : Bool := flagDROP l.flags && l.deadline != 0 && l.deadline < s.podUs

/-! ## Submissions and cancels (R336, R339) -/

/-- A submission or a cancel of a cluster by its number. -/
def State.subOf (s : State) (gc id : Nat) : Option SubRec := (s.pull gc).subs.find? fun x => x.id == id

/-- The answer to a submission: the token of a die's own waits for its commit, the answer of another die returns by a step
of its own (R336). -/
def State.answerSub (s : State) (gc : Nat) (x : SubRec) (state : Nat) : State :=
  if x.target / 64 = dieOf gc then
    (s.modPull gc fun u => { u with subs := u.subs.filter fun y => y.id != x.id }).pushDone gc
      { engine := 4, slot := x.slot, st := x.st, state := state, disc := false, no := x.id }
  else
    s.modPull gc fun u => { u with subs := u.subs.map fun y => if y.id = x.id then { y with answer := some state } else y }

/-- A record's arrival at the engine of its target, by `f`: one that is entered waits for its commit, one that is refused makes none
(R333; spec/05_commit.md R152, R156). -/
def State.attemptEntry (s : State) (target : Nat) (record : List Word) (domain : Nat) (rt : Bool) (w : Work) (f : State → State) :
    State :=
  let gc := taskCluster (target / 64)
  if (s.cluster gc).fenced || (s.refusesEntry target ((s.queue target).expand record) domain rt).isSome then f s
  else s.attempt gc (agentAsk 4 w []) f

/-- SUBMISSION_ARRIVAL: a submission reaches the engine of its target and is entered or refused (R333, R336, R340). -/
def execSubmissionArrival (gc id : Nat) (s : State) : Host.Outcome State Fault Refusal :=
  match s.subOf gc id with
  | none => .next s
  | some x =>
    let s1 := s.settle (taskCluster (x.target / 64))
    if x.answer.isSome ∨ x.sid.isSome ∨ (s.cluster gc).fenced then .next s
    else if (s1.cluster (taskCluster (x.target / 64))).fenced then .next (s1.answerSub gc x 0x43)
    else if !s1.mayTurn (x.target / 64) 2 then .next s1
    else
      .next (s1.attemptEntry x.target x.words x.domain x.rt (.submission gc id) fun s =>
        let r := (s.turned (x.target / 64) 2).submitRecord x.target x.words x.time x.slot x.domain x.rt
        r.2.answerSub gc x r.1.1)

/-- SUBMISSION_ANSWER_ARRIVAL: the answer of another die's engine returns, and the token commits (R336). -/
def execSubmissionAnswerArrival (gc id : Nat) (s : State) : Host.Outcome State Fault Refusal :=
  match s.subOf gc id with
  | none => .next s
  | some x =>
    match x.answer with
    | none => .next s
    | some st =>
      .next (((s.modPull gc fun u => { u with subs := u.subs.filter fun y => y.id != id }).pushDone gc
        { engine := 4, slot := x.slot, st := x.st, state := st, disc := false, no := id }).settle gc)

/-- The slices on slots that satisfy a test, each once by its number. -/
def State.seated (s : State) (f : Slice → Bool) : List Nat :=
  (s.slots.filterMap fun c => c.2.slice.bind fun l => if f l then some l.id else none).dedup

/-- Is a slice one of a queue under an SID? -/
def Slice.named (target sid : Nat) (l : Slice) : Bool := l.target == target && l.sid.toNat == sid

/-- The queued and timed slices of a queue under an SID. -/
def State.awaySlices (s : State) (target sid : Nat) : List Slice :=
  ((s.die (target / 64)).queued ++ (s.die (target / 64)).timed.map Prod.snd).filter (Slice.named target sid)

/-- A cancel at the engine of its target: queued and timed slices end, dispatching and running ones receive abort requests;
its STATE (R339). -/
def State.cancelSlices (s : State) (target sid : Nat) : Nat × State :=
  let d := target / 64
  let away := s.awaySlices target sid
  let running := s.seated (Slice.named target sid)
  let s1 := away.foldl (fun s l => s.endQueued d l 2) s
  let s2 := s1.modDie d fun x => { x with aborts := x.aborts ++ running }
  (if !running.isEmpty then 0x01 else if !away.isEmpty then 0x00 else 0x03, s2)

/-- CANCEL_ARRIVAL: a cancel reaches the engine of its target (R339, R340). -/
def execCancelArrival (gc id : Nat) (s : State) : Host.Outcome State Fault Refusal :=
  match s.subOf gc id with
  | none => .next s
  | some x =>
    match x.sid with
    | none => .next s
    | some sid =>
      let s1 := s.settle (taskCluster (x.target / 64))
      if x.answer.isSome ∨ (s.cluster gc).fenced then .next s
      else if (s1.cluster (taskCluster (x.target / 64))).fenced then .next (s1.answerSub gc x 0x43)
      else if !x.rt && (s1.queue x.target).domain != x.domain then .next (s1.answerSub gc x 0x40)
      else if !s1.mayTurn (x.target / 64) 5 then .next s1
      else
        .next (s1.attemptRecord x.target (s1.awaySlices x.target sid).length (.dismissal gc id) fun s =>
          let r := (s.turned (x.target / 64) 5).cancelSlices x.target sid
          r.2.answerSub gc x r.1)

/-! ## The timer wheel and deadlines (R338, R341) -/

/-- Entries whose deadline has passed under DROP end, each once the commit of its record is not held (R341). -/
def State.endLate (s : State) (d : Nat) (late : List Slice) : State :=
  late.foldl (fun s l => s.attemptRecord l.target 1 (.late l.id) fun s => s.endQueued d l 5) s

/-- A timed entry put among others by its tick, behind those of the same tick (R338). -/
def insertTimed (t : Nat × Slice) : List (Nat × Slice) → List (Nat × Slice)
  | [] => [t]
  | u :: us => if t.1 < u.1 then t :: u :: us else u :: insertTimed t us

/-- The entries of a die whose time has come, in the order of their ticks, those of one tick in the order of their submission
(R338). -/
def State.dueEntries (s : State) (d : Nat) : List Slice :=
  (((s.die d).timed.filter fun t => t.1 ≤ s.podUs).foldl (fun ts t => insertTimed t ts) []).map Prod.snd

/-- TIMER_TICK: the entries whose time has come enter their queues in the order of their ticks and of their submission; a DROP
entry whose deadline has passed ends instead (R338, R340, R341). -/
def execTimerTick (d : Nat) (s : State) : Host.Outcome State Fault Refusal :=
  let s := s.settle (taskCluster d)
  let due := s.dueEntries d
  if !s.mayTurn d 1 then .next s
  else
    .next (((s.turned d 1).endLate d (due.filter s.dropped)).modDie d fun x =>
      { x with
        queued := x.queued ++ due.filter fun l => !s.dropped l
        timed := x.timed.filter fun t => s.podUs < t.1 || s.dropped t.2 })

/-- DEADLINE_DROP: every queued DROP entry whose deadline has passed ends (R340, R341). -/
def execDeadlineDrop (d : Nat) (s : State) : Host.Outcome State Fault Refusal :=
  let s := s.settle (taskCluster d)
  .next (if s.mayTurn d 1 then (s.turned d 1).endLate d ((s.die d).queued.filter s.dropped) else s)

/-! ## Dispatch (R341-R344) -/

/-- The value of a scalar register at dispatch (R343). -/
def Slice.argument (l : Slice) (i : Nat) : Word :=
  if i = 1 then BitVec.ofNat 32 (l.sid.toNat * 2 ^ 16 + l.target % 2 ^ 10 * 2 ^ 6)
  else if i = 2 then BitVec.ofNat 32 l.attempt
  else if h : 4 ≤ i ∧ i < 12 then l.args[i - 4]
  else 0

/-- The registers of a slot at dispatch; the pending registers of a resumed slice stay as they are (R202, R343). -/
def Slice.registers (l : Slice) (old : Regs) (resumed : Bool) : Regs :=
  { Regs.reset with
    s := Vector.ofFn fun i => if resumed && bit old.pend i.val then old.s[i] else l.argument i.val
    pend := if resumed then old.pend else 0
    status := if flagRT l.flags then 0x80000000 else 0 }

/-- A slot at the dispatch of a slice to it: every CSR at its reset value, the domain of the entry, the trap scratch
undefined (R118, R343, spec/14_host.md R391). -/
def Slot.dispatched (x : Slot) (l : Slice) (resumed : Bool) : Slot :=
  let r := l.registers x.live resumed
  { Slot.reset with
    live := r
    pc := l.entry
    region := { Region.reset with no := x.region.no + 1, first := l.entry, ckpt := r }
    plbcfg := BitVec.ofNat 32 (l.domain.toNat * 2 ^ 16)
    arrivals := if resumed then x.arrivals else []
    slice := some l
    dispatching := true
    epoch := x.epoch + 1 }

/-- A footprint range is pulled by the pull unit of the receiving cluster, or fails in translation (R343, spec/14_host.md
R390). -/
def State.pullRange (s : State) (g : Nat) (l : Slice) (r : Nat × Nat × Word × Nat × Bool) : State :=
  let (k, src, dst, len, acq) := r
  let pages := ((linesOfRows [src] len).map fun n => 64 * n).foldl (fun (r : Except Nat (List Page)) a =>
    match r with
    | .error c => .error c
    | .ok ps => if (pageAt ps a).isSome then .ok ps else (s.translateNow g l.domain.toNat a).map fun p => ps ++ [p]) (.ok [])
  match pages with
  | .error c => s.modSlot g fun x => x.footDone k 0x40 c
  | .ok ps => s.launchPull g (.footprint acq k) 0 [src] [footPlace g dst] len ps l.domain.toNat

/-- The slice as its slots hold it: its pins, and on its first slot the ranges still to pull (R343, R344, R350). The leader's is the last
slot of a gang's slice: the model's choice (log entry 75). -/
def Slice.seatedOn (l : Slice) (g : Nat) (first : Bool) (lead : Nat) : Slice :=
  { l with
    since := none
    last := some lead
    pins := l.ranges.map fun r => (r.1, footPlace lead r.2.2.1, r.2.2.2.1)
    pulling := if first && g == lead then l.ranges.map fun r => r.1 else [] }

/-- The footprint pulls of the slice on a slot that have still to be launched are, while the pull unit's operation queue has room
(R343, spec/09_pull.md R253, log entry 35). -/
def State.launchRanges (s : State) (g : Nat) : State :=
  match (s.slot g).slice with
  | none => s
  | some l =>
    (l.ranges.filter fun r => l.pulling.contains r.1).foldl (fun s r =>
      let ops := (s.pull (clusterOf g)).ops
      let launched := ops.any fun o => o.slice == l.id && (match o.kind with | .footprint _ k => k == r.1 | _ => false)
      if launched || 32 ≤ ops.length then s else s.pullRange g l r) s

/-- An entry is dispatched to its slots: the dispatch writes, the answers held for a resumed slice, the footprint pulls
(R270, R317, R343). -/
def State.dispatch (s : State) (d : Nat) (l : Slice) (gs : List Nat) : State :=
  let lead := gs.headD 0
  let s0 := s.modDie d fun x => { x with queued := x.queued.filter fun y => y.id != l.id }
  let s1 := gs.foldl (fun s g =>
    let resumed := (s.slot g).heldFor == some l.id
    let t := if resumed then s else s.closeRings g
    t.modSlot g fun x => x.dispatched (l.seatedOn g true lead) resumed) s0
  let s2 := gs.foldl (fun s g =>
    ((s.pull (clusterOf g)).watches.filter fun w => w.slot == g && w.slice == l.id).foldl (fun s w =>
      match w.heldAnswer with
      | some (state, stamp) => s.finishWatch (clusterOf g) w state stamp
      | none => s) s) s1
  s2.launchRanges lead

/-- DISPATCH: the one dispatch decision of a die in a ck: the first entry that a free slot admits goes to the lowest such slot or
group; slices are dispatched in bring-up state 7 only (R340, R341, spec/15_taproot.md R408). -/
def execDispatch (d : Nat) (s : State) : Host.Outcome State Fault Refusal :=
  if s.man.stage ≠ 7 ∨ !s.mayTurn d 3 then .next s
  else
    match firstEntry ((s.die d).queued.filter fun l => !s.dropped l && (s.seat l).isSome) with
    | none => .next s
    | some l =>
      match s.seat l with
      | some gs => .next ((s.turned d 4).dispatch d l gs)
      | none => .next s

/-- The members of a dispatching slice start: a region opens at ENTRY on each, which an abort request that came before does not
prevent (R330, R343, R345). -/
def State.startSlice (s : State) (gs : List Nat) : State :=
  gs.foldl (fun s g => (s.openRegion g (s.slot g).pc false false).modSlot g fun x => { x with dispatching := false }) s

/-- SLICE_START: the footprint pulls of a dispatching slice have completed, and it starts; a failed pull ends it with reason 6;
those that found the operation queue full are launched (R343). -/
def execSliceStart (g : Nat) (s : State) : Host.Outcome State Fault Refusal :=
  match (s.slot g).slice with
  | none => .next s
  | some l =>
    let gs := s.slotsWith l.id
    if !(s.slot g).dispatching then .next s
    else
      match gs.findSome? fun m => (s.slot m).footFail with
      | some (state, code) => .next (gs.foldl (fun s m => s.failOn m 6 state code) s)
      | none =>
        let waiting := gs.any fun m => match (s.slot m).slice with | some k => !k.pulling.isEmpty | none => false
        .next (if waiting then gs.foldl State.launchRanges s else s.startSlice gs)

/-! ## Aborts and budgets (R345, R347) -/

/-- ABORT_REQUEST_DELIVERY: the oldest abort request of a die reaches the slots of its slice (R340). -/
def execAbortRequestDelivery (d : Nat) (s : State) : Host.Outcome State Fault Refusal :=
  match (s.die d).aborts with
  | [] => .next s
  | id :: ids =>
    .next (if s.mayTurn d 6 then
      (s.slotsWith id).foldl (fun s g => s.modSlot g fun x => { x with abort := true })
        ((s.turned d 6).modDie d fun x => { x with aborts := ids })
      else s)

/-- SLICE_ABORT: an abort request takes effect on a slot that stalls: its region, and its gang's, is discarded and the slice is to
leave; a slot that does not stall goes on to its region's boundary (R345). -/
def execSliceAbort (g : Nat) (s : State) : Host.Outcome State Fault Refusal :=
  let x := s.slot g
  let final := match x.wait with | some (.leave (.failed _ _ _)) => true | _ => false
  let stalls := x.wait.isSome || x.soloWait.isSome || x.barred
  .next (if x.slice.isSome && x.abort && !x.dispatching && !final && stalls && !s.stopped (clusterOf g) then
    (s.gangOf g).foldl (fun s m => (s.rerun m 6).endSolo m) (s.giveUpAll (s.gangOf g)) else s)

/-- Does a slot stand still: its cluster is fenced, or its die's clock does not run? -/
def State.standsStill (s : State) (g : Nat) : Bool := (s.cluster (clusterOf g)).fenced || s.stopped (clusterOf g)

/-- BUDGET_EXHAUSTED: the budget of the slice on a slot has come to 0: the trap entry without its vector, on each member of the
slot's gang (R347). -/
def execBudgetExhausted (g : Nat) (s : State) : Host.Outcome State Fault Refusal :=
  let x := s.slot g
  let gs := s.gangOf g
  .next (if x.runs && !x.leaves && gs.headD g == g && !s.standsStill g && gs.any s.exhausted
    then s.takeDue g else s)

/-! ## Pre-emption (R349) -/

/-- The slice that runs on a slot, if its level is below the given one. -/
def Slot.lower (x : Slot) (level : Nat) : Option Slice :=
  if x.runs then x.slice.bind fun l => if l.prio < level then some l else none else none

/-- The slots that an entry could take by pre-emption: named by PLACE, admitting but for their running slices of a lower
level (R349). -/
def State.preemptable (s : State) (l : Slice) : List (Nat × Slice) :=
  ((placeGroups (l.target / 64) l.place).filter fun gs => gs.all fun g =>
      s.suits g l && ((s.slot g).slice.isNone || ((s.slot g).lower l.prio).isSome)).flatten.filterMap fun g =>
    if (s.slot g).preempt.isSome then none else ((s.slot g).lower l.prio).map fun k => (g, k)

/-- Is the first of two slices with their slots pre-empted rather than the second: the lowest level, the latest deadline, the
highest slot (R349)? -/
def preemptBefore (a b : Nat × Slice) : Bool :=
  if a.2.prio ≠ b.2.prio then a.2.prio < b.2.prio
  else if a.2.deadline ≠ b.2.deadline then a.2.deadline = 0 || (b.2.deadline != 0 && b.2.deadline < a.2.deadline)
  else b.1 ≤ a.1

/-- The slice to pre-empt. -/
def firstPreempt : List (Nat × Slice) → Option (Nat × Slice)
  | [] => none
  | a :: as => match firstPreempt as with | none => some a | some b => if preemptBefore a b then some a else some b

/-- PREEMPT_REQUEST: after the dispatch decision of a ck, the entry that comes first has no admitting free slot, and a slice of a
lower level is asked to leave (R340, R349). -/
def execPreemptRequest (d : Nat) (s : State) : Host.Outcome State Fault Refusal :=
  match firstEntry ((s.die d).queued.filter fun l => !s.dropped l) with
  | none => .next s
  | some l =>
    if s.man.stage ≠ 7 ∨ !s.mayTurn d 4 ∨ (s.seat l).isSome then .next s
    else
      match firstPreempt (s.preemptable l) with
      | none => .next s
      | some (_, k) =>
        .next ((s.slotsWith k.id).foldl (fun s g =>
          (s.postAsync g 0x2C1 (BitVec.ofNat 32 l.prio)).modSlot g fun x => { x with preempt := some (s.ckOf (clusterOf g)) })
          (s.turned d 5))

/-- Has a slot's slice failed, so that it waits to leave as such? -/
def Slot.failing (x : Slot) : Bool := match x.wait with | some (.leave (.failed _ _ _)) => true | _ => false

/-- PREEMPT_TIMEOUT: a slice that has not left 32,768 ck after its request is ended with reason 4 (R349). -/
def execPreemptTimeout (g : Nat) (s : State) : Host.Outcome State Fault Refusal :=
  let x := s.slot g
  match x.slice, x.preempt with
  | some l, some t =>
    .next (if t + 32768 ≤ s.ckOf (clusterOf g) ∧ !x.failing then (s.slotsWith l.id).foldl (fun s m => s.failOn m 4 0 0) s else s)
  | _, _ => .next s

/-! ## Leaving a slot (R347, R348, R350) -/

/-- The way in which a slot leaves, if it waits to. -/
def Slot.leaving (x : Slot) : Option Leave := match x.wait with | some (.leave h) => some h | _ => none

/-- May a slice keep its watches when it leaves so? -/
def Leave.keeps : Leave → Bool
  | .yield _ _ => true
  | .sleep _ _ => true
  | _ => false

/-- The engines whose completions for a slot wait for their commits. -/
def State.completions (s : State) (g : Nat) : List Nat :=
  let gc := clusterOf g
  ((s.cluster gc).ready.filter fun y => y.2.slot == g && s.stands gc y.2.work).map fun y => y.2.engine

/-- Does a slot hold no uncompleted copy or pull (R270)? -/
def State.pullsDone (s : State) (g : Nat) : Bool :=
  !((s.pull (clusterOf g)).ops.any fun o => o.slot == g) && !(s.completions g).contains 1

/-- What a slot's leaving completes first: its watches, under RETIRE once its copies and pulls are complete, unless they are kept,
and for a failed slice its operations that have not started (R240, R270, R317, R348). -/
def State.prepareLeave (s : State) (g : Nat) (h : Leave) : State :=
  match h with
  | .failed _ _ _ => (((s.endWatches g).cancelMat g).cancelPulls g).cancelSends g
  | .yield _ _ => s
  | .sleep _ _ => s
  | .retire => if s.pullsDone g then s.endWatches g else s
  | .budget => s.endWatches g

/-- Does nothing remain that a slot waits for before its slice leaves it (R348)? A failed slice and one whose budget is exhausted
do not wait for a phase that can never complete (R135, log entry 21). A fenced cluster's slot waits for nothing. -/
def State.clear (s : State) (g : Nat) (h : Leave) : Bool :=
  let gc := clusterOf g
  let x := s.slot g
  let u := s.pull gc
  let marks := match h with | .failed _ _ _ => s.marked g | .budget => s.marked g | _ => !x.arrivals.isEmpty
  let kept := if h.keeps then (u.watches.filter fun w => w.slot == g).map fun w => w.st else []
  let pending := (List.range 32).any fun i => i != 0 && bit x.live.pend i && !kept.contains i
  (s.cluster gc).fenced ||
    (!marks && ((s.cluster gc).mat.ofSlot g).isEmpty && !pending
      && !(u.ops.any fun o => o.slot == g) && !(u.sends.any fun y => y.slot == g) && !(u.subs.any fun y => y.slot == g)
      && !(u.xlats.any fun y => y.slot == g) && (s.completions g).isEmpty)

/-- Does a slice hold something on a slot that binds it to the slot: accumulators, watches, open rings, barrier marks (R348)? -/
def State.binds (s : State) (g : Nat) (id : Nat) : Bool :=
  let gc := clusterOf g
  (s.mat gc).owner.any (fun o => o.2.1 == g) || (s.pull gc).watches.any (fun w => w.slot == g && w.slice == id)
    || (s.core (g / 4)).rings.any (fun r => r.2.isOpen && r.2.slot == g) || !(s.slot g).arrivals.isEmpty

/-- The placement of exactly one slot (R332). -/
def placeSlotOnly (g : Nat) : Word :=
  BitVec.ofNat 32 (2 * 2 ^ 30 + clusterOf g % Config.clustersPerDie * 2 ^ 5 + coreOf g * 4 + g % 4)

/-- A slice as it goes back to its queue or to the wheel: the budget left, and the placement of the slot it is bound to
(R348). A gang's slice keeps its placement, and every slot of it is held: the model's choice (log entry 75). -/
def State.awayFrom (s : State) (l : Slice) (gs : List Nat) (entry : Word) (held : Bool) : Slice :=
  let lead := gs.headD 0
  { l with
    entry := entry
    left := l.leftAt (s.ckOf (clusterOf lead))
    since := none
    pulling := []
    place := if held && gs.length == 1 then placeSlotOnly lead else l.place }

/-- A slot is left: nothing of the slice remains on it but what it is held for (R348). -/
def Slot.left (x : Slot) (held : Option Nat) : Slot :=
  { x with
    slice := none, wait := none, dispatching := false, halted := false, abort := false, preempt := none, footFail := none,
    solo := none, soloWait := none, async := [], fails := [], loads := [], walk := none, pages := [], hostWait := none,
    heldFor := held,
    region := { Region.reset with no := x.region.no + 1 } }

/-- The slots of a slice are left: a parked region is discarded (spec/14_host.md R395), and barrier marks stay only on a slot that
is held for the slice (R135, R348). -/
def State.vacate (s : State) (gs : List Nat) (held : Option Nat) : State :=
  gs.foldl (fun s g =>
    let s1 := (s.giveUp g).dropParked g
    (if held.isSome then s1 else s1.dropMarks g).modSlot g fun x => x.left held) s

/-- What a slice owns on its slots is given up: accumulators and rings (R221, R317). -/
def State.giveBackAll (s : State) (gs : List Nat) : State :=
  gs.foldl (fun s g => (s.modMat (clusterOf g) fun m => m.freeAcc g).closeRings g) s

/-- A slice leaves its slots (R347, R348, R350). -/
def State.leave (s : State) (gs : List Nat) (l : Slice) (h : Leave) : State :=
  let d := l.target / 64
  let held := gs.any fun g => s.binds g l.id
  let away (entry : Word) : Slice := s.awayFrom l gs entry held
  let hold := if held then some l.id else none
  match h with
  | .retire => (s.giveBackAll gs).vacate gs none
  | .yield entry a0 =>
    (s.vacate gs hold).modDie d fun x => { x with queued := x.queued ++ [{ away entry with args := l.args.set 0 a0 }] }
  | .sleep entry t => (s.vacate gs hold).modDie d fun x => { x with timed := x.timed ++ [(s.releaseTick t, away entry)] }
  | .budget =>
    let s1 := (s.giveBackAll gs).vacate gs none
    if flagREQ l.flags ∧ l.attempt < flagMAXR l.flags then
      s1.modDie d fun x => { x with queued := x.queued ++
        [{ l with attempt := l.attempt + 1, left := l.budget.toNat, since := none, pins := [], pulling := [] }] }
    else s1.failSlice l 1 0 0x2C0
  | .failed reason state code => ((s.giveBackAll gs).vacate gs none).failSlice l reason state code

/-- Does a slice that leaves go back to its queue or to the wheel (R347, R348)? -/
def Leave.requeues (h : Leave) (l : Slice) : Bool :=
  match h with
  | .retire => false
  | .yield _ _ => true
  | .sleep _ _ => true
  | .budget => flagREQ l.flags && l.attempt < flagMAXR l.flags
  | .failed _ _ _ => false

/-- Is the end of a slice that leaves so recorded (R350)? -/
def Leave.fails (h : Leave) (l : Slice) : Bool :=
  match h with
  | .budget => !h.requeues l
  | .failed _ _ _ => true
  | _ => false

/-- May a slice leave so now, but for the commit of its record: the engine's die does not stand still, and a requeue has its turn in
R340's order and finds room, which it waits for (R329, log entry 48). -/
def State.mayLeave (s : State) (l : Slice) (h : Leave) : Bool :=
  let d := l.target / 64
  if h.requeues l then s.mayTurn d 2 && s.hasRoom l.target else !s.stopped (taskCluster d)

/-- How a slice leaves, whose slots leave in some ways: as failed when one slot has failed, else as its first. -/
def wayOf (ways : List (Nat × Option Leave)) : Option Leave :=
  (ways.findSome? fun w => match w.2 with | some (.failed a b c) => some (Leave.failed a b c) | _ => none).or
    (ways.head?.bind fun w => w.2)

/-- Does an abort request that the engine has made of a slice still wait to be delivered, or to take effect on one of its slots
(R339, R340, R345)? -/
def State.abortDue (s : State) (l : Slice) : Bool :=
  (s.die (l.target / 64)).aborts.contains l.id || (s.slotsWith l.id).any fun m => (s.slot m).abort && !(s.slot m).failing

/-- Does a trap, a pre-emption or the budget end the wait of a slot to leave (R12, R347)? -/
def State.interrupts (s : State) (g : Nat) : Bool := !(s.slot g).leaves && (s.dueCause g).isSome

/-- A slice leaves its slots once every one of them waits to leave and nothing that they wait for remains, unless a cause ends the
wait first (R12, R348). -/
def State.sliceLeave (s : State) (g : Nat) : State :=
  match (s.slot g).slice, (s.slot g).leaving with
  | some l, some _ =>
    let gs := s.slotsWith l.id
    let ways := gs.map fun m => (m, (s.slot m).leaving)
    if (ways.any fun w => w.2.isNone) || s.abortDue l || gs.any s.interrupts then s
    else
      let s1 := (ways.foldl (fun s w => match w.2 with | some h => s.prepareLeave w.1 h | none => s) s).settle (clusterOf g)
      let s2 := s1.settle (taskCluster (l.target / 64))
      let ready := ways.all fun w => match w.2 with | some h => s2.clear w.1 h | none => false
      match wayOf ways with
      | some h =>
        let k := ((s2.slot (gs.headD g)).slice).getD l
        if !ready || !s2.mayLeave k h then s2
        else if h.fails k then s2.attemptRecord k.target 1 (.leave (gs.headD g)) fun s => s.leave gs k h
        else (if h.requeues k then s2.turned (l.target / 64) 2 else s2).leave gs k h
      | none => s2
  | _, _ => s

/-- SLICE_LEAVE: the slice on a slot leaves it (R348). -/
def execSliceLeave (g : Nat) (s : State) : Host.Outcome State Fault Refusal := .next (s.sliceLeave g)

/-! ## The fence of a cluster (spec/01_engines.md R46) -/

/-- A cluster is fenced: its slots stop, their regions are discarded and their slices are to end with reason 8; its watches are
answered with 0x43, as are the requests that wait at its port, and its own requests are dropped; Taproot logs it (R46, R350,
spec/15_taproot.md R419). -/
def State.fence (s : State) (gc why : Nat) : State :=
  if (s.cluster gc).fenced then s
  else
    let hit := (s.cluster gc).watchers
    let s1 := ((s.slotsOf gc).filter fun g => (s.slot g).slice.isSome).foldl (fun s g => s.failOn g 8 0 0) s
    let s2 := s1.modCluster gc fun c =>
      { c with fenced := true, ready := [], watchers := [], pull := { PullUnit.reset with nextId := c.pull.nextId } }
    let s3 := hit.foldl (fun s e => s.answerWatch e 0x43 0) s2
    ((s3.keepRequests fun r => r.gc != gc).serveInbound gc).logMachine 0x3E1 gc [why]

/-- FENCE: Taproot fences a failed cluster on its own detection (1), at Husk's request (2) or by a plan (3) (R46). -/
def execFence (gc why : Nat) (s : State) : Host.Outcome State Fault Refusal := .next (s.fence gc why)

end Sys2Proof.Machine
end

