-- ==== Sys2Proof/Machine/Tasks.lean ====
section
/-!
DEFINITION. The instructions of the task engine (spec/12_tasks.md R335-R351).
-/

namespace Sys2Proof.Machine

/-- A malformed queue target (R335). -/
def badTarget (t : Word) : Bool := 2 ^ 10 ≤ t.toNat || 11 < t.toNat / 64

/-- The launch of a submission: its checks, then the effect (R335, R336). -/
def State.submitWord (s : State) (t a b : BitVec 5) (time : Option Nat) : State :=
  let x := s.rS a
  if badTarget (s.rS b) then s.raise 0x2C2 (s.rS b)
  else if x.toNat % 4 ≠ 0 ∨ (outsideLocal s.myCluster (x.toNat, 132)).isSome then s.raise 0x2C4 x
  else s.launch t (.submit t.toNat (s.rS b).toNat (s.flatLocal x.toNat) time)

/-- SUBMIT (R336). -/
def execSubmit (t a b : BitVec 5) (s : State) : Host.Outcome State Fault Refusal :=
  word (useS [t, a, b]) (fun s => s.submitWord t a b none) s

/-- A release time: a low word and the high word in the next register (R335). -/
def State.timeAt (s : State) (c : BitVec 5) : Nat := (s.quad c 0).toNat + 2 ^ 32 * (s.quad c 1).toNat

/-- SUBAT (R336, R338). -/
def execSubat (t a b c : BitVec 5) (s : State) : Host.Outcome State Fault Refusal :=
  word { s := [t.toNat, a.toNat, b.toNat] ++ regsFrom c 2 } (fun s => s.submitWord t a b (some (s.timeAt c))) s

/-- CANCEL (R339). -/
def execCancel (t a b : BitVec 5) (s : State) : Host.Outcome State Fault Refusal :=
  word (useS [t, a, b]) (fun s =>
    if badTarget (s.rS a) then s.raise 0x2C2 (s.rS a)
    else s.launch t (.cancel t.toNat (s.rS a).toNat ((s.rS b).toNat % 2 ^ 16))) s

/-- YIELD (R348). -/
def execYield (a b : BitVec 5) (s : State) : Host.Outcome State Fault Refusal :=
  word (useS [a, b]) (fun s => s.endRegion (.yield (s.rS a) (s.rS b))) s

/-- RETIRE (R348). -/
def execRetire (s : State) : Host.Outcome State Fault Refusal := word {} (fun s => s.endRegion .retire) s

/-- SLEEPT (R348). -/
def execSleept (a b : BitVec 5) (s : State) : Host.Outcome State Fault Refusal :=
  word { s := a.toNat :: regsFrom b 2 } (fun s => s.endRegion (.sleep (s.rS a) (s.timeAt b))) s

/-- The state of a queue as QSTAT reads it (R351). -/
def State.queueWord (s : State) (target : Nat) : Word :=
  let d := s.die (target / 64)
  let mine := d.queued.filter fun l => l.target == target
  let top := match firstEntry mine with | some l => l.prio | none => 0
  BitVec.ofNat 32 ((if (s.queue target).en then 2 ^ 31 else 0) + top * 2 ^ 27 + (if mine.isEmpty then 0 else 2 ^ 26)
    + d.entries target * 2 ^ 13 + (4096 - d.total))

/-- QSTAT (R351). -/
def execQstat (t a : BitVec 5) (s : State) : Host.Outcome State Fault Refusal :=
  word (useS [t, a]) (fun s =>
    let x := s.rS a
    if badTarget x then s.raise 0x2C2 x
    else if !s.src.rt && (s.queue x.toNat).domain != s.me.domain then s.raise 0x2C5 x
    else s.wS t (s.queueWord x.toNat)) s

/-- FPIN: a refresh is a read issued after an acquire in flight, and waits for it (R344, spec/01_engines.md R31). -/
def execFpin (t a b : BitVec 5) (s : State) : Host.Outcome State Fault Refusal :=
  word (useS [t, a, b]) (fun s =>
    if 3 < (s.rS a).toNat ∨ 1 < (s.rS b).toNat then s.raise 0x2C3 (s.rS a)
    else if s.rS b = 1 ∧ s.acquiring then s.stallFor (.wait false)
    else s.launch t (.fpin t.toNat (s.rS a).toNat (s.rS b == 1))) s

end Sys2Proof.Machine
end

