-- ==== Sys2Proof/Machine/Fabric.lean ====
section
/-!
DEFINITION. The instructions of the Oxgor port: remote keys and checkpoint partners (spec/13_fabric.md R358-R376).
-/

namespace Sys2Proof.Machine

/-- A local range that lies wholly in the RAW window or in a memory core's HBM window. -/
def ownRange (gc a n : Nat) : Bool := 0x40000 ≤ a && (outsideLocal gc (a, n)).isNone

/-- The keys that regions of a cluster's slots have reserved (R358; spec/14_host.md R395). -/
def State.reservedKeys (s : State) (gc : Nat) : List (Nat × Nat × Nat × Nat) :=
  (s.slotsOf gc).flatMap fun g =>
    let x := s.slot g
    x.region.res.keys ++ x.region.kept.keys ++ (match x.parked with | some r => r.res.keys | none => [])

/-- The cause of a registration, but for the table's own limits (R358). -/
def State.rkregCause (s : State) (b n f : Word) : Option (Nat × Word) :=
  if !s.src.rt then some (0x300, 0)
  else if bits f 6 26 ≠ 0 then some (0x301, f)
  else if b.toNat % 64 ≠ 0 ∨ n = 0 ∨ n.toNat % 64 ≠ 0 ∨ 0x400000 < n.toNat ∨ !ownRange s.myCluster b.toNat n.toNat then
    some (0x302, b)
  else if s.padForeign b.toNat n.toNat then some (0x303, b) else none

/-- A key is reserved and its registration appended (R358). -/
def State.reserveKey (s : State) (t : BitVec 5) (key base len flags : Nat) (kept : List (Nat × Nat × Nat × Nat)) : State :=
  let s1 := s.modMe fun x =>
    { x with region := { x.region with
        res := { x.region.res with keys := x.region.res.keys ++ [(key, base, len, flags)] }
        kept := { x.region.kept with keys := kept } } }
  (s1.wS t (BitVec.ofNat 32 key)).effect (.rkreg key base len flags)

/-- The next value of a cluster's key sequence (R358, log entry 8). -/
def State.nextKey (s : State) (gc : Nat) : Nat :=
  let n := (s.cluster gc).keysIssued
  if h : n < 1048575 then ((Config.keyPerm s.resets gc ⟨n, h⟩).val + 1) * 4096 + gc else 0

/-- RKREG (R358); a replayed registration takes the kept key of its range (spec/14_host.md R395). -/
def execRkreg (t a b c : BitVec 5) (s : State) : Host.Outcome State Fault Refusal :=
  word (useS [t, a, b, c]) (fun s =>
    let gc := s.myCluster
    let base := s.flatLocal (s.rS a).toNat
    let len := (s.rS b).toNat
    let flags := (s.rS c).toNat
    match s.rkregCause (s.rS a) (s.rS b) (s.rS c) with
    | some (code, v) => s.raise code v
    | none =>
      match s.me.region.kept.keys.find? fun k => k.2.1 == base && k.2.2.1 == len with
      | some k => s.reserveKey t k.1 base len flags (s.me.region.kept.keys.erase k)
      | none =>
        if 64 ≤ (s.cluster gc).keys.length + (s.reservedKeys gc).length ∨ 1048575 ≤ (s.cluster gc).keysIssued then
          s.raise 0x304 0
        else
          (s.modCluster gc fun k => { k with keysIssued := k.keysIssued + 1 }).reserveKey t (s.nextKey gc) base len flags
            s.me.region.kept.keys) s

/-- RKREV (R360). -/
def execRkrev (a : BitVec 5) (s : State) : Host.Outcome State Fault Refusal :=
  word (useS [a]) (fun s =>
    let k := s.rS a
    if !s.src.rt then s.raise 0x300 0
    else if (s.cluster s.myCluster).keys.any fun e => e.key == k.toNat && e.domain == s.me.domain && e.revoked.isNone then
      s.effect (.rkrev k.toNat)
    else s.raise 0x305 k) s

/-- CKREG (R375, R376). -/
def execCkreg (t a b : BitVec 5) (s : State) : Host.Outcome State Fault Refusal :=
  word (useS [t, a, b]) (fun s =>
    if !s.src.rt then s.raise 0x300 0
    else if bits (s.rS a) 10 22 ≠ 0 then s.raise 0x306 (s.rS a)
    else if bits (s.rS b) 1 31 ≠ 0 then s.raise 0x306 (s.rS b)
    else s.launch t (.ckreg t.toNat (s.rS a).toNat (bit (s.rS b) 0))) s

/-- CKDEL (R375, R376). -/
def execCkdel (t a : BitVec 5) (s : State) : Host.Outcome State Fault Refusal :=
  word (useS [t, a]) (fun s =>
    if !s.src.rt then s.raise 0x300 0
    else if bits (s.rS a) 10 22 ≠ 0 then s.raise 0x306 (s.rS a)
    else s.launch t (.ckdel t.toNat (s.rS a).toNat)) s

end Sys2Proof.Machine
end

