-- ==== Sys2Proof/Machine/Xlat.lean ====
section
/-!
DEFINITION. The instructions of the host port and the translation engine (spec/14_host.md R392-R400).
-/

namespace Sys2Proof.Machine

/-- The checks that every XLAT word makes first: the privilege and the high register (R392). -/
def State.xlatCause (s : State) (hi : Word) : Option (Nat × Word) :=
  if !s.src.rt then some (0x384, 0) else if notCanonical hi then some (0x1C0, hi) else none

/-- The launch of an invalidation (R393). -/
def invalidation (all : Bool) (t a b c : BitVec 5) (s : State) : Host.Outcome State Fault Refusal :=
  word (useS [t, a, b, c]) (fun s =>
    let len := s.rS c
    match s.xlatCause (s.rS a) with
    | some (k, v) => s.raise k v
    | none =>
      if len ≠ 0 ∧ (s.rS b).toNat % 1024 ≠ 0 then s.raise 0x385 (s.rS b)
      else if len.toNat % 1024 ≠ 0 then s.raise 0x385 len
      else s.launch t (.invalidate t.toNat all (podAddr (s.rS a) (s.rS b)) len.toNat)) s

/-- PLBINV (R393). -/
def execPlbinv (t a b c : BitVec 5) (s : State) : Host.Outcome State Fault Refusal := invalidation false t a b c s

/-- XLINV (R393). -/
def execXlinv (t a b c : BitVec 5) (s : State) : Host.Outcome State Fault Refusal := invalidation true t a b c s

/-- The malformed operand of a HOVR, if any (R400, log entry 18). -/
def State.hovrBad (s : State) (c : BitVec 5) : Option Word :=
  let w0 := s.quad c 0
  let p := s.quad c 1
  let v := s.quad c 2
  if bits w0 6 25 ≠ 0 then some w0
  else if Config.clusters ≤ p.toNat ∨ !isMem p.toNat then some p
  else if v.toNat % 2 ^ 21 ≠ 0 ∨ hbmSize < v.toNat + (s.region (bits w0 0 6)).len.toNat then some v else none

/-- HOVR: DIR of its first operand says whether it takes or gives (R400). -/
def hovrWord (t a b c : BitVec 5) (s : State) : Host.Outcome State Fault Refusal :=
  word { s := [t.toNat, a.toNat, b.toNat] ++ regsFrom c 3 } (fun s =>
    let w0 := s.quad c 0
    match (s.xlatCause (s.rS a)).or ((s.hovrBad c).map fun v => (0x385, v)) with
    | some (k, v) => s.raise k v
    | none =>
      s.launch t (.hovr t.toNat (bit w0 31) (bits w0 0 6) (s.quad c 1).toNat (s.quad c 2).toNat
        (podAddr (s.rS a) (s.rS b)))) s

/-- HOVR with DIR = 0; the word of a give is the same (R400). -/
def execHovrTake (t a b c : BitVec 5) (s : State) : Host.Outcome State Fault Refusal := hovrWord t a b c s

/-- HOVR with DIR = 1; the word of a take is the same (R400). -/
def execHovrGive (t a b c : BitVec 5) (s : State) : Host.Outcome State Fault Refusal := hovrWord t a b c s

/-- OP and LEN of a MIGR (R396). -/
def migrOp (w1 : Word) : Nat := bits w1 30 2
/-- LEN. -/
def migrLen (w1 : Word) : Nat := bits w1 0 22

/-- The malformed operand of a MIGR, if any; `take` says that its source fields name registers (R396). -/
def State.migrBad (s : State) (c : BitVec 5) (take : Bool) : Option Word :=
  let loc := s.quad c 0
  let w1 := s.quad c 1
  let len := migrLen w1
  if bits w1 22 8 ≠ 0 ∨ (len ≠ 1024 ∧ len ≠ 2 ^ 21) ∨ (migrOp w1 == 1) ≠ take then some w1
  else if loc.toNat % len ≠ 0 ∨ !ownRange s.myCluster loc.toNat len then some loc else none

/-- The local forms of MIGR: SEAL, DISCARD and RECLAIM by OP. A SEAL and a RECLAIM enter every line of the range in the
write signature (R396). -/
def migrLocal (t c : BitVec 5) (s : State) : Host.Outcome State Fault Refusal :=
  word { s := t.toNat :: regsFrom c 2 } (fun s =>
    let op := migrOp (s.quad c 1)
    let len := migrLen (s.quad c 1)
    let f := s.flatLocal (s.quad c 0).toNat
    match (s.xlatCause 0).or ((s.migrBad c false).map fun v => (0x385, v)) with
    | some (k, v) => s.raise k v
    | none =>
      let lines := if op = 2 then [] else linesOfRows [f] len
      (s.modMe fun x =>
        { x with region := { x.region with wsig := lines.foldl (fun r l => r ||| sigBits (64 * l)) x.region.wsig } }).launch t
          (.migr t.toNat op f len)) s

/-- MIGR SEAL; the word of DISCARD and RECLAIM is the same (R396). -/
def execMigrSeal (t c : BitVec 5) (s : State) : Host.Outcome State Fault Refusal := migrLocal t c s

/-- MIGR DISCARD; the word of SEAL and RECLAIM is the same (R396). -/
def execMigrDiscard (t c : BitVec 5) (s : State) : Host.Outcome State Fault Refusal := migrLocal t c s

/-- MIGR RECLAIM; the word of SEAL and DISCARD is the same (R396). -/
def execMigrReclaim (t c : BitVec 5) (s : State) : Host.Outcome State Fault Refusal := migrLocal t c s

/-- MIGR TAKE: an acquiring pull of one page into LOC (R396). -/
def execMigrTake (t a b c : BitVec 5) (s : State) : Host.Outcome State Fault Refusal :=
  word { s := [t.toNat, a.toNat, b.toNat] ++ regsFrom c 2 } (fun s =>
    let len := migrLen (s.quad c 1)
    let pod := podAddr (s.rS a) (s.rS b)
    let f := s.flatLocal (s.quad c 0).toNat
    let bad := if a = 0 ∨ b = 0 then some (s.quad c 1) else s.migrBad c true
    match (s.xlatCause (s.rS a)).or ((bad.map fun v => (0x385, v)).or (highFault [pod] len)) with
    | some (k, v) => s.raise k v
    | none =>
      if s.acquiring then s.stallFor (.wait false)
      else
        s.withPages (rdRight + acqRight) 3 (chunkAddrs len pod) fun ps s =>
          s.launch t (.pull .take t.toNat [pod] [f] len ps)) s

end Sys2Proof.Machine
end

