-- ==== Sys2Proof/Machine/HostSteps.lean ====
section
/-!
DEFINITION. The steps of the host port and the translation engine: walks, invalidations, host submissions, host regions and
host pages (spec/14_host.md R384-R401).
-/

namespace Sys2Proof.Machine

/-! ## Translation (R387, R390, R393) -/

/-- The end of the walk that a slot waits for (R387, R390, R394): the leaf fills the caches and stays for the slot's bundle, else the slot's bundle will take the
cause. -/
def State.endWalk (s : State) (g : Nat) (w : Walk) : State :=
  let set (s : State) (r : Option Walk) : State := s.modSlot g fun x => { x with walk := r }
  let keep (s : State) (p : Page) : State := s.modSlot g fun x => { x with walk := none, pages := x.pages ++ [p] }
  match s.walk (g / 4) w.addr with
  | .fault => set s (some { w with failed := some false })
  | .malformed => set s (some { w with failed := some true })
  | .leaf p => ((keep s p).fillX (clusterOf g) p).fillPlb g (s.slot g).domain p

/-- TRANSLATION_WALK_DONE: the translation engine has walked the page table for a slot (R387). -/
def execTranslationWalkDone (g : Nat) (s : State) : Host.Outcome State Fault Refusal :=
  match (s.slot g).walk with
  | some w => .next (if w.failed.isNone then s.endWalk g w else s)
  | none => .next s

/-- A translation request of a cluster by its number. -/
def State.xlatOf (s : State) (gc id : Nat) : Option XlatRec := (s.pull gc).xlats.find? fun x => x.id == id

/-- A translation request ends, and its token waits for its commit. -/
def State.endXlat (s : State) (gc : Nat) (x : XlatRec) (state : Nat) : State :=
  (s.modPull gc fun u => { u with xlats := u.xlats.filter fun y => y.id != x.id }).xlatEnds x.slot x.st state x.id

/-- INVALIDATE_COMPLETE: a drop is complete in every core and cluster, and its token commits (R393, log entry 17). -/
def execInvalidateComplete (gc id : Nat) (s : State) : Host.Outcome State Fault Refusal :=
  match s.xlatOf gc id with
  | none => .next s
  | some x =>
    match x.op with
    | .invalidate all addr len => .next (((s.dropRange all addr len).endXlat gc x 0x00).settle gc)
    | _ => .next s

/-! ## Host submissions (R385, R386) -/

/-- Does BAR0 answer (spec/15_taproot.md R408)? -/
def State.barUp (s : State) : Bool := 4 ≤ s.man.stage

/-- The entries of both rings: 2^LOGN (R385). -/
def HostPort.ringSize (h : HostPort) : Nat := 2 ^ bits h.sqcfg 28 4

/-- SQ_DOORBELL: the host writes SQTAIL (R385). -/
def execSqDoorbell (tail : Word) (s : State) : Host.Outcome State Fault Refusal :=
  .next (if s.barUp then s.modHost fun h => { h with sqtail := tail } else s)

/-- CQHEAD_WRITE: the host frees completions; a write that overruns CQTAIL is ignored (R386). -/
def execCqheadWrite (head : Word) (s : State) : Host.Outcome State Fault Refusal :=
  .next (if s.barUp && (s.host.cqtail - head).toNat ≤ s.host.ringSize then s.modHost fun h => { h with cqhead := head } else s)

/-- May the host port take an entry: one is placed and the completion ring has room (R386)? -/
def State.mayTake (s : State) : Bool :=
  s.barUp && !s.man.trip && s.host.sqhead != s.host.sqtail && (s.host.cqtail - s.host.cqhead).toNat != s.host.ringSize

/-- The completion of the entry that the port has taken, in the host's ring, with MSI-X vector 0 (R386). -/
def State.completeEntry (s : State) (sid state number : Nat) : State :=
  let h := s.host
  let i := h.cqtail.toNat
  let at_ := h.cqbase.toNat + 16 * (i % h.ringSize)
  let ws : List Word := [BitVec.ofNat 32 (sid * 2 ^ 16 + state * 2 ^ 8), h.sqhead, BitVec.ofNat 32 number, 0]
  ((s.modHost fun h => { h with sqhead := h.sqhead + 1, cqtail := h.cqtail + 1 }).emit (.completion at_ ws)).emit (.msix 0)

/-- HOST_SUBMISSION_TAKE: the port takes the next entry of the submission ring, whose words the host's memory holds, as the effect
of a SUBMIT by an agent of cluster 288 of the target die (R386). -/
def execHostSubmissionTake (entry : List Word) (s : State) : Host.Outcome State Fault Refusal :=
  let target := entry.getD 0 0
  let sid := bits (entry.getD 1 0) 16 16
  let d := target.toNat / 64
  if !s.mayTake then .next s
  else if badTarget target then .next (s.completeEntry sid 0x81 0)
  else
    let s1 := s.settle (taskCluster d)
    if !(s1.cluster (taskCluster d)).fenced && !s1.mayTurn d 2 then .next s1
    else
      .next (s1.attemptEntry target.toNat (entry.drop 1) s1.host.domain s1.host.rt (.hostEntry entry) fun s =>
        let r := (s.turned d 2).submitRecord target.toNat (entry.drop 1) none 0xFFFFFFFF s.host.domain s.host.rt
        r.2.completeEntry sid r.1.1 r.1.2)

/-! ## Host regions (R399, R400) -/

/-- The takes that wait for the kick of a region: cluster and request. -/
def State.waitingTakes (s : State) (n : Nat) : List (Nat × XlatRec) :=
  s.clusters.flatMap fun c => (c.2.pull.xlats.filter fun x => match x.op with | .take m _ _ _ _ => m == n | _ => false).map fun x => (c.1, x)

/-- Since when a take waits. -/
def XlatRec.since (x : XlatRec) : Nat := match x.op with | .take _ _ _ _ t => t | _ => 0

/-- The take that waits longest. -/
def firstTake : List (Nat × XlatRec) → Option (Nat × XlatRec)
  | [] => none
  | x :: xs => match firstTake xs with | none => some x | some y => if x.2.since ≤ y.2.since then some x else some y

/-- A kicked region is given to the take that waits longest for it; the others find it in the wrong state (R400). -/
def State.giveKicked (s : State) (n : Nat) : State :=
  match firstTake (s.waitingTakes n) with
  | none => s
  | some (gc, x) =>
    let s1 := s.modPull gc fun u => { u with xlats := u.xlats.filter fun y => y.id != x.id }
    let s2 := match x.op with
      | .take _ proxy offset addr _ => s1.bindRegion x.slot x.st n proxy offset addr
      | _ => s1
    if (s2.region n).state = 2 then (s2.waitingTakes n).foldl (fun s y => s.endXlat y.1 y.2 0x84) s2 else s2

/-- REGION_KICK: the host writes KICK of a region slot; writing 1 in STATE 0 makes it kicked (R399). -/
def execRegionKick (n : Nat) (v : Word) (s : State) : Host.Outcome State Fault Refusal :=
  let r := s.region n
  .next (if s.barUp && n < 64 && v == 1 && r.state == 0 then (s.setHostRegion n { r with state := 1 }).giveKicked n else s)

/-- HOVR_KICK_TIMEOUT: a take has waited 1 ms for its kick (R400). -/
def execHovrKickTimeout (gc id : Nat) (s : State) : Host.Outcome State Fault Refusal :=
  match s.xlatOf gc id with
  | none => .next s
  | some x =>
    match x.op with
    | .take _ _ _ _ since => .next (if since + usUnits 1000 ≤ s.now then s.endXlat gc x 0x42 else s)
    | _ => .next s

/-- Has an alias drained: every commit written through, no busy range in it, no entry of the consuming request table for it
(R400)? -/
def State.drained (s : State) (x : Alias) : Bool :=
  let k := s.cluster x.proxy
  x.through.isEmpty && !(k.busy.any fun r => overlaps (64 * r.line) (64 * r.lines) x.start x.len)
    && !(k.served.any fun e => overlaps e.addr e.len x.start x.len)

/-- HOVR_GIVE_DRAIN_DONE: a give has drained: the alias is unbound, the pod range dropped, the region the host's again, and
MSI-X vector 1 raised (R400). -/
def execHovrGiveDrainDone (gc id : Nat) (s : State) : Host.Outcome State Fault Refusal :=
  match s.xlatOf gc id with
  | none => .next s
  | some x =>
    match x.op with
    | .give n _ addr =>
      let r := s.region n
      match r.alia with
      | none => .next (s.endXlat gc x 0x84)
      | some a =>
        .next (if s.drained a then
          (((s.setHostRegion n { r with state := 0, alia := none }).dropRange true addr a.len).emit (.msix 1)).endXlat gc x 0x00
          else s)
    | _ => .next s

/-! ## Host pages (R384, R401) -/

/-- The slots that wait for a host page take 0x387 as the failure of a load (R401; spec/09_pull.md R262). -/
def Slot.pageFailed (x : Slot) (pasid page : Nat) : Slot :=
  match x.hostWait with
  | some (p, q, a, pc) =>
    if p = pasid ∧ q = page then { x with hostWait := none, fails := x.fails ++ [(0x387, a, pc, x.region.no)] } else x
  | none => x

/-- A slot no longer waits for a host page that has come. -/
def Slot.pageArrived (x : Slot) (pasid page : Nat) : Slot :=
  match x.hostWait with
  | some (p, q, _, _) => if p = pasid ∧ q = page then { x with hostWait := none } else x
  | none => x

/-- Do some ranges of flat addresses meet a host page? -/
def State.meetsPage (s : State) (pasid page : Nat) (rs : List (Nat × Nat)) : Bool :=
  rs.any fun r => (linesOfRows [r.1] r.2).any fun l => s.absentPage (64 * l) == some (pasid, page)

/-- Does a line of a pod page lie on a host page? -/
def State.onPage (s : State) (pasid page : Nat) (p : Page) (a : Nat) : Bool := s.pageAwaited p a == some (pasid, page)

/-- Do some bytes land on a host page? -/
def State.landsOn (s : State) (pasid page : Nat) (ws : FMap Byte) : Bool :=
  (linesOf ws).any fun l => s.absentPage (64 * l) == some (pasid, page)

/-- The operations of a cluster that wait for a host page, which they read or write, end with 0x40 (R401). -/
def State.failOps (s : State) (gc pasid page : Nat) : State :=
  let u := s.pull gc
  let s1 := (u.ops.filter fun o => (o.kind.isLocal && o.bytes.isNone && s.meetsPage pasid page o.locals)
      || s.landsOn pasid page o.writes).foldl (fun s o => s.failPull gc o 0x40 false) s
  let s2 := (u.sends.filter fun x => x.payload.isNone && s.meetsPage pasid page [(x.msg.src, x.msg.len)]).foldl
    (fun s x => s.answerOp gc x.id .message (.fail 0x40)) s1
  let s3 := (u.fetches.filter fun f => s.onPage pasid page f.page f.addr).foldl
    (fun s f => s.answerOp gc f.id .fetch (.fail 0x40)) s2
  (u.ops.filter fun o => !o.kind.isLocal).foldl (fun s o =>
    ((linesOfRows o.src o.len).filter fun n => match pageAt o.pages (64 * n) with
      | some p => s.onPage pasid page p (64 * n)
      | none => false).foldl (fun s n => s.answerOp gc o.id (.line n) (.fail 0x40)) s) s3

/-- A page request has failed: what waits for the page fails (R401). -/
def State.failPage (s : State) (pasid page : Nat) : State :=
  (s.clusters.map (·.1)).foldl (fun s gc => s.failOps gc pasid page)
    { s with slots := s.slots.map fun c => (c.1, c.2.pageFailed pasid page) }

/-- The outstanding request for a host page. -/
def State.pageRequest (s : State) (pasid page : Nat) : Option PageRequest :=
  s.host.pri.find? fun r => r.pasid == pasid && r.page == page

/-- A request for a host page is no longer outstanding. -/
def State.dropRequest (s : State) (r : PageRequest) : State := s.modHost fun h => { h with pri := h.pri.filter (· != r) }

/-- HOST_PAGE_RESPONSE: the host answers a page request: the page is present and its translation is cached, or the request is
refused (R384, R401). -/
def execHostPageResponse (pasid page : Nat) (present : Bool) (s : State) : Host.Outcome State Fault Refusal :=
  match s.pageRequest pasid page with
  | none => .next s
  | some r =>
    let s1 := s.dropRequest r
    if present then
      let s2 : State := { s1 with slots := s1.slots.map fun c => (c.1, c.2.pageArrived pasid page) }
      .next (s2.modHost fun h => { h with ats := ((pasid, page) :: h.ats).take 4096 })
    else .next (s1.failPage pasid page)

/-- HOST_PAGE_TIMEOUT: a page request has gone unanswered for 100 us (R401). -/
def execHostPageTimeout (pasid page : Nat) (s : State) : Host.Outcome State Fault Refusal :=
  match s.pageRequest pasid page with
  | none => .next s
  | some r => .next (if r.since + usUnits 100 ≤ s.now then (s.dropRequest r).failPage pasid page else s)

/-- ATS_INVALIDATION: the host invalidates the cached translations of some pages of an address space (R384). -/
def execAtsInvalidation (pasid first count : Nat) (s : State) : Host.Outcome State Fault Refusal :=
  .next (s.modHost fun h => { h with ats := h.ats.filter fun e => !(e.1 == pasid && first ≤ e.2 && e.2 < first + count) })

/-! ## Write-through (R39, R401) -/

/-- The tokens of completions whose bytes have all reached host memory are written (R401). -/
def State.flushTokens (s : State) : State :=
  let due := s.host.tokens.filter fun t => !s.outward t.1 t.2.1
  due.foldl (fun s t => s.modSlot t.2.2.1 fun x => x.withToken t.2.2.2.1 t.2.2.2.2)
    { s with host := { s.host with tokens := s.host.tokens.filter fun t => s.outward t.1 t.2.1 } }

/-- The oldest commit of an alias has reached host memory: the commit is complete, its token is written, and the watches that it has
satisfied, or that found its word in place, are answered (spec/01_engines.md R39, spec/09_pull.md R267). -/
def State.wroteThrough (s : State) (n : Nat) (r : RegionSlot) (x : Alias) (rest : List (Nat × List Nat)) : State :=
  let s1 := (s.setHostRegion n { r with alia := some { x with through := rest } }).flushTokens
  let due (e : WatchEntry) : Option (Nat × Nat) := e.hit.filter fun h => !s1.outward x.proxy h.2
  (s1.cluster x.proxy).watchers.foldl (fun s e => match due e with | some h => s.answerWatch e h.1 h.2 | none => s)
    (s1.modCluster x.proxy fun c => { c with watchers := c.watchers.filter fun e => (due e).isNone })

/-- HOST_WRITE_THROUGH_DONE: the host reports that the bytes of the oldest commit of a bound region's alias have reached its
memory (R401). -/
def execHostWriteThroughDone (n : Nat) (s : State) : Host.Outcome State Fault Refusal :=
  let r := s.region n
  match r.alia with
  | none => .next s
  | some x =>
    match x.through with
    | [] => .next s
    | _ :: rest => .next (s.wroteThrough n r x rest)

end Sys2Proof.Machine
end

