-- ==== Sys2Proof/Machine/TaprootSteps.lean ====
section
/-!
DEFINITION. The steps of Taproot and Husk: BAR0 registers, management requests, modes and die clocks, module reset and
bring-up, power, temperature, margin plans, pod time and errors (spec/15_taproot.md R404-R419).
-/

namespace Sys2Proof.Machine

/-- Taproot's and Husk's registers changed. -/
def State.modMan (s : State) (f : Manager → Manager) : State := { s with man := f s.man }

/-! ## Modes and die clocks (R410, R411) -/

/-- The rank of a clock mode: Kale 0, Chard 1, Fennel 2. -/
def modeRank (m : Nat) : Nat := match m with | 0 => 1 | 1 => 2 | _ => 0

/-- The clock mode of a rank. -/
def rankMode (r : Nat) : Nat := match r with | 0 => 2 | 1 => 0 | _ => 1

/-- Does a die's plan enable a mode (R416)? -/
def Die.enables (d : Die) (m : Nat) : Bool := (d.plan.getD m (0, false)).2

/-- The clock mode that a die is to run for a requested one: the nearest mode, not above it, that its plan, its temperature and
the power limit allow (R411, R414). -/
def Die.target (d : Die) (clk : Nat) : Nat :=
  let top := if d.hot then 0 else min (modeRank clk) (d.lowered.getD 2)
  rankMode ((((List.range (top + 1)).reverse.find? fun r => d.enables (rankMode r))).getD 0)

/-- MODE.CLK and MODEREQ.CLK. -/
def State.clk (s : State) : Nat := bits s.mode 0 2

/-- A die's clock stops and restarts in a mode after some wall-clock time, in which no ck passes on it (R411). -/
def State.reclock (s : State) (d mode stop : Nat) : State :=
  s.modDie d fun x => { x with ck := s.ckDie d, since := s.now + stop, mode := mode }

/-- The margin plan that a die is to run: one that has been made and not yet applied, else the one in force (R416). -/
def Die.planned (x : Die) : Die := { x with plan := x.newPlan.getD x.plan, newPlan := none }

/-- MODE takes some settings; a change of XSTK or LEASE reaches each cluster within 10 us (R411, log entry 66). -/
def State.setMode (s : State) (m : Word) : State :=
  if (m ^^^ s.mode) &&& 0xC = 0 then { s with mode := m }
  else { s with mode := m, man := { s.man with wasMode := s.mode, modeAt := some s.now, modeNo := s.man.modeNo + 1 } }

/-- The settings of MODEREQ are applied: a new clock mode starts a change of the dies, from the lowest number on (R411). -/
def State.applyModes (s : State) : State :=
  let s1 := s.setMode s.man.modereq
  s1.modMan fun m => if bits m.modereq 0 2 ≠ s.clk then { m with pending := true, nextDie := 0 } else { m with pending := false }

/-- MODEREQ after a write: CLK 3 leaves the field unchanged, reserved bits read 0 (R411). -/
def modeWrite (old v : Word) : Word :=
  if bits v 0 2 = 3 then (v &&& 0x1C) ||| (old &&& 3) else v &&& 0x1F

/-- A request that has waited for the one before it is applied, once that one has been (R411, log entry 66). -/
def State.applyHeld (s : State) : State :=
  if s.man.held && !s.applying then (s.modMan fun m => { m with held := false }).applyModes else s

/-- A write of MODEREQ of which one field, the bits of a mask, is applied at once; while an earlier request is being applied, this one is
applied after it (R411, log entry 66). -/
def State.requestMode (s : State) (v mask : Word) : State :=
  if !s.barUp then s
  else
    let s1 := s.applyHeld.modMan fun m => { m with modereq := modeWrite m.modereq v }
    if s1.man.held || (s1.applying && (s1.man.modeAt != some s1.now || s1.man.pending)) then s1.modMan fun m => { m with held := true }
    else s1.setMode (merge s1.mode s1.man.modereq mask)

/-- MODE_XSTK_REQUEST: the part of a MODEREQ write that switches cross-domain stacking (R411, R242). -/
def execModeXstkRequest (v : Word) (s : State) : Host.Outcome State Fault Refusal := .next (s.requestMode v 0x04)

/-- MODE_LEASE_REQUEST: the part of a MODEREQ write that switches the lease of later fetches (R411, R260). -/
def execModeLeaseRequest (v : Word) (s : State) : Host.Outcome State Fault Refusal := .next (s.requestMode v 0x08)

/-- MODE_RLIM_REQUEST: the part of a MODEREQ write that sets the advisory region-limit bit, of which the device applies nothing
(R411). -/
def execModeRlimRequest (v : Word) (s : State) : Host.Outcome State Fault Refusal := .next (s.requestMode v 0x10)

/-- MODE_CLK_REQUEST: the part of a MODEREQ write that requests a clock mode; the dies change one at a time (R411). -/
def execModeClkRequest (v : Word) (s : State) : Host.Outcome State Fault Refusal :=
  let s1 := s.requestMode v 0x03
  .next (if s1.clk ≠ s.clk ∧ !s1.man.pending then s1.modMan fun m => { m with pending := true, nextDie := 0 } else s1)

/-- Does a die's clock stand still now? -/
def State.dieStops (s : State) (d : Nat) : Bool := s.now < (s.die d).since

/-- Is a die to change its clock or its voltage now: with a request being applied it is the next of the dies; else it is the first
with a new margin plan, or, with no new plan, one that does not run the mode that it is to run (R411, R414, R416)? -/
def State.switches (s : State) (d : Nat) : Bool :=
  if s.man.pending then d == s.man.nextDie
  else if (s.die d).newPlan.isSome then (List.range d).all fun e => (s.die e).newPlan.isNone
  else (s.die d).mode != (s.die d).target s.clk

/-- DIE_CLOCK_SWITCH: a die takes the plan and the mode that it is to run, after a stop of at most 8 us, while no other die stands
still; a request and a new plan take the dies in their order, and the latest request follows when the last has changed (R411, R414,
R416). -/
def execDieClockSwitch (d stop : Nat) (s : State) : Host.Outcome State Fault Refusal :=
  let s := s.applyHeld
  if Config.dies ≤ d ∨ s.man.trip ∨ !s.switches d ∨ (List.range Config.dies).any s.dieStops then .next s
  else
    let s1 := (s.modDie d Die.planned).reclock d ((s.die d).planned.target s.clk) (min stop (usUnits 8))
    if !s.man.pending then .next s1
    else
      let s2 := s1.modMan fun m => { m with nextDie := d + 1 }
      .next (if d + 1 = Config.dies then { s2 with man := { s2.man with pending := false } }.applyHeld else s2)

/-! ## BAR0 (R385, R405, R411, R417) -/

/-- A request is being performed: MBSTAT.BUSY (R405). -/
def Manager.busy (m : Manager) : Bool := bit m.mbstat 31

/-- OP of MBCMD (R405). -/
def Manager.op (m : Manager) : Nat := bits m.mbcmd 0 8

/-- A write of MBCMD: with OP other than 0 it starts a request; ignored while one is performed (R405). -/
def Manager.command (m : Manager) (v : Word) : Manager :=
  if m.busy then m
  else
    let m1 := { m with mbcmd := v &&& 0xFFFF00FF }
    if bits v 0 8 = 0 then m1 else { m1 with mbstat := 0x80000000 ||| (m.mbstat &&& 0x00FFFFFF), mbres := none }

/-- A write of argument i (R405). -/
def Manager.argument (m : Manager) (i : Nat) (v : Word) : Manager :=
  if h : i < 8 then if m.busy then m else { m with mbargs := m.mbargs.set i v } else m

/-- The high or the low half of a 64-bit register written. -/
def setHalf (old : BitVec 64) (high : Bool) (v : Word) : BitVec 64 :=
  BitVec.ofNat 64 (if high then v.toNat * 2 ^ 32 + old.toNat % 2 ^ 32 else old.toNat / 2 ^ 32 * 2 ^ 32 + v.toNat)

/-- A write of word k of a region slot, ignored unless its STATE is 0 (R399). -/
def RegionSlot.write (r : RegionSlot) (k : Nat) (v : Word) : RegionSlot :=
  if r.state ≠ 0 then r
  else
    match k with
    | 0 => { r with val := v }
    | 1 => { r with vah := v }
    | 2 => { r with len := v }
    | 3 => { r with pasid := v &&& 0x000FFFFF }
    | _ => r

/-- BAR_REGISTER_WRITE: the host writes a word of BAR0 that has no step of its own; read-only and unlisted words ignore it
(R5, R385, R399, R405, R417). -/
def execBarRegisterWrite (off : Nat) (v : Word) (s : State) : Host.Outcome State Fault Refusal :=
  if !s.barUp then .next s
  else
    match off with
    | 0x0024 => .next (s.modMan fun m => { m with logix := v })
    | 0x0040 => .next (s.modMan fun m => { m with fenceix := v &&& 0x7F })
    | 0x0080 => .next (s.modMan fun m => m.command v)
    | 0x0100 => .next (s.modHost fun h => { h with sqbase := setHalf h.sqbase false v })
    | 0x0104 => .next (s.modHost fun h => { h with sqbase := setHalf h.sqbase true v })
    | 0x0108 => .next (s.modHost fun h => { h with sqcfg := v &&& 0xF00FFFFF })
    | 0x0110 => .next (s.modHost fun h => { h with cqbase := setHalf h.cqbase false v })
    | 0x0114 => .next (s.modHost fun h => { h with cqbase := setHalf h.cqbase true v })
    | n =>
      if 0x00A0 ≤ n ∧ n < 0x00C0 ∧ n % 4 = 0 then .next (s.modMan fun m => m.argument ((n - 0x00A0) / 4) v)
      else if 0x1000 ≤ n ∧ n < 0x1800 ∧ n % 4 = 0 then
        .next (s.setHostRegion ((n - 0x1000) / 32) ((s.region ((n - 0x1000) / 32)).write ((n - 0x1000) % 32 / 4) v))
      else .next s

/-- A word of BAR0 as the host reads it (R385, R399, R405, R411, R417). -/
def State.barRead (s : State) (off : Nat) : Word :=
  let m := s.man
  let h := s.host
  match off with
  | 0x0000 => 0x5A580012
  | 0x0004 =>
    BitVec.ofNat 32 (m.stage * 2 ^ 28 + (if m.trip then 2 ^ 27 else 0) + (if s.dies.any fun d => d.2.hot then 2 ^ 26 else 0)
      + (if s.dies.any fun d => d.2.lowered.isSome then 2 ^ 25 else 0) + (if m.fail then 2 ^ 24 else 0) + s.fencedClusters.length)
  | 0x0008 => m.modereq
  | 0x000C => s.modeWord
  | 0x0010 => BitVec.ofNat 32 ((List.range Config.dies).foldl (fun n d => n + (s.die d).mode * 4 ^ d) 0)
  | 0x0014 => Config.feedId.setWidth 32
  | 0x0018 => (Config.feedId >>> 32).setWidth 32
  | 0x0020 => BitVec.ofNat 32 m.logseq
  | 0x0024 => m.logix
  | 0x0040 => m.fenceix
  | 0x0044 =>
    BitVec.ofNat 32 (s.fencedClusters.foldl (fun n c => if c / 32 = m.fenceix.toNat then n ||| 2 ^ (c % 32) else n) 0)
  | 0x0080 => m.mbcmd
  | 0x0084 => m.mbstat
  | 0x0100 => h.sqbase.setWidth 32
  | 0x0104 => (h.sqbase >>> 32).setWidth 32
  | 0x0108 => h.sqcfg
  | 0x010C => h.sqtail
  | 0x0110 => h.cqbase.setWidth 32
  | 0x0114 => (h.cqbase >>> 32).setWidth 32
  | 0x0118 => h.sqhead
  | 0x011C => h.cqtail
  | 0x0120 => h.cqhead
  | n =>
    if n % 4 ≠ 0 then 0
    else if 0x0060 ≤ n ∧ n < 0x0080 then
      (mget m.log (m.logix.toNat % 4096) (Vector.replicate 8 0)).toArray.getD ((n - 0x0060) / 4) 0
    else if 0x00A0 ≤ n ∧ n < 0x00C0 then m.mbargs.toArray.getD ((n - 0x00A0) / 4) 0
    else if 0x2000 ≤ n ∧ n < 0x2280 then BitVec.ofNat 32 (leNat (fitBytes 4 (m.mbrep.drop (n - 0x2000))))
    else if 0x1000 ≤ n ∧ n < 0x1800 then
      let r := s.region ((n - 0x1000) / 32)
      match (n - 0x1000) % 32 / 4 with
      | 0 => r.val
      | 1 => r.vah
      | 2 => r.len
      | 3 => r.pasid
      | 5 => BitVec.ofNat 32 r.state
      | _ => 0
    else 0

/-! ## Management requests (R405, R406) -/

/-- Argument i of the request. -/
def State.mbArg (s : State) (i : Nat) : Word := s.man.mbargs.toArray.getD i 0

/-- Has a request a reserved bit set, the bits of each argument outside its mask (R406)? -/
def State.mbReserved (s : State) (masks : List Word) : Bool :=
  (List.range 8).any fun i => s.mbArg i &&& ~~~(masks.getD i 0) != 0

/-- The result of the request being performed. -/
def State.mbResult (s : State) (res : Nat) : State := s.modMan fun m => { m with mbres := some res }

/-- Is a request with an OP being performed that has no result yet? -/
def State.mbRuns (s : State) (op : Nat) : Bool := s.man.busy && s.man.mbres.isNone && s.man.op == op

/-- The request with an OP is performed: refused in its state or as malformed, else by its body (R406). -/
def State.perform (s : State) (op : Nat) (masks : List Word) (body : State → State) : State :=
  if !s.mbRuns op then s
  else if s.man.stage ≠ 7 ∧ !(op == 0x02 || op == 0x03 || op == 0x05 || op == 0x09) then s.mbResult 0x03
  else if s.mbReserved masks then s.mbResult 0x02
  else body s

/-- Is a log of 64 + 16 * 2^n bytes at an aligned address of the shared SRAM of a cluster 288 (R406)? -/
def logPlace (addr n : Nat) : Bool := addr % 64 == 0 && 0x10000000 ≤ addr && addr + 64 + 16 * 2 ^ n ≤ 0x10400000

/-- The bytes of a log's first line, zeroed. -/
def logZeros (d : Nat) (addr : Word) : FMap Byte := placed (flatRam (taskCluster d) (addr.toNat - 0x10000000)) (List.replicate 64 0)

/-- The first line of a log is zeroed as a commit of memory cluster 288 of a die (R406), unless it is sealed (spec/14_host.md R397,
log entry 68). -/
def State.zeroLog (s : State) (d : Nat) (addr : Word) : State :=
  if (s.cluster (taskCluster d)).fenced ∨ s.writesSealed (logZeros d addr) then s
  else s.agentCommit (taskCluster d) 4 (logZeros d addr) []

/-- The placing of a log, by `f`: it waits for the commit that zeroes the log's first line, which a fenced cluster 288 does not make
(R406; spec/05_commit.md R152, R156). -/
def State.attemptLog (s : State) (d : Nat) (addr : Word) (f : State → State) : State :=
  if (s.cluster (taskCluster d)).fenced then f s
  else s.attempt (taskCluster d) (agentAsk 4 .manage (linesOf (logZeros d addr))) f

/-- A queue is enabled: its entries, its delta image and its count of records are cleared, and its log's first line is zeroed
(R329, R406). -/
def State.enableQueue (s : State) (target : Nat) (q : Queue) : State :=
  let d := target / 64
  let gone := ((s.die d).queued ++ (s.die d).timed.map Prod.snd).filter fun l => l.target == target
  let s1 := gone.foldl (fun s l => s.dropHeld l.id) s
  let s2 := s1.modDie d fun x =>
    { x with queued := x.queued.filter fun l => l.target != target, timed := x.timed.filter fun l => l.2.target != target }
  let s3 := s2.setQueue target { q with image := List.replicate 32 0, logged := 0 }
  if q.flog = 0 then s3 else s3.zeroLog d q.flog

/-- The queued and timed slices of a queue. -/
def State.entriesOf (s : State) (target : Nat) : List Slice :=
  ((s.die (target / 64)).queued ++ (s.die (target / 64)).timed.map Prod.snd).filter fun l => l.target == target

/-- A queue is disabled: every queued and timed slice of it ends with reason 2, under the log it had (R350, R406). -/
def State.disableQueue (s : State) (target : Nat) (q : Queue) : State :=
  let s1 := (s.entriesOf target).foldl (fun s l => s.endQueued (target / 64) l 2) s
  s1.setQueue target { q with logged := (s1.queue target).logged }

/-- The descriptor of a queue is written (R406). -/
def State.writeQueue (s : State) (target : Nat) (en : Bool) (domain cap : Nat) (flog : Word) (flogn : Nat) : State :=
  let old := s.queue target
  let q := { old with en := en, domain := domain, cap := cap, flog := flog, flogn := flogn }
  if en && !old.en then
    if flog = 0 then (s.enableQueue target q).mbResult 0x00
    else s.attemptLog (target / 64) flog fun s => (s.enableQueue target q).mbResult 0x00
  else if !en && old.en then
    s.attemptRecord target (s.entriesOf target).length .manage fun s => (s.disableQueue target q).mbResult 0x00
  else (s.setQueue target q).mbResult 0x00

/-- MB_QUEUE_DESCRIPTOR: request 0x01 (R406). -/
def execMbQueueDescriptor (s : State) : Host.Outcome State Fault Refusal :=
  .next (s.perform 0x01 [0x3FF, 0x8000FFFF, 0x1FFF, 0xFFFFFFFF, 0xF] fun s =>
    let target := (s.mbArg 0).toNat
    let cap := (s.mbArg 2).toNat
    let flog := s.mbArg 3
    let n := (s.mbArg 4).toNat
    if Config.dies ≤ target / 64 ∨ 4096 < cap ∨ n < 2 ∨ 10 < n ∨ (flog ≠ 0 ∧ !logPlace flog.toNat n) then s.mbResult 0x02
    else (s.settle (taskCluster (target / 64))).writeQueue target (bit (s.mbArg 1) 31) (bits (s.mbArg 1) 0 16) cap flog n)

/-- A peer-table entry written. -/
def Peer.entered (p : Peer) (kind : PeerKind) (ident feed : Nat) : Peer := { p with kind := kind, ident := ident, feed := feed }

/-- MB_PEER_ENTRY: request 0x02. `check` is what Taproot finds in the attestation report of a peer to be entered as Punosko: nothing
yet, a failure, or its feed identifier; until the check passes the entry holds KIND foreign (R406, R354). -/
def execMbPeerEntry (check : Option (Option Nat)) (s : State) : Host.Outcome State Fault Refusal :=
  .next (s.perform 0x02 [0x3FF, 0x3, 0xFFFFFFFF, 0xFFFFFFFF] fun s =>
    let chip := (s.mbArg 0).toNat
    let ident := (s.mbArg 2).toNat + 2 ^ 32 * (s.mbArg 3).toNat
    let put (k : PeerKind) (feed : Nat) : State := s.modPeer chip fun p => p.entered k ident feed
    match (s.mbArg 1).toNat, check with
    | 0, _ => (put .absent 0).mbResult 0x00
    | 1, none => put .foreign 0
    | 1, some none => (put .foreign 0).mbResult 0x04
    | 1, some (some feed) => (put .punosko feed).mbResult 0x00
    | 2, _ => (put .foreign 0).mbResult 0x00
    | _, _ => s.mbResult 0x02)

/-- MB_PAGE_TABLE_ROOT: request 0x03; every entry, translation and line of the module is dropped (R406, R387, R393). -/
def execMbPageTableRoot (s : State) : Host.Outcome State Fault Refusal :=
  .next (s.perform 0x03 [0xFFF, 0x3FFFF] fun s =>
    let gc := (s.mbArg 0).toNat
    let off := (s.mbArg 1).toNat
    if Config.clusters ≤ gc ∨ !isMem gc ∨ hbmSize < off * 0x4000 + 0x10000 then s.mbResult 0x02
    else
      let s1 : State := { s with root := (gc, off) }
      (s1.dropRange true 0 0).mbResult 0x00)

/-- MB_VIOLATION_LOG_PLACE: request 0x04 (R406, R363). -/
def execMbViolationLogPlace (s : State) : Host.Outcome State Fault Refusal :=
  .next (s.perform 0x04 [0xF, 0xFFFFFFFF, 0xF] fun s =>
    let d := (s.mbArg 0).toNat
    let addr := s.mbArg 1
    let n := (s.mbArg 2).toNat
    if Config.dies ≤ d ∨ n < 2 ∨ 10 < n ∨ !logPlace addr.toNat n then s.mbResult 0x02
    else
      (s.settle (taskCluster d)).attemptLog d addr fun s =>
        let waiting := match (s.die d).viol with | some l => l.waiting | none => []
        ((s.modDie d fun x =>
          { x with viol := some { addr := addr, logn := n, written := 0, waiting := waiting, dropped := 0 } }).zeroLog d addr).mbResult
          0x00)

/-- MB_HOST_SUBMISSION_DOMAIN: request 0x05 (R406, R386). -/
def execMbHostSubmissionDomain (s : State) : Host.Outcome State Fault Refusal :=
  .next (s.perform 0x05 [0xFFFF, 0x1] fun s =>
    (s.modHost fun h => { h with domain := (s.mbArg 0).toNat, rt := bit (s.mbArg 1) 0 }).mbResult 0x00)

/-- MB_RESET_HALTED_SLOT: request 0x06: a slot halted by a double trap is reset as the task engine resets it for reason 7 (R406, R44,
R350). -/
def execMbResetHaltedSlot (s : State) : Host.Outcome State Fault Refusal :=
  .next (s.perform 0x06 [0xFFFFFFFF] fun s =>
    let g := (s.mbArg 0).toNat
    if Config.slots ≤ g then s.mbResult 0x02
    else if !(s.slot g).halted then s.mbResult 0x03
    else
      let t := s.sliceLeave g
      if (t.slot g).halted then t else t.mbResult 0x00)

/-- MB_FENCE_CLUSTER: request 0x07: the cluster is fenced, and the request logged also when it is so already (R406, R46). -/
def execMbFenceCluster (s : State) : Host.Outcome State Fault Refusal :=
  .next (s.perform 0x07 [0xFFF] fun s =>
    let gc := (s.mbArg 0).toNat
    if Config.clusters ≤ gc then s.mbResult 0x02
    else (if (s.cluster gc).fenced then s.logMachine 0x3E1 gc [2] else s.fence gc 2).mbResult 0x00)

/-- MB_CLEAR_PEER_FAILURE: request 0x08. `check` is what Taproot finds in a new attestation of a Punosko peer: nothing yet, a
failure, or its feed identifier (R406, R372). -/
def execMbClearPeerFailure (check : Option (Option Nat)) (s : State) : Host.Outcome State Fault Refusal :=
  .next (s.perform 0x08 [0x3FF] fun s =>
    let chip := (s.mbArg 0).toNat
    let p := s.peer chip
    let clear (s : State) : State := (s.modPeer chip fun q => { q with failed := false }).mbResult 0x00
    if !p.up then s.mbResult 0x03
    else if p.kind ≠ .punosko then clear s
    else
      match check with
      | none => s
      | some none => s.mbResult 0x04
      | some (some feed) => clear (s.modPeer chip fun q => { q with feed := feed }))

/-- MB_ATTESTATION_REPORT: request 0x09: the report for the nonce of the arguments is written to MBREP (R406, R409). -/
def execMbAttestationReport (s : State) : Host.Outcome State Fault Refusal :=
  .next (s.perform 0x09 (List.replicate 8 0xFFFFFFFF) fun s =>
    let nonce := (List.range 8).flatMap fun i => leBytes 4 (s.mbArg i).toNat
    ((s.modMan fun m => { m with mbrep := s.report nonce }).countReport).mbResult 0x00)

/-- MB_UNKNOWN_OP: every other OP gives RES 0x02, and RES 0x03 before bring-up state 7 (R406). -/
def execMbUnknownOp (s : State) : Host.Outcome State Fault Refusal :=
  let op := s.man.op
  .next (if 1 ≤ op ∧ op ≤ 9 then s else s.perform op (List.replicate 8 0xFFFFFFFF) fun s => s.mbResult 0x02)

/-- MB_REQUEST_DONE: Husk reports the result: MBSTAT takes RES and TAG, BUSY returns to 0, and MSI-X vector 2 is raised (R405). -/
def execMbRequestDone (s : State) : Host.Outcome State Fault Refusal :=
  match s.man.mbres with
  | none => .next s
  | some r =>
    .next ((s.modMan fun m =>
      { m with mbres := none, mbstat := BitVec.ofNat 32 (r * 2 ^ 16 + bits m.mbcmd 16 16) }).emit (.msix 2))

/-! ## Margin plans (R415, R416) -/

/-- The nominal voltage of a mode in mV (R410). -/
def nominal (m : Nat) : Nat := match m with | 0 => 450 | 1 => 480 | _ => 420

/-- The least slack among a die's monitors. -/
def leastSlack : List Int → Int
  | [] => 0
  | [x] => x
  | x :: xs => min x (leastSlack xs)

/-- The voltage in mV and the enable bit of a mode for a reading in ps (R416). -/
def planned (m : Nat) (slack : Int) : Nat × Bool :=
  let v := nominal m + 5 * (((20 - slack).toNat + 3) / 4)
  (v, v ≤ 500)

/-- The plan of a die from its readings of the three modes. -/
def dieMargins (slack : List (List Int)) : List (Nat × Bool) := (List.range 3).map fun m => planned m (leastSlack (slack.getD m []))

/-- A margin plan is written and logged for every die; a die with Kale disabled has all its clusters fenced. During operation
the dies take it one at a time, by DIE_CLOCK_SWITCH (R416). -/
def State.replan (s : State) (slack : List (List (List Int))) : State :=
  let running : Bool := s.man.stage = 7
  let n := s.man.plans + 1
  (List.range Config.dies).foldl (fun s d =>
    let plan := dieMargins (slack.getD d [])
    let s1 := (s.modDie d fun x => if running then { x with newPlan := some plan } else { x with plan := plan }).logMachine 0x3E5 d [n]
    if (plan.getD 2 (0, false)).2 then s1
    else (List.range Config.clustersPerDie).foldl (fun s c => s.fence (d * Config.clustersPerDie + c) 3) s1)
    (s.modMan fun m => { m with plans := n })

/-- The hours that the module has been powered (R415, log entry 32). -/
def State.poweredHours (s : State) : Nat := (s.man.powered + s.now) / usUnits 3600000000

/-- MARGIN_REPLAN: Taproot re-plans after every 1,000 hours of powered operation; the dies change by clock changes (R415, R416). -/
def execMarginReplan (slack : List (List (List Int))) (s : State) : Host.Outcome State Fault Refusal :=
  .next (if s.man.stage = 7 ∧ !s.man.trip ∧ s.man.marks < s.poweredHours / 1000 then
    (s.replan slack).modMan fun m => { m with marks := m.marks + 1 } else s)

/-! ## Module reset and bring-up (R408) -/

/-- The fields that are the model's own, and the counts that Taproot keeps, over a module reset (log entries 1, 6, 8, 20, 32). -/
def State.afterReset (s : State) : State :=
  { State.reset with
    slots := (s.slots.filter fun c => c.2.epoch != 0).map fun c => (c.1, { Slot.reset with epoch := c.2.epoch })
    host := { HostPort.reset with takes := s.host.takes }
    man := { Manager.reset with
      plans := s.man.plans, powered := s.man.powered + s.now, marks := s.man.marks, reports := s.man.reports }
    resets := s.resets + 1
    out := s.out
    agenda := s.agenda
    cur := s.cur
    lateLoads := s.lateLoads }

/-- MODULE_RESET: the module is reset, and bring-up starts in state 0 (R408). -/
def execModuleReset (s : State) : Host.Outcome State Fault Refusal := .next s.afterReset

/-- An image of a kind is verified: refused, it stops bring-up and is logged (R407). -/
def State.verifyImage (s : State) (kind : Nat) (image : List Byte) : State :=
  if accepted kind image then
    s.modMan fun m =>
      { m with
        stage := m.stage + 1
        monitor := if kind = 1 then bodyDigest image else m.monitor
        husk := if kind = 2 then bodyDigest image else m.husk }
  else (s.modMan fun m => { m with fail := true }).logMachine 0x3E9 kind [imageVersion image]

/-- The next bring-up state. -/
def State.nextStage (s : State) : State := s.modMan fun m => { m with stage := m.stage + 1 }

/-- BRINGUP_STATE: the work of the current bring-up state completes and the next one starts, or fails (R407, R408, R415, R412,
R354). -/
def execBringupState (w : BootWork) (s : State) : Host.Outcome State Fault Refusal :=
  if s.man.fail || s.man.trip then .next s
  else
    match s.man.stage, w with
    | 0, .image b => .next (s.verifyImage 1 b)
    | 1, .readings slack => .next (s.replan slack).nextStage
    | 2, .image b => .next (s.verifyImage 2 b)
    | 3, .done => .next { s with mem := [], faulty := [] }.nextStage
    | 4, .done => .next s.nextStage
    | 5, .locked chip ns =>
      .next { s with chip := chip, podBase := max s.podNs ns, podSince := s.now, podRate := 0 }.nextStage
    | 6, .done => .next s.nextStage
    | n, .failed => .next (if n < 7 then s.modMan fun m => { m with fail := true } else s)
    | _, _ => .next s

/-! ## Power, current and temperature (R414) -/

/-- The mean of the power readings of the last 1 ms exceeds a power in mW, or stays below it; 100 readings make 1 ms. -/
def Manager.meanAbove (m : Manager) (mw : Nat) : Bool := m.samples.length == 100 && 100 * mw < m.samples.foldl (· + ·) 0
/-- Below. -/
def Manager.meanBelow (m : Manager) (mw : Nat) : Bool := m.samples.length == 100 && m.samples.foldl (· + ·) 0 < 100 * mw

/-- A die's limit for power written; a change of the mode that it is to run is logged (R414). -/
def State.limitDie (s : State) (d : Nat) (limit : Option Nat) : State :=
  let x : Die := { s.die d with lowered := limit }
  let s1 := s.setDie d x
  if x.target s.clk = (s.die d).target s.clk then s1 else s1.logMachine 0x3E6 d [x.target s.clk]

/-- A die is lowered for power by one mode from the one that it is to run, unless that is Kale (R414). -/
def State.lowerDie (s : State) (d : Nat) : State :=
  let r := modeRank ((s.die d).target s.clk)
  if r = 0 then s else s.limitDie d (some (r - 1))

/-- The rank of the best mode, not above the requested one, that a die's plan enables (R411, R416). -/
def Die.best (x : Die) (clk : Nat) : Nat :=
  ((List.range (modeRank clk + 1)).reverse.find? fun r => x.enables (rankMode r)).getD 0

/-- The limit for power of a die that is raised by one mode: the next mode above its limit that its plan enables, below the best that
it may run for the one requested; else none (R414). -/
def Die.raised (x : Die) (clk : Nat) : Option Nat :=
  x.lowered.bind fun l => (List.range (x.best clk)).find? fun r => l < r && x.enables (rankMode r)

/-- The lowest of the dies that are lowered for power is raised by one mode (R414, log entry 32). -/
def State.raiseDie (s : State) : State :=
  match (List.range Config.dies).find? fun d => (s.die d).lowered.isSome with
  | none => s
  | some d => s.limitDie d ((s.die d).raised s.clk)

/-- POWER_SAMPLE: Taproot has measured package power, in mW, with the die of highest power; above 6,000 W over 1 ms that die is
lowered, and below 5,700 W for 100 ms one is raised (R414). -/
def execPowerSample (power top : Nat) (s : State) : Host.Outcome State Fault Refusal :=
  if s.man.trip then .next s
  else
    let s1 := s.modMan fun m => { m with samples := (power :: m.samples).take 100 }
    let cool := if s1.man.meanBelow 5700000 then s1.man.coolSince.or (some s.now) else none
    if s1.man.meanAbove 6000000 ∧ top < Config.dies then .next ((s1.lowerDie top).modMan fun m => { m with coolSince := none })
    else
      match cool with
      | some t =>
        .next (if t + usUnits 100000 ≤ s.now then s1.raiseDie.modMan fun m => { m with coolSince := some s.now }
          else s1.modMan fun m => { m with coolSince := some t })
      | none => .next (s1.modMan fun m => { m with coolSince := none })

/-! ## Husk's reads of the logs (R404, spec/01_engines.md R19) -/

/-- Do some bytes at a local address of memory cluster 288 of a die lie in its violation log or in the failure log of one of its
queues? -/
def State.inLogs (s : State) (d addr n : Nat) : Bool :=
  let within (a : Word) (k : Nat) : Bool := a.toNat ≤ addr && addr + n ≤ a.toNat + 64 + 16 * 2 ^ k
  ((s.die d).queues.any fun q => q.2.flog != 0 && within q.2.flog q.2.flogn)
    || (match (s.die d).viol with | some l => within l.addr l.logn | none => false)

/-- What the owner's port answers to an access by Husk to the memory of its cluster: a read within the logs of memory cluster 288 of a
die is served, any other access is refused and logged (R404, log entry 66). -/
def State.huskAccess (s : State) (a : HuskAccess) : Answer × State :=
  let f := flatRam a.gc (a.addr - 0x10000000)
  if (s.cluster a.gc).fenced then (.fail 0x43, s)
  else if !a.write && a.gc == taskCluster (dieOf a.gc) && s.inLogs (dieOf a.gc) a.addr a.len then
    (if (s.faultyIn [(f, a.len)]).isSome then .fail 0x81
      else .line (s.ownBytes f a.len) 0 ((List.range a.len).any fun i => s.isDiscarded (f + i)), s)
  else
    (.fail 0x40, s.logRefusal a.gc
      { kind := if a.write then 5 else 1, reason := 3, chip := s.chip, who := 0xFFFFFFFF, key := 0, addr := a.addr })

/-- An access by Husk is answered (R404). -/
def State.huskTurn (s : State) (a : HuskAccess) : State := (s.huskAccess a).2.emit (.husk a.gc a.addr (s.huskAccess a).1)

/-- Husk's policy refuses the management request that is being performed (R405, log entry 66). -/
def State.refuseRequest (s : State) : State := if s.man.busy && s.man.mbres.isNone then s.mbResult 0x01 else s

/-- DROOP_TRIP: a die's clock is stretched by some wall-clock time, which changes no bound in ck (R414). -/
def execDroopTrip (d stretch : Nat) (s : State) : Host.Outcome State Fault Refusal :=
  .next (if d < Config.dies then s.reclock d (s.die d).mode stretch else s)

/-- THERMAL_HOLD: a die has reached a temperature, in 0.1 degrees, of 105 and is held at Kale (R414). -/
def execThermalHold (d temp : Nat) (s : State) : Host.Outcome State Fault Refusal :=
  .next (if d < Config.dies ∧ 1050 ≤ temp ∧ !(s.die d).hot then
    (s.modDie d fun x => { x with hot := true }).logMachine 0x3E7 d [temp] else s)

/-- THERMAL_RELEASE: a held die has fallen below 95 degrees (R414). -/
def execThermalRelease (d temp : Nat) (s : State) : Host.Outcome State Fault Refusal :=
  .next (if temp < 950 ∧ (s.die d).hot then (s.modDie d fun x => { x with hot := false }).logMachine 0x3E7 d [temp] else s)

/-- THERMAL_TRIP: a die has reached 115 degrees: every compute die stops, no further commit is made, the ports go silent, the host
port signals an uncorrectable AER error, and the event is logged (R414). -/
def execThermalTrip (d temp : Nat) (s : State) : Host.Outcome State Fault Refusal :=
  .next (if d < Config.dies ∧ 1150 ≤ temp ∧ !s.man.trip then
    (let s1 := (s.emit .aer).logMachine 0x3E8 d [temp]
     { s1 with ports := s1.ports.map fun p => (p.1, { p.2 with up := false }), man := { s1.man with trip := true } })
    else s)

/-! ## Pod time and errors (R412, R419) -/

/-- POD_TIME_DISCIPLINE: Husk sets the rate of pod time, at most 100 ppm off, and steps it forward (R412). -/
def execPodTimeDiscipline (rate : Int) (ahead : Nat) (s : State) : Host.Outcome State Fault Refusal :=
  .next (if rate.natAbs ≤ 100 then { s with podBase := s.podNs + ahead, podSince := s.now, podRate := rate } else s)

/-- SOFT_ERROR_CORRECTED: a soft error of a cluster's SRAM or HBM is corrected and counted; the 65,536th since the last record is
logged (R46, R419). -/
def execSoftErrorCorrected (gc : Nat) (hbm : Bool) (s : State) : Host.Outcome State Fault Refusal :=
  let n := (s.cluster gc).soft
  let m := if hbm then (n.1, n.2 + 1) else (n.1 + 1, n.2)
  .next (if m.1 + m.2 < 65536 then s.modCluster gc fun c => { c with soft := m }
    else (s.modCluster gc fun c => { c with soft := (0, 0) }).logMachine 0x3E2 gc [m.1, m.2])

/-- REGISTER_UNCORRECTABLE: an uncorrectable error in a slot's register state is logged and pends as 0x3C0, with 1 scalar, 2 vector,
operand or latch, 3 predicate, 4 bulb, 5 CSR (R419). -/
def execRegisterUncorrectable (g kind : Nat) (s : State) : Host.Outcome State Fault Refusal :=
  .next (if (s.slot g).slice.isSome ∧ 1 ≤ kind ∧ kind ≤ 5 ∧ !s.man.trip ∧ !(s.cluster (clusterOf g)).fenced then
    (s.postAsync g 0x3C0 (BitVec.ofNat 32 kind)).logMachine 0x3C0 g [kind] else s)

end Sys2Proof.Machine
end

