-- ==== Sys2Proof/Machine/CommitTurn.lean ====
section
/-!
DEFINITION. The commit unit's own turn: the oldest request of a cluster that is not held is committed, by the step of the work that
asks for it (spec/05_commit.md R152, R156, log entry 71).
-/

namespace Sys2Proof.Machine

/-- The state that a step of the table leaves. -/
def State.after (s : State) (f : State → Host.Outcome State Fault Refusal) : State := match f s with | .next t => t | _ => s

/-- The step of the work on the accumulator port (spec/08_matrix.md R232, R233). -/
def State.portWork (s : State) (gc seq : Nat) : State :=
  match ((s.mat gc).cmd seq).map MatCmd.op with
  | some (.mzero _) => s.after (execMzeroDone gc)
  | some _ => s.after (execMdrainDone gc)
  | none => s

/-- The step that completes an operation of the pull unit (spec/09_pull.md R271-R276). -/
def State.opWork (s : State) (gc id : Nat) : State :=
  match (s.opOf gc id).map PullOp.kind with
  | some .cpy => s.after (execCpyComplete gc id)
  | some (.verify _) => s.after (execPulldVerifyComplete gc id)
  | some (.pulld _ _) => s.after (execPulldComplete gc id)
  | some (.pullc _) => s.after (execPullcAnswer gc id)
  | some _ => s.after (execPullComplete gc id)
  | none => s

/-- The management request that is being performed, of those that make a commit (spec/15_taproot.md R406). -/
def State.manageWork (s : State) : State :=
  match s.man.op with
  | 0x01 => s.after execMbQueueDescriptor
  | 0x04 => s.after execMbViolationLogPlace
  | 0x06 => s.after execMbResetHaltedSlot
  | _ => s

/-- The step of some work that asks a cluster for a commit is made again. -/
def State.work (s : State) (gc : Nat) (w : Work) : State :=
  match w with
  | .token => s
  | .cancel _ => s
  | .port seq => s.portWork gc seq
  | .mwait seq => s.after (execMwaitDone gc seq)
  | .op id => s.opWork gc id
  | .lifetime k t _ => s.after (execTileLifetimeExpiry gc k t)
  | .entry => s.after (execCrtEntryExpiry gc)
  | .event => s.after (execPoolEventDelivery gc)
  | .item i => s.serveOne gc i
  | .submission g id => s.after (execSubmissionArrival g id)
  | .dismissal g id => s.after (execCancelArrival g id)
  | .late _ => (s.after (execTimerTick (dieOf gc))).after (execDeadlineDrop (dieOf gc))
  | .leave g => s.after (execSliceLeave g)
  | .violation => s.after (execViolationRecord (dieOf gc))
  | .hostEntry words => s.after (execHostSubmissionTake words)
  | .manage => s.manageWork

/-- Work that could have made its commit and has not asks for it no longer. -/
def State.forget (s : State) (gc : Nat) (w : Work) : State :=
  match s.asked gc w with
  | some r => if s.mayCommit gc (r.1, .done r.2) then s.unasked gc w else s
  | none => s

/-- The oldest request of a cluster that is not held. -/
def State.oldest (s : State) (gc : Nat) : Option (Nat × CommitRequest) := (s.requests gc).find? fun r => !s.requestHeld gc r

/-- COMMIT: the oldest ready request of a cluster that is not held is committed; with none, the requests that wait at the owner's port
are tried again (spec/05_commit.md R156). -/
def execCommit (gc : Nat) (s : State) : Host.Outcome State Fault Refusal :=
  match s.oldest gc with
  | none => .next (s.serveInbound gc)
  | some r =>
    match r.2 with
    | .region g => .next (s.retryCommit g)
    | .done d => .next (if r.2.own then (s.work gc d.work).forget gc d.work else s.tryRequest gc r)

/-- A cluster whose oldest request that is not held is an engine's: its commit comes before the next bundle when the agenda is empty
(R156, log entry 71). -/
def State.dueCommit (s : State) : Option Nat :=
  (s.clusters.map (·.1)).find? fun gc => match s.oldest gc with | some (_, .done _) => true | _ => false

end Sys2Proof.Machine
end

