-- ==== Sys2Proof/Machine/Dispatch.lean ====
section
/-!
DEFINITION. The one dispatch of instructions to their meanings: one arm per constructor of Instr.
-/

namespace Sys2Proof.Machine

/-- The meaning of an instruction word or of a step of the module. -/
def exec (i : Instr) (s : State) : Host.Outcome State Fault Refusal :=
  match i with
  | .add d a b => Sys2Proof.Machine.execAdd d a b s
  | .sub d a b => Sys2Proof.Machine.execSub d a b s
  | .and d a b => Sys2Proof.Machine.execAnd d a b s
  | .or d a b => Sys2Proof.Machine.execOr d a b s
  | .xor d a b => Sys2Proof.Machine.execXor d a b s
  | .andn d a b => Sys2Proof.Machine.execAndn d a b s
  | .shl d a b => Sys2Proof.Machine.execShl d a b s
  | .shr d a b => Sys2Proof.Machine.execShr d a b s
  | .sra d a b => Sys2Proof.Machine.execSra d a b s
  | .slt d a b => Sys2Proof.Machine.execSlt d a b s
  | .sltn d a b => Sys2Proof.Machine.execSltn d a b s
  | .seq d a b => Sys2Proof.Machine.execSeq d a b s
  | .min d a b => Sys2Proof.Machine.execMin d a b s
  | .minn d a b => Sys2Proof.Machine.execMinn d a b s
  | .max d a b => Sys2Proof.Machine.execMax d a b s
  | .maxn d a b => Sys2Proof.Machine.execMaxn d a b s
  | .addx4 d a b => Sys2Proof.Machine.execAddx4 d a b s
  | .addx64 d a b => Sys2Proof.Machine.execAddx64 d a b s
  | .mul d a b => Sys2Proof.Machine.execMul d a b s
  | .mulh d a b => Sys2Proof.Machine.execMulh d a b s
  | .mulhn d a b => Sys2Proof.Machine.execMulhn d a b s
  | .div d a b => Sys2Proof.Machine.execDiv d a b s
  | .divn d a b => Sys2Proof.Machine.execDivn d a b s
  | .rem d a b => Sys2Proof.Machine.execRem d a b s
  | .remn d a b => Sys2Proof.Machine.execRemn d a b s
  | .movz d a b => Sys2Proof.Machine.execMovz d a b s
  | .movnz d a b => Sys2Proof.Machine.execMovnz d a b s
  | .clz d a => Sys2Proof.Machine.execClz d a s
  | .popc d a => Sys2Proof.Machine.execPopc d a s
  | .prd d a => Sys2Proof.Machine.execPrd d a s
  | .pwr d a => Sys2Proof.Machine.execPwr d a s
  | .addi d a imm => Sys2Proof.Machine.execAddi d a imm s
  | .andi d a imm => Sys2Proof.Machine.execAndi d a imm s
  | .ori d a imm => Sys2Proof.Machine.execOri d a imm s
  | .xori d a imm => Sys2Proof.Machine.execXori d a imm s
  | .shli d a n => Sys2Proof.Machine.execShli d a n s
  | .shri d a n => Sys2Proof.Machine.execShri d a n s
  | .srai d a n => Sys2Proof.Machine.execSrai d a n s
  | .lui d imm => Sys2Proof.Machine.execLui d imm s
  | .slti d a imm => Sys2Proof.Machine.execSlti d a imm s
  | .sltni d a imm => Sys2Proof.Machine.execSltni d a imm s
  | .csrr d n => Sys2Proof.Machine.execCsrr d n s
  | .csrw d a n => Sys2Proof.Machine.execCsrw d a n s
  | .csrs d a n => Sys2Proof.Machine.execCsrs d a n s
  | .csrc d a n => Sys2Proof.Machine.execCsrc d a n s
  | .j imm => Sys2Proof.Machine.execJ imm s
  | .jal imm => Sys2Proof.Machine.execJal imm s
  | .jr a => Sys2Proof.Machine.execJr a s
  | .jalr d a => Sys2Proof.Machine.execJalr d a s
  | .beq d a imm => Sys2Proof.Machine.execBeq d a imm s
  | .bne d a imm => Sys2Proof.Machine.execBne d a imm s
  | .blt d a imm => Sys2Proof.Machine.execBlt d a imm s
  | .bge d a imm => Sys2Proof.Machine.execBge d a imm s
  | .bltn d a imm => Sys2Proof.Machine.execBltn d a imm s
  | .bgen d a imm => Sys2Proof.Machine.execBgen d a imm s
  | .bp c p imm => Sys2Proof.Machine.execBp c p imm s
  | .loop d imm => Sys2Proof.Machine.execLoop d imm s
  | .ldI8 d a o => Sys2Proof.Machine.execLdI8 d a o s
  | .ldN8 d a o => Sys2Proof.Machine.execLdN8 d a o s
  | .ldI16 d a o => Sys2Proof.Machine.execLdI16 d a o s
  | .ldN16 d a o => Sys2Proof.Machine.execLdN16 d a o s
  | .ldI32 d a o => Sys2Proof.Machine.execLdI32 d a o s
  | .stI8 d a o => Sys2Proof.Machine.execStI8 d a o s
  | .stI16 d a o => Sys2Proof.Machine.execStI16 d a o s
  | .stI32 d a o => Sys2Proof.Machine.execStI32 d a o s
  | .ldc d a o => Sys2Proof.Machine.execLdc d a o s
  | .vld v a p o => Sys2Proof.Machine.execVld v a p o s
  | .vst v a p o => Sys2Proof.Machine.execVst v a p o s
  | .vlds v a p b => Sys2Proof.Machine.execVlds v a p b s
  | .vsts v a p b => Sys2Proof.Machine.execVsts v a p b s
  | .vldx v a p x e => Sys2Proof.Machine.execVldx v a p x e s
  | .vstx v a p x e => Sys2Proof.Machine.execVstx v a p x e s
  | .vldc v a p o => Sys2Proof.Machine.execVldc v a p o s
  | .qld q a o => Sys2Proof.Machine.execQld q a o s
  | .qst q a o => Sys2Proof.Machine.execQst q a o s
  | .amoswap d a b => Sys2Proof.Machine.execAmoswap d a b s
  | .amoadd d a b => Sys2Proof.Machine.execAmoadd d a b s
  | .amoand d a b => Sys2Proof.Machine.execAmoand d a b s
  | .amoor d a b => Sys2Proof.Machine.execAmoor d a b s
  | .amoxor d a b => Sys2Proof.Machine.execAmoxor d a b s
  | .amomin d a b => Sys2Proof.Machine.execAmomin d a b s
  | .amomax d a b => Sys2Proof.Machine.execAmomax d a b s
  | .amominn d a b => Sys2Proof.Machine.execAmominn d a b s
  | .amomaxn d a b => Sys2Proof.Machine.execAmomaxn d a b s
  | .amocas d a b => Sys2Proof.Machine.execAmocas d a b s
  | .movws v d l => Sys2Proof.Machine.execMovws v d l s
  | .gang n => Sys2Proof.Machine.execGang n s
  | .split => Sys2Proof.Machine.execSplit s
  | .barw b => Sys2Proof.Machine.execBarw b s
  | .bara b => Sys2Proof.Machine.execBara b s
  | .barwt b => Sys2Proof.Machine.execBarwt b s
  | .trap a n => Sys2Proof.Machine.execTrap a n s
  | .eret => Sys2Proof.Machine.execEret s
  | .rgn => Sys2Proof.Machine.execRgn s
  | .rgnA => Sys2Proof.Machine.execRgnA s
  | .abort a => Sys2Proof.Machine.execAbort a s
  | .rgnq d => Sys2Proof.Machine.execRgnq d s
  | .trcr d a b => Sys2Proof.Machine.execTrcr d a b s
  | .trcc d a b => Sys2Proof.Machine.execTrcc d a b s
  | .mwld t a b f => Sys2Proof.Machine.execMwld t a b f s
  | .mmaBf16 t a b c => Sys2Proof.Machine.execMmaBf16 t a b c s
  | .mmaE4m3 t a b c => Sys2Proof.Machine.execMmaE4m3 t a b c s
  | .mmaE5m2 t a b c => Sys2Proof.Machine.execMmaE5m2 t a b c s
  | .mmaB4 t a b c => Sys2Proof.Machine.execMmaB4 t a b c s
  | .mmasBf16 t a b c => Sys2Proof.Machine.execMmasBf16 t a b c s
  | .mmasE4m3 t a b c => Sys2Proof.Machine.execMmasE4m3 t a b c s
  | .mmasE5m2 t a b c => Sys2Proof.Machine.execMmasE5m2 t a b c s
  | .mmasB4 t a b c => Sys2Proof.Machine.execMmasB4 t a b c s
  | .mzero t b k => Sys2Proof.Machine.execMzero t b k s
  | .mdrain t a b o => Sys2Proof.Machine.execMdrain t a b o s
  | .mdrainBf16 t a b o => Sys2Proof.Machine.execMdrainBf16 t a b o s
  | .mwait t => Sys2Proof.Machine.execMwait t s
  | .mqry t k => Sys2Proof.Machine.execMqry t k s
  | .cpy t a c => Sys2Proof.Machine.execCpy t a c s
  | .pull t a b c => Sys2Proof.Machine.execPull t a b c s
  | .pullc t a b c => Sys2Proof.Machine.execPullc t a b c s
  | .pulld t a b c => Sys2Proof.Machine.execPulld t a b c s
  | .pulldVerify t c => Sys2Proof.Machine.execPulldVerify t c s
  | .watch t a b c => Sys2Proof.Machine.execWatch t a b c s
  | .watcht t a b c => Sys2Proof.Machine.execWatcht t a b c s
  | .seqadv a b => Sys2Proof.Machine.execSeqadv a b s
  | .wcancel t => Sys2Proof.Machine.execWcancel t s
  | .ldg d a b k => Sys2Proof.Machine.execLdg d a b k s
  | .seqldA d a b => Sys2Proof.Machine.execSeqldA d a b s
  | .tpart a c => Sys2Proof.Machine.execTpart a c s
  | .talloc t a b c => Sys2Proof.Machine.execTalloc t a b c s
  | .tallocn t a b c => Sys2Proof.Machine.execTallocn t a b c s
  | .tqry t a q => Sys2Proof.Machine.execTqry t a q s
  | .taban a b => Sys2Proof.Machine.execTaban a b s
  | .ropen t a b => Sys2Proof.Machine.execRopen t a b s
  | .rclose a => Sys2Proof.Machine.execRclose a s
  | .send t a b c => Sys2Proof.Machine.execSend t a b c s
  | .sendv t a b c => Sys2Proof.Machine.execSendv t a b c s
  | .recv t a => Sys2Proof.Machine.execRecv t a s
  | .recvn t a => Sys2Proof.Machine.execRecvn t a s
  | .submit t a b => Sys2Proof.Machine.execSubmit t a b s
  | .cancel t a b => Sys2Proof.Machine.execCancel t a b s
  | .yield a b => Sys2Proof.Machine.execYield a b s
  | .retire => Sys2Proof.Machine.execRetire s
  | .sleept a b => Sys2Proof.Machine.execSleept a b s
  | .subat t a b c => Sys2Proof.Machine.execSubat t a b c s
  | .qstat t a => Sys2Proof.Machine.execQstat t a s
  | .fpin t a b => Sys2Proof.Machine.execFpin t a b s
  | .rkreg t a b c => Sys2Proof.Machine.execRkreg t a b c s
  | .rkrev a => Sys2Proof.Machine.execRkrev a s
  | .ckreg t a b => Sys2Proof.Machine.execCkreg t a b s
  | .ckdel t a => Sys2Proof.Machine.execCkdel t a s
  | .hovrTake t a b c => Sys2Proof.Machine.execHovrTake t a b c s
  | .hovrGive t a b c => Sys2Proof.Machine.execHovrGive t a b c s
  | .plbinv t a b c => Sys2Proof.Machine.execPlbinv t a b c s
  | .xlinv t a b c => Sys2Proof.Machine.execXlinv t a b c s
  | .migrSeal t c => Sys2Proof.Machine.execMigrSeal t c s
  | .migrTake t a b c => Sys2Proof.Machine.execMigrTake t a b c s
  | .migrDiscard t c => Sys2Proof.Machine.execMigrDiscard t c s
  | .migrReclaim t c => Sys2Proof.Machine.execMigrReclaim t c s
  | .nop x => Sys2Proof.Machine.execNop x s
  | .reservedHintA m x => Sys2Proof.Machine.execReservedHintA m x s
  | .reservedHintB m x => Sys2Proof.Machine.execReservedHintB m x s
  | .illegalInstruction cause word => Sys2Proof.Machine.execIllegalInstruction cause word s
  | .vaddI32 d a b g => Sys2Proof.Machine.execVaddI32 d a b g s
  | .vsubI32 d a b g => Sys2Proof.Machine.execVsubI32 d a b g s
  | .vmulI32 d a b g => Sys2Proof.Machine.execVmulI32 d a b g s
  | .vmulhI32 d a b g => Sys2Proof.Machine.execVmulhI32 d a b g s
  | .vmulhN32 d a b g => Sys2Proof.Machine.execVmulhN32 d a b g s
  | .vaddsI32 d a b g => Sys2Proof.Machine.execVaddsI32 d a b g s
  | .vaddsN32 d a b g => Sys2Proof.Machine.execVaddsN32 d a b g s
  | .vsubsI32 d a b g => Sys2Proof.Machine.execVsubsI32 d a b g s
  | .vsubsN32 d a b g => Sys2Proof.Machine.execVsubsN32 d a b g s
  | .vaddsI16 d a b g => Sys2Proof.Machine.execVaddsI16 d a b g s
  | .vaddsI8 d a b g => Sys2Proof.Machine.execVaddsI8 d a b g s
  | .vaddsN8 d a b g => Sys2Proof.Machine.execVaddsN8 d a b g s
  | .vminI32 d a b g => Sys2Proof.Machine.execVminI32 d a b g s
  | .vminN32 d a b g => Sys2Proof.Machine.execVminN32 d a b g s
  | .vmaxI32 d a b g => Sys2Proof.Machine.execVmaxI32 d a b g s
  | .vmaxN32 d a b g => Sys2Proof.Machine.execVmaxN32 d a b g s
  | .vand d a b g => Sys2Proof.Machine.execVand d a b g s
  | .vor d a b g => Sys2Proof.Machine.execVor d a b g s
  | .vxor d a b g => Sys2Proof.Machine.execVxor d a b g s
  | .vandn d a b g => Sys2Proof.Machine.execVandn d a b g s
  | .vshl d a b g => Sys2Proof.Machine.execVshl d a b g s
  | .vshrN32 d a b g => Sys2Proof.Machine.execVshrN32 d a b g s
  | .vshrI32 d a b g => Sys2Proof.Machine.execVshrI32 d a b g s
  | .vshli d a n g => Sys2Proof.Machine.execVshli d a n g s
  | .vshriN32 d a n g => Sys2Proof.Machine.execVshriN32 d a n g s
  | .vshriI32 d a n g => Sys2Proof.Machine.execVshriI32 d a n g s
  | .vaddiI32 d a imm g => Sys2Proof.Machine.execVaddiI32 d a imm g s
  | .vabsI32 d a g => Sys2Proof.Machine.execVabsI32 d a g s
  | .vcmpeqI32 d a b g => Sys2Proof.Machine.execVcmpeqI32 d a b g s
  | .vcmpltI32 d a b g => Sys2Proof.Machine.execVcmpltI32 d a b g s
  | .vcmpltN32 d a b g => Sys2Proof.Machine.execVcmpltN32 d a b g s
  | .vsel d a b g => Sys2Proof.Machine.execVsel d a b g s
  | .vaddF32 d a b g => Sys2Proof.Machine.execVaddF32 d a b g s
  | .vsubF32 d a b g => Sys2Proof.Machine.execVsubF32 d a b g s
  | .vmulF32 d a b g => Sys2Proof.Machine.execVmulF32 d a b g s
  | .vfmaF32 d a b g => Sys2Proof.Machine.execVfmaF32 d a b g s
  | .vfmsF32 d a b g => Sys2Proof.Machine.execVfmsF32 d a b g s
  | .vminF32 d a b g => Sys2Proof.Machine.execVminF32 d a b g s
  | .vmaxF32 d a b g => Sys2Proof.Machine.execVmaxF32 d a b g s
  | .vabsF32 d a g => Sys2Proof.Machine.execVabsF32 d a g s
  | .vaddBf16 d a b g => Sys2Proof.Machine.execVaddBf16 d a b g s
  | .vmulBf16 d a b g => Sys2Proof.Machine.execVmulBf16 d a b g s
  | .vfmaBf16 d a b g => Sys2Proof.Machine.execVfmaBf16 d a b g s
  | .vaddF16 d a b g => Sys2Proof.Machine.execVaddF16 d a b g s
  | .vmulF16 d a b g => Sys2Proof.Machine.execVmulF16 d a b g s
  | .vfmaF16 d a b g => Sys2Proof.Machine.execVfmaF16 d a b g s
  | .vcmpeqF32 d a b g => Sys2Proof.Machine.execVcmpeqF32 d a b g s
  | .vcmpltF32 d a b g => Sys2Proof.Machine.execVcmpltF32 d a b g s
  | .vcmpleF32 d a b g => Sys2Proof.Machine.execVcmpleF32 d a b g s
  | .vcmpunF32 d a b g => Sys2Proof.Machine.execVcmpunF32 d a b g s
  | .vcvtF32I32 d a g => Sys2Proof.Machine.execVcvtF32I32 d a g s
  | .vcvtF32N32 d a g => Sys2Proof.Machine.execVcvtF32N32 d a g s
  | .vcvtF32I16 d a g => Sys2Proof.Machine.execVcvtF32I16 d a g s
  | .vcvtF32N16 d a g => Sys2Proof.Machine.execVcvtF32N16 d a g s
  | .vcvtF32I8 d a g => Sys2Proof.Machine.execVcvtF32I8 d a g s
  | .vcvtF32N8 d a g => Sys2Proof.Machine.execVcvtF32N8 d a g s
  | .vcvtI32F32 d a g => Sys2Proof.Machine.execVcvtI32F32 d a g s
  | .vcvtN32F32 d a g => Sys2Proof.Machine.execVcvtN32F32 d a g s
  | .vcvtF32Bf16 d a g => Sys2Proof.Machine.execVcvtF32Bf16 d a g s
  | .vcvtF32F16 d a g => Sys2Proof.Machine.execVcvtF32F16 d a g s
  | .vcvtF32E4m3 d a g => Sys2Proof.Machine.execVcvtF32E4m3 d a g s
  | .vcvtF32E5m2 d a g => Sys2Proof.Machine.execVcvtF32E5m2 d a g s
  | .vcvtBf16F32 d a k g => Sys2Proof.Machine.execVcvtBf16F32 d a k g s
  | .vcvtF16F32 d a k g => Sys2Proof.Machine.execVcvtF16F32 d a k g s
  | .vcvtE4m3F32 d a k g => Sys2Proof.Machine.execVcvtE4m3F32 d a k g s
  | .vcvtE5m2F32 d a k g => Sys2Proof.Machine.execVcvtE5m2F32 d a k g s
  | .vcvtI32I16 d a g => Sys2Proof.Machine.execVcvtI32I16 d a g s
  | .vcvtI32N16 d a g => Sys2Proof.Machine.execVcvtI32N16 d a g s
  | .vcvtI32I8 d a g => Sys2Proof.Machine.execVcvtI32I8 d a g s
  | .vcvtI32N8 d a g => Sys2Proof.Machine.execVcvtI32N8 d a g s
  | .vcvtN32I32 d a g => Sys2Proof.Machine.execVcvtN32I32 d a g s
  | .vcvtI32N32 d a g => Sys2Proof.Machine.execVcvtI32N32 d a g s
  | .vqb4 d a b t => Sys2Proof.Machine.execVqb4 d a b t s
  | .vrcpE d a g => Sys2Proof.Machine.execVrcpE d a g s
  | .vrsqE d a g => Sys2Proof.Machine.execVrsqE d a g s
  | .vrcps d a b g => Sys2Proof.Machine.execVrcps d a b g s
  | .vrsqs d a b g => Sys2Proof.Machine.execVrsqs d a b g s
  | .vexp2E d a g => Sys2Proof.Machine.execVexp2E d a g s
  | .vlog2E d a g => Sys2Proof.Machine.execVlog2E d a g s
  | .vtanhE d a g => Sys2Proof.Machine.execVtanhE d a g s
  | .vrsumF32 d a g => Sys2Proof.Machine.execVrsumF32 d a g s
  | .vrmaxF32 d a g => Sys2Proof.Machine.execVrmaxF32 d a g s
  | .vrminF32 d a g => Sys2Proof.Machine.execVrminF32 d a g s
  | .vrsumI32 d a g => Sys2Proof.Machine.execVrsumI32 d a g s
  | .vrmaxI32 d a g => Sys2Proof.Machine.execVrmaxI32 d a g s
  | .vperm d a b g => Sys2Proof.Machine.execVperm d a b g s
  | .vbcast d a k g => Sys2Proof.Machine.execVbcast d a k g s
  | .vslideup d a n g => Sys2Proof.Machine.execVslideup d a n g s
  | .vslidedn d a n g => Sys2Proof.Machine.execVslidedn d a n g s
  | .vzipl d a b g => Sys2Proof.Machine.execVzipl d a b g s
  | .vziph d a b g => Sys2Proof.Machine.execVziph d a b g s
  | .pand d a b => Sys2Proof.Machine.execPand d a b s
  | .por d a b => Sys2Proof.Machine.execPor d a b s
  | .pxor d a b => Sys2Proof.Machine.execPxor d a b s
  | .pnot d a => Sys2Proof.Machine.execPnot d a s
  | .vpcnt d a g => Sys2Proof.Machine.execVpcnt d a g s
  | .movw d a g => Sys2Proof.Machine.execMovw d a g s
  | .movwi d imm g => Sys2Proof.Machine.execMovwi d imm g s
  | .vrng d g => Sys2Proof.Machine.execVrng d g s
  | .rngsetKey a b => Sys2Proof.Machine.execRngsetKey a b s
  | .rngsetCtr b => Sys2Proof.Machine.execRngsetCtr b s
  | .rngsetAdv b => Sys2Proof.Machine.execRngsetAdv b s
  | .vnop x => Sys2Proof.Machine.execVnop x s
  | .qadd d a b => Sys2Proof.Machine.execQadd d a b s
  | .qsub d a b => Sys2Proof.Machine.execQsub d a b s
  | .qmul d a b => Sys2Proof.Machine.execQmul d a b s
  | .qmax d a b => Sys2Proof.Machine.execQmax d a b s
  | .qmin d a b => Sys2Proof.Machine.execQmin d a b s
  | .qscl d a v => Sys2Proof.Machine.execQscl d a v s
  | .qneg d a => Sys2Proof.Machine.execQneg d a s
  | .qmap d a f => Sys2Proof.Machine.execQmap d a f s
  | .qmov d a => Sys2Proof.Machine.execQmov d a s
  | .qpick p a c v g => Sys2Proof.Machine.execQpick p a c v g s
  | .qmake d n v => Sys2Proof.Machine.execQmake d n v s
  | .qmom a k v g => Sys2Proof.Machine.execQmom a k v g s
  | .qqnt a v g => Sys2Proof.Machine.execQqnt a v g s
  | .qcdf a v g => Sys2Proof.Machine.execQcdf a v g s
  | .asyncTrapEntry g => Sys2Proof.Machine.execAsyncTrapEntry g s
  | .commit gc => Sys2Proof.Machine.execCommit gc s
  | .loadDataArrival g n => Sys2Proof.Machine.execLoadDataArrival g n s
  | .soloRunStart gc => Sys2Proof.Machine.execSoloRunStart gc s
  | .soloRunTimeout g => Sys2Proof.Machine.execSoloRunTimeout g s
  | .barrierPhaseComplete level scope domain b => Sys2Proof.Machine.execBarrierPhaseComplete level scope domain b s
  | .fence gc why => Sys2Proof.Machine.execFence gc why s
  | .ownerReadRequest gc id n peer => Sys2Proof.Machine.execOwnerReadRequest gc id n peer s
  | .remoteLoadAnswer gc id => Sys2Proof.Machine.execRemoteLoadAnswer gc id s
  | .leaseExpiry gc => Sys2Proof.Machine.execLeaseExpiry gc s
  | .matrixAFetchDone gc seq => Sys2Proof.Machine.execMatrixAFetchDone gc seq s
  | .mwldReadComplete gc seq => Sys2Proof.Machine.execMwldReadComplete gc seq s
  | .matrixCommandStart gc seq => Sys2Proof.Machine.execMatrixCommandStart gc seq s
  | .accPortServe gc => Sys2Proof.Machine.execAccPortServe gc s
  | .mzeroDone gc => Sys2Proof.Machine.execMzeroDone gc s
  | .mdrainDone gc => Sys2Proof.Machine.execMdrainDone gc s
  | .mwaitDone gc seq => Sys2Proof.Machine.execMwaitDone gc seq s
  | .onionEnter gc => Sys2Proof.Machine.execOnionEnter gc s
  | .onionGroupDue gc k => Sys2Proof.Machine.execOnionGroupDue gc k s
  | .arrayLoad gc => Sys2Proof.Machine.execArrayLoad gc s
  | .arrayLoadDone gc => Sys2Proof.Machine.execArrayLoadDone gc s
  | .passIssue gc => Sys2Proof.Machine.execPassIssue gc s
  | .passEnd gc => Sys2Proof.Machine.execPassEnd gc s
  | .cpyComplete gc id => Sys2Proof.Machine.execCpyComplete gc id s
  | .pullComplete gc id => Sys2Proof.Machine.execPullComplete gc id s
  | .pullcAnswer gc id => Sys2Proof.Machine.execPullcAnswer gc id s
  | .pulldComplete gc id => Sys2Proof.Machine.execPulldComplete gc id s
  | .pulldVerifyComplete gc id => Sys2Proof.Machine.execPulldVerifyComplete gc id s
  | .ownerPullcServe gc id peer => Sys2Proof.Machine.execOwnerPullcServe gc id peer s
  | .watchPlacementArrival gc id => Sys2Proof.Machine.execWatchPlacementArrival gc id s
  | .watchAnswerArrival gc id peer => Sys2Proof.Machine.execWatchAnswerArrival gc id peer s
  | .watchtExpiry gc id => Sys2Proof.Machine.execWatchtExpiry gc id s
  | .watchRefresh gc id => Sys2Proof.Machine.execWatchRefresh gc id s
  | .watchUnackedTimeout gc id => Sys2Proof.Machine.execWatchUnackedTimeout gc id s
  | .tileLifetimeExpiry gc k t => Sys2Proof.Machine.execTileLifetimeExpiry gc k t s
  | .crtEntryExpiry gc => Sys2Proof.Machine.execCrtEntryExpiry gc s
  | .poolEventDelivery gc => Sys2Proof.Machine.execPoolEventDelivery gc s
  | .sendArrival gc id peer => Sys2Proof.Machine.execSendArrival gc id peer s
  | .foreignRingWrite h payload => Sys2Proof.Machine.execForeignRingWrite h payload s
  | .sendOrderTimeout chip slot header => Sys2Proof.Machine.execSendOrderTimeout chip slot header s
  | .sendAnswerArrival gc id => Sys2Proof.Machine.execSendAnswerArrival gc id s
  | .submissionArrival gc id => Sys2Proof.Machine.execSubmissionArrival gc id s
  | .cancelArrival gc id => Sys2Proof.Machine.execCancelArrival gc id s
  | .timerTick d => Sys2Proof.Machine.execTimerTick d s
  | .deadlineDrop d => Sys2Proof.Machine.execDeadlineDrop d s
  | .dispatch d => Sys2Proof.Machine.execDispatch d s
  | .sliceStart g => Sys2Proof.Machine.execSliceStart g s
  | .abortRequestDelivery d => Sys2Proof.Machine.execAbortRequestDelivery d s
  | .sliceAbort g => Sys2Proof.Machine.execSliceAbort g s
  | .budgetExhausted g => Sys2Proof.Machine.execBudgetExhausted g s
  | .preemptRequest d => Sys2Proof.Machine.execPreemptRequest d s
  | .preemptTimeout g => Sys2Proof.Machine.execPreemptTimeout g s
  | .sliceLeave g => Sys2Proof.Machine.execSliceLeave g s
  | .linkTraining k lanes => Sys2Proof.Machine.execLinkTraining k lanes s
  | .linkRekey k => Sys2Proof.Machine.execLinkRekey k s
  | .flitTagFail k again => Sys2Proof.Machine.execFlitTagFail k again s
  | .portLaneLoss k => Sys2Proof.Machine.execPortLaneLoss k s
  | .commandPartArrival h part count c => Sys2Proof.Machine.execCommandPartArrival h part count c s
  | .commandReassemblyTimeout chip rid => Sys2Proof.Machine.execCommandReassemblyTimeout chip rid s
  | .peerRequestArrival h q => Sys2Proof.Machine.execPeerRequestArrival h q s
  | .requestRetry n => Sys2Proof.Machine.execRequestRetry n s
  | .requestTimeout n => Sys2Proof.Machine.execRequestTimeout n s
  | .peerEndpointDown chip => Sys2Proof.Machine.execPeerEndpointDown chip s
  | .peerSilenceTimeout chip => Sys2Proof.Machine.execPeerSilenceTimeout chip s
  | .keyEntryFree gc => Sys2Proof.Machine.execKeyEntryFree gc s
  | .attestationRequest h nonce => Sys2Proof.Machine.execAttestationRequest h nonce s
  | .attestationReportArrival chip feed => Sys2Proof.Machine.execAttestationReportArrival chip feed s
  | .attestationTimeout chip => Sys2Proof.Machine.execAttestationTimeout chip s
  | .violationRecord d => Sys2Proof.Machine.execViolationRecord d s
  | .translationWalkDone g => Sys2Proof.Machine.execTranslationWalkDone g s
  | .invalidateComplete gc id => Sys2Proof.Machine.execInvalidateComplete gc id s
  | .sqDoorbell tail => Sys2Proof.Machine.execSqDoorbell tail s
  | .hostSubmissionTake entry => Sys2Proof.Machine.execHostSubmissionTake entry s
  | .cqheadWrite head => Sys2Proof.Machine.execCqheadWrite head s
  | .regionKick n v => Sys2Proof.Machine.execRegionKick n v s
  | .hovrKickTimeout gc id => Sys2Proof.Machine.execHovrKickTimeout gc id s
  | .hovrGiveDrainDone gc id => Sys2Proof.Machine.execHovrGiveDrainDone gc id s
  | .hostPageResponse pasid page present => Sys2Proof.Machine.execHostPageResponse pasid page present s
  | .hostPageTimeout pasid page => Sys2Proof.Machine.execHostPageTimeout pasid page s
  | .atsInvalidation pasid first count => Sys2Proof.Machine.execAtsInvalidation pasid first count s
  | .barRegisterWrite off v => Sys2Proof.Machine.execBarRegisterWrite off v s
  | .mbQueueDescriptor => Sys2Proof.Machine.execMbQueueDescriptor s
  | .mbPeerEntry check => Sys2Proof.Machine.execMbPeerEntry check s
  | .mbPageTableRoot => Sys2Proof.Machine.execMbPageTableRoot s
  | .mbViolationLogPlace => Sys2Proof.Machine.execMbViolationLogPlace s
  | .mbHostSubmissionDomain => Sys2Proof.Machine.execMbHostSubmissionDomain s
  | .mbResetHaltedSlot => Sys2Proof.Machine.execMbResetHaltedSlot s
  | .mbFenceCluster => Sys2Proof.Machine.execMbFenceCluster s
  | .mbClearPeerFailure check => Sys2Proof.Machine.execMbClearPeerFailure check s
  | .mbAttestationReport => Sys2Proof.Machine.execMbAttestationReport s
  | .mbUnknownOp => Sys2Proof.Machine.execMbUnknownOp s
  | .mbRequestDone => Sys2Proof.Machine.execMbRequestDone s
  | .modeClkRequest v => Sys2Proof.Machine.execModeClkRequest v s
  | .modeXstkRequest v => Sys2Proof.Machine.execModeXstkRequest v s
  | .modeLeaseRequest v => Sys2Proof.Machine.execModeLeaseRequest v s
  | .modeRlimRequest v => Sys2Proof.Machine.execModeRlimRequest v s
  | .dieClockSwitch d stop => Sys2Proof.Machine.execDieClockSwitch d stop s
  | .moduleReset => Sys2Proof.Machine.execModuleReset s
  | .bringupState w => Sys2Proof.Machine.execBringupState w s
  | .powerSample power top => Sys2Proof.Machine.execPowerSample power top s
  | .droopTrip d stretch => Sys2Proof.Machine.execDroopTrip d stretch s
  | .thermalHold d temp => Sys2Proof.Machine.execThermalHold d temp s
  | .thermalRelease d temp => Sys2Proof.Machine.execThermalRelease d temp s
  | .thermalTrip d temp => Sys2Proof.Machine.execThermalTrip d temp s
  | .marginReplan slack => Sys2Proof.Machine.execMarginReplan slack s
  | .podTimeDiscipline rate ahead => Sys2Proof.Machine.execPodTimeDiscipline rate ahead s
  | .softErrorCorrected gc hbm => Sys2Proof.Machine.execSoftErrorCorrected gc hbm s
  | .registerUncorrectable g kind => Sys2Proof.Machine.execRegisterUncorrectable g kind s
  | .peerEndpointUp chip => Sys2Proof.Machine.execPeerEndpointUp chip s
  | .watchAcknowledgementArrival gc id => Sys2Proof.Machine.execWatchAcknowledgementArrival gc id s
  | .hostWriteThroughDone n => Sys2Proof.Machine.execHostWriteThroughDone n s
  | .engineRangeRelease gc engine op => Sys2Proof.Machine.execEngineRangeRelease gc engine op s
  | .submissionAnswerArrival gc id => Sys2Proof.Machine.execSubmissionAnswerArrival gc id s

end Sys2Proof.Machine
end

