-- ==== Sys2Proof/WellFormed.lean ====
section
/-!
DEFINITION. Well-formed instructions: those whose fields hold values the spec assigns (spec/02_encoding.md R64-R69 and
the word tables of the engine chapters).
-/

namespace Sys2Proof

/-- An instruction that the decoder may yield and that raises no decode cause of its own. -/
def Instr.wf (i : Instr) : Bool := i.fieldCause.isNone

/-- The instruction that the decoder gives for the word of `i`. Rows that share a word are told apart by registers when
the word executes, so the decoder names one of them (spec/09_pull.md R255, spec/14_host.md R392, R396, R400). -/
def Instr.canon : Instr → Instr
  | .hovrGive t a b c => .hovrTake t a b c
  | .migrDiscard t c => .migrSeal t c
  | .migrReclaim t c => .migrSeal t c
  | .migrTake t a b c => if a = 0 ∧ b = 0 then .migrSeal t c else .migrTake t a b c
  | .pulld t a b c => if a = 0 ∧ b = 0 then .pulldVerify t c else .pulld t a b c
  | i => i

end Sys2Proof
end

