-- ==== Sys2Proof/Machine/Step.lean ====
section
/-!
DEFINITION. One step of the module: the next turn of the agenda is taken (log entry 1). A slot's turn fetches, decodes
and executes one bundle (spec/02_encoding.md R48, R51, R68-R70); every other turn is a step of the opcode table, an access by Husk, or
a refusal by Husk's policy (spec/15_taproot.md R404, R405).
-/

namespace Sys2Proof.Machine

/-- The meanings of the two words of a pair, the A-word's first (spec/02_encoding.md R49). -/
def pairBody (a b : Instr) (s : State) : State :=
  let t := match exec a s with | .next t => t | _ => s
  match exec b t with | .next u => u | _ => t

/-- A bundle that has been fetched and decoded is executed. -/
noncomputable def Bundled.run (b : Bundled) (s : State) : Host.Outcome State Fault Refusal :=
  match b with
  | .fault code v => .next (s.decodeCause code v)
  | .one w => exec (instrAt (isMem s.myCluster) w) s
  | .two v w =>
    match causeAt (isMem s.myCluster) v, causeAt (isMem s.myCluster) w with
    | none, none => .next (runBundle 8 (pairBody (instrAt (isMem s.myCluster) v) (instrAt (isMem s.myCluster) w)) s)
    | some _, _ => exec (instrAt (isMem s.myCluster) v) s
    | none, some _ => exec (instrAt (isMem s.myCluster) w) s

/-- The turn of a slot: what it waits for, else its next bundle. -/
noncomputable def slotTurn (g : Nat) (s : State) : Host.Outcome State Fault Refusal :=
  match s.ready g with
  | .wait t => .next t
  | .bundle t => (t.fetch g).run t

/-- One step of the module. With nothing on the agenda a commit that is due is made, else the next slot that runs has its turn. -/
noncomputable def step (s : State) : Host.Outcome State Fault Refusal :=
  match s.agenda with
  | .slot g :: ts => slotTurn g { s with agenda := ts, cur := g }
  | .event i :: ts => exec i { s with agenda := ts }
  | .husk a :: ts => .next ({ s with agenda := ts }.huskTurn a)
  | .policy :: ts => .next { s with agenda := ts }.refuseRequest
  | [] =>
    match s.dueCommit with
    | some gc => exec (.commit gc) s
    | none =>
      match s.nextSlot with
      | some g => slotTurn g { s with cur := g }
      | none => .next (s.tick s.cur 1)

/-- The state with an instruction stored where the next step fetches, on a slot that runs (log entry 2). -/
def State.withFetchWord (s : State) (_nbits w : Nat) : State := s.loaded (BitVec.ofNat 32 w)

end Sys2Proof.Machine
end

