-- ==== Sys2Proof/Safety.lean ====
section
/-!
DEFINITION. The terms of the claims: a slot on which a word runs without waiting, the state that a bundle leaves, and a module
in which a commit is not held.
-/

namespace Sys2Proof.Machine

/-- Nothing of what a word uses is awaited: no scalar register that it names is pending, and no load in flight writes a
register that it names (spec/01_engines.md R28, spec/02_encoding.md R49). -/
abbrev Slot.idle (x : Slot) (u : Uses) : Prop :=
  (∀ n ∈ u.s, n ≠ 0 → bit x.live.pend n = false) ∧ (∀ l ∈ x.loads, l.blocks u = false)

/-- The acting slot can run a word as a bundle of its own that uses the given registers: no bundle is open, the slot is in no
gang, its region is within the limits of spec/05_commit.md R145, and nothing that the word uses is awaited. -/
abbrev State.free (s : State) (u : Uses) : Prop :=
  s.bundle = none ∧ s.me.live.gsize = 0 ∧ s.me.region.bundles < Config.maxBundles
    ∧ (linesOf s.me.region.stores).length ≤ Config.maxLines ∧ s.me.region.effects.length ≤ Config.maxEffects
    ∧ s.me.idle u

/-- The bundle of the acting slot as it begins: a word of 4 bytes. -/
def State.started (s : State) : State := s.beginBundle s.cur s.me.pc (s.me.pc + 4)

/-- The state after a bundle of the acting slot has ended: the bundle took a number of ck and left the slot at a pc, and its
region counts one bundle more; nothing else is changed. -/
def State.ended (s : State) (ck : Nat) (pc : Word) : State :=
  (s.modMe fun x => { x with pc := pc, region := { x.region with bundles := x.region.bundles + 1 } }).tick s.cur ck

/-- The state after a word of one ck that is followed by the next one. -/
def State.passed (s : State) : State := s.ended 1 (s.me.pc + 4)

/-- The state after a word whose bundle raises a cause: the acting slot takes it, and a ck passes. -/
def State.faulted (s : State) (code : Nat) (v : Word) : State :=
  { (s.takeCauses [(s.cur, some (code, v, some s.me.pc))]).stalled [s.cur] false with cur := s.cur, bundle := none }

/-- The region of the acting slot with one bundle more. -/
def State.counted (s : State) : State :=
  s.modMe fun x => { x with region := { x.region with bundles := x.region.bundles + 1 } }

/-- No request of a cluster waits for its commit. -/
def State.calm (s : State) (gc : Nat) : Prop := s.requests gc = []

/-- The region of the acting slot commits at once when its bundle ends it. -/
def State.commits (s : State) : Prop := s.counted.calm s.myCluster ∧ s.counted.regionHeld [s.cur] = false

/-- The state after a word of the acting slot that ends its region by a commit, which a follows. -/
def State.boundary (s : State) (a : After) : State :=
  { (s.counted.finishRegions [(s.cur, a)] (s.me.pc + 4)).tick s.cur 1 with cur := s.cur, bundle := none }

/-- The state after a bundle of the acting slot that does not execute, since its region must commit first: the region is
committed under a code of LAST, and an ordinary one opens at the bundle. -/
def State.reopened (s : State) (last : Nat) : State :=
  { (s.finishRegions [(s.cur, .reopen last)] s.me.pc).stalled [s.cur] false with cur := s.cur, bundle := none }

/-- The state after a word of the acting slot whose bundle ends its region while the region's commit is held. -/
def State.heldBack (s : State) (a : After) : State :=
  (s.counted.modMe fun x => { x with wait := some (.commit a (s.me.pc + 4) s.cycles) }).tick s.cur 1

/-- The acting slot's region deferred and reserved nothing, no parked region is in its cluster, and no other region of the cluster
has read what it stores: its commit changes nothing but what it stored. -/
def State.lone (s : State) : Prop :=
  s.me.region.effects = [] ∧ s.me.region.res = ⟨[], [], []⟩ ∧ s.me.region.kept = ⟨[], [], []⟩ ∧ s.me.abort = false
    ∧ ∀ g ∈ s.slotsOf s.myCluster, (s.slot g).parked = none
      ∧ (g ≠ s.cur → (s.slot g).region.rsig &&& s.me.region.wsig = 0)

/-- The acting slot has a parked region, and is else as `lone` says; the commit of its region leaves the parked one alone. -/
def State.apart (s : State) (r : Region) : Prop :=
  s.me.parked = some r ∧ r.rsig &&& s.me.region.wsig = 0
    ∧ s.me.region.effects = [] ∧ s.me.region.res = ⟨[], [], []⟩ ∧ s.me.region.kept = ⟨[], [], []⟩ ∧ s.me.abort = false
    ∧ ∀ g ∈ s.slotsOf s.myCluster, g ≠ s.cur → (s.slot g).parked = none ∧ (s.slot g).region.rsig &&& s.me.region.wsig = 0

/-- The step of some work of a cluster that ends in a commit, `u` being the state once the older requests of the cluster have been
committed: the commit unit grants the commit, which `f` makes, or the work asks for it (spec/05_commit.md R152, R156). -/
def State.closes (s u : State) (gc : Nat) (d : Done) (i : Instr) (f : State → State) : Prop :=
  (u.grants gc d = true → exec i s = .next (f (u.unasked gc d.work)))
    ∧ (u.grants gc d = false → exec i s = .next (u.defer gc d))

/-- A slot's region with one bundle more. -/
def State.countedOn (s : State) (g : Nat) : State :=
  s.modSlot g fun x => { x with region := { x.region with bundles := x.region.bundles + 1 } }

/-- The region of the acting slot has room for one more effect. -/
abbrev State.room (s : State) : Prop := s.me.region.effects.length < Config.maxEffects

/-- Some places can be read at once: no line of theirs has an uncorrectable error, but under a store of the region, and
every host page of theirs is translated. -/
abbrev State.readable (s : State) (ps : List Nat) : Prop :=
  (∀ a ∈ ps, s.faulty.contains (lineOf a) = true → (mfind s.me.region.stores a).isNone = false)
    ∧ ∀ a ∈ ps, s.absentPage a = none

/-- Some bytes can be stored at once: every host page of theirs is translated. -/
abbrev State.storable (s : State) (ws : FMap Byte) : Prop := ∀ c ∈ ws, s.absentPage c.1 = none

/-- A store of n bytes of a value at an address can be made at once. -/
abbrev State.storableAt (s : State) (a : Word) (n : Nat) (v : Word) : Prop :=
  ∀ p, s.locate a = some p → s.storable (storeAt n v p).1

/-- The lines that the acting slot's region has stored to are within their limit. -/
abbrev State.linesFit (s : State) : Prop := (linesOf s.me.region.stores).length ≤ Config.maxLines

/-- The vectors for which a word replays: each distinct source with a subnormal value in an included lane, and the result when an
included lane of it is tiny (spec/06_vector.md R171). -/
def State.replays (s : State) (m : BitVec 16) (srcs : List (BitVec 7)) (tiny : Nat → Bool) : Nat :=
  (srcs.dedup.filter fun x => (lanesOf m).any fun i => subnormal (laneOf (s.me.live.operand x) i)).length
    + if (lanesOf m).any tiny then 1 else 0

/-- The acting slot after a launch or a load that names some pages: they are in its core's protection buffer, and none is kept for
its bundle any longer (spec/14_host.md R390). -/
def State.tookPages (s : State) (ps : List Page) : State :=
  (ps.foldl (fun s p => s.fillPlb s.cur s.me.domain p) s).modMe fun x => { x with pages := [] }

/-- A scalar register of the acting slot. -/
def State.x (s : State) (n : BitVec 5) : Word := s.me.live.sreg n.toNat

end Sys2Proof.Machine

namespace Sys2Proof

/-- The scalar register that an arithmetic word writes (spec/04_control.md R104, R106). -/
def Instr.arithDest : Instr → Option (BitVec 5)
  | .add d _ _ => some d
  | .sub d _ _ => some d
  | .and d _ _ => some d
  | .or d _ _ => some d
  | .xor d _ _ => some d
  | .andn d _ _ => some d
  | .shl d _ _ => some d
  | .shr d _ _ => some d
  | .sra d _ _ => some d
  | .slt d _ _ => some d
  | .sltn d _ _ => some d
  | .seq d _ _ => some d
  | .min d _ _ => some d
  | .minn d _ _ => some d
  | .max d _ _ => some d
  | .maxn d _ _ => some d
  | .addx4 d _ _ => some d
  | .addx64 d _ _ => some d
  | .mul d _ _ => some d
  | .mulh d _ _ => some d
  | .mulhn d _ _ => some d
  | .div d _ _ => some d
  | .divn d _ _ => some d
  | .rem d _ _ => some d
  | .remn d _ _ => some d
  | .movz d _ _ => some d
  | .movnz d _ _ => some d
  | .addi d _ _ => some d
  | .andi d _ _ => some d
  | .ori d _ _ => some d
  | .xori d _ _ => some d
  | .shli d _ _ => some d
  | .shri d _ _ => some d
  | .srai d _ _ => some d
  | .slti d _ _ => some d
  | .sltni d _ _ => some d
  | .clz d _ => some d
  | .popc d _ => some d
  | .prd d _ => some d
  | .lui d _ => some d
  | _ => none

end Sys2Proof
end

