-- ==== Sys2Proof/Certificates/Slice0/Obligations.lean ====
section
/-!
DEFINITION. The statements for the provers, by the chapters of the spec.
-/

open Sys2Proof Sys2Proof.Machine

/-! ## The scalar words (spec/04_control.md R104-R113) -/

/-- R104-R106: the arithmetic words write sd from their sources as they stood, and nothing else: a division by 0 and the overflowing
division have the results of R105, MOVZ and MOVNZ write only on their condition, s0 discards the write; PRD reads and PWR writes a
predicate. -/
def Obligations.ScalarArithmetic : Prop :=
  (∀ (s : State) (d a b : BitVec 5), s.free (useS [d, a, b]) →
    let x := s.x a
    let y := s.x b
    let wrote (v : Word) : Host.Outcome State Fault Refusal := .next (s.wS d v).passed
    exec (.add d a b) s = wrote (x + y) ∧ exec (.sub d a b) s = wrote (x - y)
      ∧ exec (.and d a b) s = wrote (x &&& y) ∧ exec (.or d a b) s = wrote (x ||| y)
      ∧ exec (.xor d a b) s = wrote (x ^^^ y) ∧ exec (.andn d a b) s = wrote (x &&& ~~~y)
      ∧ exec (.shl d a b) s = wrote (x <<< (y.toNat % 32)) ∧ exec (.shr d a b) s = wrote (x >>> (y.toNat % 32))
      ∧ exec (.sra d a b) s = wrote (x.sshiftRight (y.toNat % 32))
      ∧ exec (.slt d a b) s = wrote (if x.toInt < y.toInt then 1 else 0)
      ∧ exec (.sltn d a b) s = wrote (if x.toNat < y.toNat then 1 else 0)
      ∧ exec (.seq d a b) s = wrote (if x = y then 1 else 0)
      ∧ exec (.min d a b) s = wrote (if x.toInt ≤ y.toInt then x else y)
      ∧ exec (.minn d a b) s = wrote (if x.toNat ≤ y.toNat then x else y)
      ∧ exec (.max d a b) s = wrote (if y.toInt ≤ x.toInt then x else y)
      ∧ exec (.maxn d a b) s = wrote (if y.toNat ≤ x.toNat then x else y)
      ∧ exec (.addx4 d a b) s = wrote (x + 4 * y) ∧ exec (.addx64 d a b) s = wrote (x + 64 * y)
      ∧ exec (.mul d a b) s = wrote (x * y)
      ∧ exec (.mulh d a b) s = wrote (BitVec.ofInt 32 (x.toInt * y.toInt / 2 ^ 32))
      ∧ exec (.mulhn d a b) s = wrote (BitVec.ofNat 32 (x.toNat * y.toNat / 2 ^ 32))
      ∧ exec (.div d a b) s = wrote (BitVec.ofInt 32
          (if y.toInt = 0 then -1 else if x.toInt = -(2 ^ 31) ∧ y.toInt = -1 then -(2 ^ 31) else x.toInt.tdiv y.toInt))
      ∧ exec (.rem d a b) s = wrote (BitVec.ofInt 32
          (if y.toInt = 0 then x.toInt else if x.toInt = -(2 ^ 31) ∧ y.toInt = -1 then 0
            else x.toInt - x.toInt.tdiv y.toInt * y.toInt))
      ∧ exec (.divn d a b) s = wrote (BitVec.ofNat 32 (if y.toNat = 0 then 2 ^ 32 - 1 else x.toNat / y.toNat))
      ∧ exec (.remn d a b) s = wrote (BitVec.ofNat 32 (if y.toNat = 0 then x.toNat else x.toNat - x.toNat / y.toNat * y.toNat))
      ∧ exec (.movz d a b) s = (if y = 0 then wrote x else .next s.passed)
      ∧ exec (.movnz d a b) s = (if y = 0 then .next s.passed else wrote x))
  ∧ (∀ (s : State) (d a n : BitVec 5) (i : BitVec 14) (e : BitVec 19),
    let x := s.x a
    let wrote (v : Word) : Host.Outcome State Fault Refusal := .next (s.wS d v).passed
    (s.free (useS [d, a]) →
      exec (.addi d a i) s = wrote (x + i.signExtend 32) ∧ exec (.andi d a i) s = wrote (x &&& i.setWidth 32)
        ∧ exec (.ori d a i) s = wrote (x ||| i.setWidth 32) ∧ exec (.xori d a i) s = wrote (x ^^^ i.setWidth 32)
        ∧ exec (.shli d a n) s = wrote (x <<< n.toNat) ∧ exec (.shri d a n) s = wrote (x >>> n.toNat)
        ∧ exec (.srai d a n) s = wrote (x.sshiftRight n.toNat)
        ∧ exec (.slti d a i) s = wrote (if x.toInt < i.toInt then 1 else 0)
        ∧ exec (.sltni d a i) s = wrote (if x.toNat < (i.signExtend 32 : Word).toNat then 1 else 0)
        ∧ exec (.clz d a) s = wrote (BitVec.ofNat 32 (32 - (if x = 0 then 0 else Nat.log2 x.toNat + 1)))
        ∧ exec (.popc d a) s = wrote (BitVec.ofNat 32 ((List.range 32).countP fun k => x.getLsbD k)))
    ∧ (s.free (useS [d]) →
      exec (.lui d e) s = wrote (e.setWidth 32 <<< 13)
        ∧ exec (.prd d a) s = wrote ((s.me.live.preg a.toNat).setWidth 32))
    ∧ (s.free (useS [a]) → exec (.pwr d a) s = .next (s.wP d.toNat (x.setWidth 16)).passed))

/-- R61: a scalar write leaves every other scalar register alone; s0 reads 0 whatever is written, and p0 reads all-true. -/
def Obligations.HardwiredRegisters : Prop :=
  (∀ (r : Regs) (d n : Nat) (v : Word), n < 32 → (r.setS d v).sreg n = if n = 0 then 0 else if n = d then v else r.sreg n)
    ∧ (∀ (s : State) (d n : Nat) (v : BitVec 16), n < 8 →
        (s.wP d v).me.live.preg n = if n = 0 then 0xFFFF else if n = d then v else s.me.live.preg n)

/-- R104, R106: what the arithmetic words leave unchanged: every scalar register but sd, every flag and the rest of STATUS,
the vector, operand, predicate and bulb registers, lx, the registers of traps, every other slot, every cluster, and every byte
of memory. -/
def Obligations.ArithmeticFrame : Prop :=
  ∀ (i : Instr) (d : BitVec 5) (s t : State), i.arithDest = some d → s.bundle = none → s.me.live.gsize = 0 →
    s.me.region.bundles < 4096 → (linesOf s.me.region.stores).length ≤ 256 → s.me.region.effects.length ≤ 32 →
    s.me.live.pend = 0 → s.me.loads = [] → exec i s = .next t →
    (∀ n : Nat, n ≠ d.toNat → t.me.live.sreg n = s.me.live.sreg n)
      ∧ t.me.live.status = s.me.live.status ∧ t.me.live.v = s.me.live.v ∧ t.me.live.w = s.me.live.w ∧ t.me.live.lx = s.me.live.lx
      ∧ t.me.live.p = s.me.live.p ∧ t.me.live.q = s.me.live.q ∧ t.me.live.epc = s.me.live.epc ∧ t.me.live.cause = s.me.live.cause
      ∧ t.me.live.tval = s.me.live.tval ∧ t.me.live.tvec = s.me.live.tvec
      ∧ (∀ g, g ≠ s.cur → t.slot g = s.slot g) ∧ t.clusters = s.clusters ∧ t.cores = s.cores ∧ t.dies = s.dies
      ∧ ∀ a, loadByte t.mem a = loadByte s.mem a

/-- R110-R113: a branch goes to A + 4 × SEXT(displacement) when its condition holds and to the next bundle otherwise; LOOP
counts down; J, JAL, JR and JALR jump, and JAL and JALR write the link; A is the address of the bundle. -/
def Obligations.BranchesAndJumps : Prop :=
  ∀ (s : State) (d a : BitVec 5) (c : BitVec 2) (p : BitVec 3) (i : BitVec 14) (j : BitVec 24),
    let x := s.x d
    let y := s.x a
    let pc := s.me.pc
    let there := pc + BitVec.ofInt 32 (4 * i.toInt)
    let go (taken : Bool) : Host.Outcome State Fault Refusal := .next (s.ended 1 (if taken then there else pc + 4))
    (s.free (useS [d, a]) →
      exec (.beq d a i) s = go (x == y) ∧ exec (.bne d a i) s = go (x != y)
        ∧ exec (.blt d a i) s = go (x.toInt < y.toInt) ∧ exec (.bge d a i) s = go (y.toInt ≤ x.toInt)
        ∧ exec (.bltn d a i) s = go (x.toNat < y.toNat) ∧ exec (.bgen d a i) s = go (y.toNat ≤ x.toNat)
        ∧ exec (.jalr d a) s = .next ((s.wS d (pc + 4)).ended 1 y))
    ∧ (s.free (useS []) →
      (c ≠ 3 → exec (.bp c p i) s =
          go (let v := s.me.live.preg p.toNat; if c = 0 then v != 0 else if c = 1 then v == 0xFFFF else v == 0))
        ∧ exec (.j j) s = .next (s.ended 1 (pc + BitVec.ofInt 32 (4 * j.toInt))))
    ∧ (s.free (useS [d]) → exec (.loop d i) s = .next ((s.wS d (x - 1)).ended 1 (if x - 1 ≠ 0 then there else pc + 4)))
    ∧ (s.free (useS [31]) → exec (.jal j) s = .next ((s.wS 31 (pc + 4)).ended 1 (pc + BitVec.ofInt 32 (4 * j.toInt))))
    ∧ (s.free (useS [a]) → exec (.jr a) s = .next (s.ended 1 y))

/-! ## The vector words (spec/06_vector.md R168-R197) -/

/-- The main-file reads of sources beyond two cost a ck each (spec/02_encoding.md R60). -/
def sourceCk (l : List (BitVec 7)) : Nat := 1 + ((useSrc l).reads.eraseDups.length - 2)

/-- R57, R59, R85: the result of a B-word reaches the lanes that its mask includes, of the destination and of lx, with the flags
of those lanes; an excluded lane keeps what the destination held, p0 excludes none, and every other register keeps its value. -/
def Obligations.VectorWriteMerges : Prop :=
  ∀ (s : State) (d : BitVec 7) (g : BitVec 2) (f : Nat → LaneResult) (i : Nat), s.bundle = none → d.toNat ≤ 72 → i < 16 →
    let t := s.putLanes d g f
    let m := s.me.live.preg g.toNat
    let new := if lane m i then (f i).val else laneOf (s.me.live.operand d) i
    laneOf (t.me.live.operand d) i = new ∧ laneOf t.me.live.lx i = new ∧ (g = 0 → new = (f i).val)
      ∧ t.me.live.status = s.me.live.status ||| (maskFlags m fun j => (f j).flags).setWidth 32
      ∧ (∀ e : BitVec 7, e ≠ d → e.toNat ≠ 72 → t.me.live.operand e = s.me.live.operand e)
      ∧ t.me.live.s = s.me.live.s ∧ t.me.live.p = s.me.live.p ∧ t.me.live.q = s.me.live.q ∧ t.mem = s.mem

/-- R173, R174, R181, R192: the integer words, lane by lane: the wrapping ones modulo 2^32, the saturating ones and the narrowing
conversions clamped with SA, the packed ones by elements; MOVW copies and MOVWI writes its immediate to every lane. -/
def Obligations.VectorInteger : Prop :=
  (∀ (s : State) (d a b : BitVec 7) (g : BitVec 2), s.free (useB d [a, b]) →
    let x (i : Nat) := laneOf (s.me.live.operand a) i
    let y (i : Nat) := laneOf (s.me.live.operand b) i
    let put (ck : Nat) (f : Nat → LaneResult) : Host.Outcome State Fault Refusal := .next ((s.putLanes d g f).ended ck (s.me.pc + 4))
    let two (f : Word → Word → LaneResult) := put (sourceCk [a, b]) fun i => f (x i) (y i)
    exec (.vaddI32 d a b g) s = two (fun x y => plain (x + y))
      ∧ exec (.vsubI32 d a b g) s = two (fun x y => plain (x - y))
      ∧ exec (.vmulI32 d a b g) s = two (fun x y => plain (x * y))
      ∧ exec (.vmulhI32 d a b g) s = two (fun x y => plain (ofI (x.toInt * y.toInt / 2 ^ 32)))
      ∧ exec (.vmulhN32 d a b g) s = two (fun x y => plain (BitVec.ofNat 32 (x.toNat * y.toNat / 2 ^ 32)))
      ∧ exec (.vaddsI32 d a b g) s = two (fun x y => satLane (-(2 ^ 31)) (2 ^ 31 - 1) (x.toInt + y.toInt))
      ∧ exec (.vaddsN32 d a b g) s = two (fun x y => satLane 0 (2 ^ 32 - 1) ((x.toNat : Int) + y.toNat))
      ∧ exec (.vsubsI32 d a b g) s = two (fun x y => satLane (-(2 ^ 31)) (2 ^ 31 - 1) (x.toInt - y.toInt))
      ∧ exec (.vsubsN32 d a b g) s = two (fun x y => satLane 0 (2 ^ 32 - 1) ((x.toNat : Int) - y.toNat))
      ∧ exec (.vaddsI16 d a b g) s = two (fun x y => packed 16 fun k => satElem 16 (-(2 ^ 15)) (2 ^ 15 - 1) (elemInt x
        16 k + elemInt y 16 k))
      ∧ exec (.vaddsI8 d a b g) s = two (fun x y => packed 8 fun k => satElem 8 (-(2 ^ 7)) (2 ^ 7 - 1) (elemInt x 8 k +
        elemInt y 8 k))
      ∧ exec (.vaddsN8 d a b g) s = two (fun x y => packed 8 fun k => satElem 8 0 255 ((elemNat x 8 k : Int) + elemNat y 8 k))
      ∧ exec (.vminI32 d a b g) s = two (fun x y => plain (if x.toInt ≤ y.toInt then x else y))
      ∧ exec (.vminN32 d a b g) s = two (fun x y => plain (if x.toNat ≤ y.toNat then x else y))
      ∧ exec (.vmaxI32 d a b g) s = two (fun x y => plain (if y.toInt ≤ x.toInt then x else y))
      ∧ exec (.vmaxN32 d a b g) s = two (fun x y => plain (if y.toNat ≤ x.toNat then x else y))
      ∧ exec (.vand d a b g) s = two (fun x y => plain (x &&& y))
      ∧ exec (.vor d a b g) s = two (fun x y => plain (x ||| y))
      ∧ exec (.vxor d a b g) s = two (fun x y => plain (x ^^^ y))
      ∧ exec (.vandn d a b g) s = two (fun x y => plain (x &&& ~~~y))
      ∧ exec (.vshl d a b g) s = two (fun x y => plain (x <<< (y.toNat % 32)))
      ∧ exec (.vshrN32 d a b g) s = two (fun x y => plain (x >>> (y.toNat % 32)))
      ∧ exec (.vshrI32 d a b g) s = two (fun x y => plain (sra32 x (y.toNat % 32))))
  ∧ (∀ (s : State) (d a i : BitVec 7) (n : BitVec 5) (g : BitVec 2),
    let x (i : Nat) := laneOf (s.me.live.operand a) i
    let put (ck : Nat) (f : Nat → LaneResult) : Host.Outcome State Fault Refusal := .next ((s.putLanes d g f).ended ck (s.me.pc + 4))
    let one (f : Word → LaneResult) := put 1 fun i => f (x i)
    (s.free (useB d [a]) →
      exec (.vshli d a n g) s = one (fun x => plain (x <<< n.toNat))
      ∧ exec (.vshriN32 d a n g) s = one (fun x => plain (x >>> n.toNat))
      ∧ exec (.vshriI32 d a n g) s = one (fun x => plain (sra32 x n.toNat))
      ∧ exec (.vaddiI32 d a i g) s = one (fun x => plain (x + i.signExtend 32))
      ∧ exec (.vabsI32 d a g) s = one (fun x => satLane 0 (2 ^ 31 - 1) |x.toInt|)
      ∧ exec (.vcvtI32I16 d a g) s = one (fun x => satLane (-(2 ^ 15)) (2 ^ 15 - 1) x.toInt)
      ∧ exec (.vcvtI32N16 d a g) s = one (fun x => satLane 0 (2 ^ 16 - 1) x.toInt)
      ∧ exec (.vcvtI32I8 d a g) s = one (fun x => satLane (-(2 ^ 7)) (2 ^ 7 - 1) x.toInt)
      ∧ exec (.vcvtI32N8 d a g) s = one (fun x => satLane 0 (2 ^ 8 - 1) x.toInt)
      ∧ exec (.vcvtN32I32 d a g) s = one (fun x => satLane (-(2 ^ 31)) (2 ^ 31 - 1) x.toNat)
      ∧ exec (.vcvtI32N32 d a g) s = one (fun x => satLane 0 (2 ^ 32 - 1) x.toInt)
      ∧ exec (.vcvtI32F32 d a g) s = one (fun x => flagged (rneF32 (intVal x.toInt)))
      ∧ exec (.vcvtN32F32 d a g) s = one (fun x => flagged (rneF32 (intVal x.toNat)))
      ∧ exec (.movw d a g) s = one plain)
    ∧ (s.free (useB d []) → exec (.movwi d i g) s = put 1 fun _ => plain (i.signExtend 32)))

/-- R177-R179, R185: the floating-point words of two vectors and the fused ones, which read d as a third operand: one rounding to
nearest even, with its flags; a subnormal operand or result costs 40 ck for each vector that has one (R171). Where the spec leaves a
choice, it is the model's (log entry 4). -/
def Obligations.VectorFloat : Prop :=
  ∀ (s : State) (d a b : BitVec 7) (g : BitVec 2),
    let x (i : Nat) := laneOf (s.me.live.operand a) i
    let y (i : Nat) := laneOf (s.me.live.operand b) i
    let z (i : Nat) := laneOf (s.me.live.operand d) i
    let put (ck : Nat) (f : Nat → LaneResult) : Host.Outcome State Fault Refusal := .next ((s.putLanes d g f).ended ck (s.me.pc + 4))
    let slow (srcs : List (BitVec 7)) (f : Nat → LaneResult) :=
      put (sourceCk srcs + 40 * s.replays (s.me.live.preg g.toNat) srcs fun i => (f i).tiny) f
    let two (f : Word → Word → LaneResult) := put (sourceCk [a, b]) fun i => f (x i) (y i)
    let three (f : Word → Word → Word → LaneResult) := put (sourceCk [a, b, d]) fun i => f (x i) (y i) (z i)
    (s.free (useB d [a, b]) →
      exec (.vminF32 d a b g) s = two (fun x y => plain (minF32 x y))
      ∧ exec (.vmaxF32 d a b g) s = two (fun x y => plain (maxF32 x y))
      ∧ exec (.vaddBf16 d a b g) s = two (fun x y => packedF fmtBF16 (fun p q _ => fmtBF16.add p q) x y 0)
      ∧ exec (.vmulBf16 d a b g) s = two (fun x y => packedF fmtBF16 (fun p q _ => fmtBF16.mul p q) x y 0)
      ∧ exec (.vaddF16 d a b g) s = two (fun x y => packedF fmtF16 (fun p q _ => fmtF16.add p q) x y 0)
      ∧ exec (.vmulF16 d a b g) s = two (fun x y => packedF fmtF16 (fun p q _ => fmtF16.mul p q) x y 0)
      ∧ exec (.vaddF32 d a b g) s = slow [a, b] (fun i => addF32 (x i) (y i))
      ∧ exec (.vsubF32 d a b g) s = slow [a, b] (fun i => subF32 (x i) (y i))
      ∧ exec (.vmulF32 d a b g) s = slow [a, b] (fun i => mulF32 (x i) (y i))
      ∧ exec (.vrcps d a b g) s = slow [a, b] (fun i => refineStep (intVal 2) 0 (x i) (y i))
      ∧ exec (.vrsqs d a b g) s = slow [a, b] (fun i => refineStep (.fin false 3 (-1)) 1 (x i) (y i)))
    ∧ (s.free (useB d [a, b, d]) →
      exec (.vfmaBf16 d a b g) s = three (fun x y z => packedF fmtBF16 (fun p q r => fmtBF16.fma p q r) x y z)
      ∧ exec (.vfmaF16 d a b g) s = three (fun x y z => packedF fmtF16 (fun p q r => fmtF16.fma p q r) x y z)
      ∧ exec (.vfmaF32 d a b g) s = slow [a, b, d] (fun i => fmaF32 (x i) (y i) (z i))
      ∧ exec (.vfmsF32 d a b g) s = slow [a, b, d] (fun i => fmsF32 (x i) (y i) (z i)))

/-- R178, R181, R183-R188: the words of one floating-point vector: VABS, the conversions with their rounding, clamping and flags,
the exact widenings of element k, and the estimates, which set no flag. -/
def Obligations.VectorConversions : Prop :=
  ∀ (s : State) (d a : BitVec 7) (k : BitVec 1) (j g : BitVec 2), s.free (useB d [a]) →
    let x (i : Nat) := laneOf (s.me.live.operand a) i
    let put (ck : Nat) (f : Nat → LaneResult) : Host.Outcome State Fault Refusal := .next ((s.putLanes d g f).ended ck (s.me.pc + 4))
    let one (f : Word → LaneResult) := put 1 fun i => f (x i)
    exec (.vabsF32 d a g) s = one (fun x => plain (absF32 x))
      ∧ exec (.vcvtF32I32 d a g) s = one (fun x => flagged (let r := f32ToInt (-(2 ^ 31)) (2 ^ 31 - 1) (f32 x); (ofI
        r.1, r.2)))
      ∧ exec (.vcvtF32N32 d a g) s = one (fun x => flagged (let r := f32ToInt 0 (2 ^ 32 - 1) (f32 x); (ofI r.1, r.2)))
      ∧ exec (.vcvtF32I16 d a g) s = one (fun x => flagged (let r := f32ToInt (-(2 ^ 15)) (2 ^ 15 - 1) (f32 x); (ofI
        r.1, r.2)))
      ∧ exec (.vcvtF32N16 d a g) s = one (fun x => flagged (let r := f32ToInt 0 (2 ^ 16 - 1) (f32 x); (ofI r.1, r.2)))
      ∧ exec (.vcvtF32I8 d a g) s = one (fun x => flagged (let r := f32ToInt (-(2 ^ 7)) (2 ^ 7 - 1) (f32 x); (ofI r.1, r.2)))
      ∧ exec (.vcvtF32N8 d a g) s = one (fun x => flagged (let r := f32ToInt 0 (2 ^ 8 - 1) (f32 x); (ofI r.1, r.2)))
      ∧ exec (.vcvtF32Bf16 d a g) s = one (fun x => flagged (let r := fmtBF16.narrow x; (BitVec.ofNat 32 r.1, r.2)))
      ∧ exec (.vcvtF32F16 d a g) s = one (fun x => flagged (let r := fmtF16.narrow x; (BitVec.ofNat 32 r.1, r.2)))
      ∧ exec (.vcvtF32E4m3 d a g) s = one (fun x => flagged (let r := fmtE4M3.narrow x; (BitVec.ofNat 32 r.1, r.2)))
      ∧ exec (.vcvtF32E5m2 d a g) s = one (fun x => flagged (let r := fmtE5M2.narrow x; (BitVec.ofNat 32 r.1, r.2)))
      ∧ exec (.vrcpE d a g) s = one (fun x => plain (rcpE x))
      ∧ exec (.vrsqE d a g) s = one (fun x => plain (rsqE x))
      ∧ exec (.vexp2E d a g) s = one (fun x => plain (exp2E x))
      ∧ exec (.vlog2E d a g) s = one (fun x => plain (log2E x))
      ∧ exec (.vtanhE d a g) s = one (fun x => plain (tanhE x))
      ∧ exec (.vcvtBf16F32 d a k g) s = one (fun x => plain (fmtBF16.widen (elemNat x 16 k.toNat)))
      ∧ exec (.vcvtF16F32 d a k g) s = one (fun x => plain (fmtF16.widen (elemNat x 16 k.toNat)))
      ∧ exec (.vcvtE4m3F32 d a j g) s = one (fun x => plain (fmtE4M3.widen (elemNat x 8 j.toNat)))
      ∧ exec (.vcvtE5m2F32 d a j g) s = one (fun x => plain (fmtE5M2.widen (elemNat x 8 j.toNat)))

/-- R175, R176, R180, R191: the compares write a predicate, with 0 in every excluded lane; the predicate words; VSEL selects by its
mask and writes every lane; VPCNT counts the set bits below each lane. -/
def Obligations.VectorPredicates : Prop :=
  ∀ (s : State) (d a b : BitVec 7) (g : BitVec 2),
    let x (i : Nat) := laneOf (s.me.live.operand a) i
    let y (i : Nat) := laneOf (s.me.live.operand b) i
    let m := s.me.live.preg g.toNat
    let cmp (c : Word → Word → Bool) : Host.Outcome State Fault Refusal :=
      .next ((s.wP d.toNat (maskOf fun i => lane m i && c (x i) (y i))).ended 1 (s.me.pc + 4))
    let pred (f : BitVec 16 → BitVec 16 → BitVec 16) : Host.Outcome State Fault Refusal :=
      .next (s.wP d.toNat (f (s.me.live.preg a.toNat) (s.me.live.preg b.toNat))).passed
    (s.free (useSrc [a, b]) →
      exec (.vcmpeqI32 d a b g) s = cmp (fun x y => x == y)
      ∧ exec (.vcmpltI32 d a b g) s = cmp (fun x y => x.toInt < y.toInt)
      ∧ exec (.vcmpltN32 d a b g) s = cmp (fun x y => x.toNat < y.toNat)
      ∧ exec (.vcmpeqF32 d a b g) s = cmp (fun x y => (f32 x).eqv (f32 y))
      ∧ exec (.vcmpltF32 d a b g) s = cmp (fun x y => (f32 x).lt (f32 y))
      ∧ exec (.vcmpleF32 d a b g) s = cmp (fun x y => (f32 x).lt (f32 y) || (f32 x).eqv (f32 y))
      ∧ exec (.vcmpunF32 d a b g) s = cmp (fun x y => (f32 x).isNaN || (f32 y).isNaN))
    ∧ (s.free {} →
      exec (.pand d a b) s = pred (fun p q => p &&& q)
      ∧ exec (.por d a b) s = pred (fun p q => p ||| q)
      ∧ exec (.pxor d a b) s = pred (fun p q => p ^^^ q)
      ∧ exec (.pnot d a) s = .next (s.wP d.toNat (~~~(s.me.live.preg a.toNat))).passed)
    ∧ (s.free (useB d [a, b]) →
      exec (.vsel d a b g) s = .next ((s.putLanes d 0 fun i => plain (if lane m i then x i else y i)).ended 1 (s.me.pc + 4)))
    ∧ (s.free (useB d []) →
      exec (.vpcnt d a g) s = .next ((s.putLanes d g fun i =>
        plain (BitVec.ofNat 32 ((List.range i).countP fun j => lane (s.me.live.preg a.toNat) j && j < 16))).ended 1 (s.me.pc + 4)))

/-- R189, R190: a reduction over the included lanes by the tree of R101, an excluded lane standing for the identity, with its result in
every lane; the words that move lanes. -/
def Obligations.VectorReductionsAndPermutes : Prop :=
  ∀ (s : State) (d a b : BitVec 7) (k : BitVec 4) (n : BitVec 5) (g : BitVec 2),
    let x := s.me.live.operand a
    let y := s.me.live.operand b
    let m := s.me.live.preg g.toNat
    let put (ck : Nat) (f : Nat → LaneResult) : Host.Outcome State Fault Refusal := .next ((s.putLanes d g f).ended ck (s.me.pc + 4))
    let pick1 (f : Vec → Nat → Word) := put 1 fun i => plain (f x i)
    let pick2 (f : Vec → Vec → Nat → Word) := put 1 fun i => plain (f x y i)
    let tree (f : Word → Word → LaneResult) (identity : Word) (replays : Bool) : Host.Outcome State Fault Refusal :=
      let r := reduceTree f ((List.range 16).map fun i => if lane m i then laneOf x i else identity)
      let slow := (if (lanesOf m).any fun i => subnormal (laneOf x i) then 1 else 0) + if r.tiny then 1 else 0
      .next (((s.orLive r.flags).wV d 0 (vecOf fun _ => r.val)).ended (1 + if replays then 40 * slow else 0) (s.me.pc + 4))
    (s.free (useB d [a]) →
      exec (.vrsumF32 d a g) s = tree addF32 0x80000000 true
      ∧ exec (.vrmaxF32 d a g) s = tree (fun x y => plain (maxF32 x y)) 0xFF800000 false
      ∧ exec (.vrminF32 d a g) s = tree (fun x y => plain (minF32 x y)) 0x7F800000 false
      ∧ exec (.vrsumI32 d a g) s = tree (fun x y => plain (x + y)) 0 false
      ∧ exec (.vrmaxI32 d a g) s = tree (fun x y => plain (if y.toInt ≤ x.toInt then x else y)) 0x80000000 false
      ∧ exec (.vbcast d a k g) s = pick1 (fun x _ => laneOf x k.toNat)
      ∧ exec (.vslideup d a n g) s = pick1 (fun x i => if n.toNat ≤ i then laneOf x (i - n.toNat) else 0)
      ∧ exec (.vslidedn d a n g) s = pick1 (fun x i => laneOf x (i + n.toNat)))
    ∧ (s.free (useB d [a, b]) →
      exec (.vperm d a b g) s = pick2 (fun x y i => if bit (laneOf y i) 31 then 0 else laneOf x ((laneOf y i).toNat % 16))
      ∧ exec (.vzipl d a b g) s = pick2 (fun x y i => if i % 2 = 0 then laneOf x (i / 2) else laneOf y (i / 2))
      ∧ exec (.vziph d a b g) s = pick2 (fun x y i => if i % 2 = 0 then laneOf x (8 + i / 2) else laneOf y (8 + i / 2)))

/-- R182, R194, R195: VQB4 quantises 32 values into a block of 4-bit codes and its scale byte; VRNG draws by (KEY, CTR) and advances
CTR by 1; RNGSET writes KEY and CTR, and advances CTR within its range. -/
def Obligations.QuantiseAndRandom : Prop :=
  ∀ (s : State) (d a b : BitVec 7) (t g : BitVec 2),
    let xs (o : BitVec 7) := (List.range 16).map fun i => f32 (laneOf (s.me.live.operand o) i)
    let q := quantise t.toNat (xs a ++ xs b)
    let ctr := s.me.live.rngctr
    let sa := s.me.live.sreg (a.toNat - 96)
    let sb := s.me.live.sreg (b.toNat - 96)
    let set (f : Regs → Regs) : Host.Outcome State Fault Refusal := .next (s.modLive f).passed
    (s.free (useB d [a, b]) →
      exec (.vqb4 d a b t) s = .next (((s.orLive q.2.2).wV d 0 (quantVec t.toNat q.1 q.2.1)).ended 1 (s.me.pc + 4)))
    ∧ (s.free (useB d []) → ctr ≠ 0xFFFFFFFF →
      exec (.vrng d g) s = .next (((s.putLanes d g fun i => plain (rngLane s.me.live.rngkey ctr i)).modLive fun r =>
        { r with rngctr := ctr + 1 }).ended 1 (s.me.pc + 4)))
    ∧ (s.free (useSrc [a, b]) → 96 ≤ a.toNat → 96 ≤ b.toNat →
      exec (.rngsetKey a b) s = set fun r => { r with rngkey := sa, rngctr := sb })
    ∧ (s.free (useSrc [b]) → 96 ≤ b.toNat →
      exec (.rngsetCtr b) s = set (fun r => { r with rngctr := sb })
        ∧ (ctr.toNat + sb.toNat ≤ 0xFFFFFFFE → exec (.rngsetAdv b) s = set fun r => { r with rngctr := ctr + sb }))

/-! ## Control and status registers (spec/04_control.md R107-R109, R127) -/

/-- R62, R107, R127: CSRR reads, CSRW, CSRS and CSRC write the bits that the register's mask opens, all from the value before the
bundle; CSRS and CSRC with a zero source write nothing; an unassigned number raises 0x00C, a number whose privilege is missing 0x00D,
and a change of BARM while the slot has arrived at a barrier 0x026 with the lowest such barrier; the mask of every register opens its RW
fields (R5), every number reads its register, and what is written reads back. -/
def Obligations.CsrWords : Prop :=
  (∀ (s : State) (d a : BitVec 5) (n : BitVec 12), csrAssigned n.toNat = true → csrDenied n.toNat s.me.live.rt = false →
    let k := n.toNat
    let x := s.x a
    let old := s.csrRead k
    let mask := csrMask (isMem s.myCluster) k
    let took : Host.Outcome State Fault Refusal := .next ((s.csrTouch k).wS d old).passed
    let put (v : Word) : Host.Outcome State Fault Refusal := .next (((s.csrTouch k).csrPut k v).wS d old).passed
    let may (v : Word) : Prop := k = 0x030 → (old ^^^ v) &&& 0xF001FFFF = 0 ∨ s.me.arrived = []
    (s.free (useS [d]) → exec (.csrr d n) s = took)
    ∧ (s.free (useS [d, a]) →
      (may (merge old x mask) → exec (.csrw d a n) s = put (merge old x mask))
        ∧ (x = 0 → exec (.csrs d a n) s = took ∧ exec (.csrc d a n) s = took)
        ∧ (x ≠ 0 → may (old ||| (x &&& mask)) → exec (.csrs d a n) s = put (old ||| (x &&& mask)))
        ∧ (x ≠ 0 → may (old &&& ~~~(x &&& mask)) → exec (.csrc d a n) s = put (old &&& ~~~(x &&& mask)))))
  ∧ (∀ (s : State) (d a : BitVec 5) (n : BitVec 12), s.free (useS [d]) → s.free (useS [d, a]) →
    let k := n.toNat
    let traps (code : Nat) (v : Word) (i : Instr) : Prop := exec i s = .next (s.faulted code v)
    (csrAssigned k = false → ∀ i ∈ [.csrr d n, .csrw d a n, .csrs d a n, .csrc d a n], traps 0x00C (BitVec.ofNat 32 k) i)
    ∧ (csrAssigned k = true → csrDenied k s.me.live.rt = true →
      ∀ i ∈ [.csrr d n, .csrw d a n, .csrs d a n, .csrc d a n], traps 0x00D (BitVec.ofNat 32 k) i)
    ∧ (k = 0x030 → s.me.arrived ≠ [] →
      let old := s.csrRead k
      let changes (v : Word) : Prop := (old ^^^ v) &&& 0xF001FFFF ≠ 0
      let stops (i : Instr) : Prop := traps 0x026 (BitVec.ofNat 32 (lowest s.me.arrived)) i
      (changes (merge old (s.x a) 0xFBFFFFFF) → stops (.csrw d a n))
        ∧ (changes (old ||| (s.x a &&& 0xFBFFFFFF)) → stops (.csrs d a n))
        ∧ (changes (old &&& ~~~(s.x a &&& 0xFBFFFFFF)) → stops (.csrc d a n))))
  ∧ (∀ mem : Bool, let m := csrMask mem
    m 0x000 = 0x0001021F ∧ m 0x001 = 0xE00003FF ∧ m 0x002 = 0xFFFFFFFC ∧ m 0x003 = 0xFFFFFFFF ∧ m 0x004 = 0xFFFFFFC0
      ∧ m 0x010 = (if mem then 1 else 0) ∧ m 0x011 = (if mem then 0 else 0x87FFFFFF) ∧ m 0x020 = 0xFFFF ∧ m 0x021 = 0xFFFFFFFF
      ∧ m 0x022 = 0xFFFFFFFF ∧ m 0x030 = 0xFBFFFFFF ∧ m 0x040 = 0x4003 ∧ m 0x810 = 0x2
      ∧ (∀ k ∈ [0x400, 0x401, 0x402, 0x410, 0x411, 0x420, 0x421, 0x422, 0x423], m k = 0)
      ∧ ∀ k < 4, m (0x800 + 2 * k) = 0xFFFFFFFF ∧ m (0x801 + 2 * k) = 0x800000FF)
  ∧ (∀ s : State, s.bundle = none →
    let x := s.me
    let r := x.live
    s.csrRead 0x000 = r.status ∧ s.csrRead 0x001 = r.cause ∧ s.csrRead 0x002 = r.epc ∧ s.csrRead 0x003 = r.tval
      ∧ s.csrRead 0x004 = r.tvec ∧ s.csrRead 0x010 = r.hwin ∧ s.csrRead 0x011 = r.bscale ∧ s.csrRead 0x020 = r.qtagc
      ∧ s.csrRead 0x021 = r.rngkey ∧ s.csrRead 0x022 = r.rngctr ∧ s.csrRead 0x030 = r.barm
      ∧ s.csrRead 0x040 = BitVec.ofNat 32 ((if x.region.atomic then 2 ^ 31 else 0) + (if s.soloActive s.cur then 2 ^ 30 else 0)
          + x.stat.conf % 16 * 2 ^ 26 + x.stat.last % 8 * 2 ^ 23 + x.stat.acode.toNat * 2 ^ 15 + (if x.stat.ea then 2 ^ 14 else 0)
          + (if x.stat.fc then 2 else 0) + (if x.stat.ic then 1 else 0))
      ∧ s.csrRead 0x400 = BitVec.ofNat 32 s.cur ∧ s.csrRead 0x401 = r.pend ∧ s.csrRead 0x402 = x.xpc
      ∧ (∀ l, x.slice = some l →
          s.csrRead 0x410 = (if l.budget = 0 then 0xFFFFFFFF else BitVec.ofNat 32 (l.leftAt s.cycles))
            ∧ s.csrRead 0x411 = (if l.deadline = 0 then 0x7FFFFFFF
                else BitVec.ofInt 32 (max (-(2 ^ 31)) (min (2 ^ 31 - 1) ((l.deadline : Int) - s.podUs)))))
      ∧ s.csrRead 0x420 = BitVec.ofNat 32 s.cycles ∧ s.csrRead 0x421 = x.cycleH ∧ s.csrRead 0x422 = BitVec.ofNat 32 s.podNs
      ∧ s.csrRead 0x423 = x.ptimeH ∧ s.csrRead 0x810 = withBit x.plbcfg 0 x.parked.isSome
      ∧ (∀ k, (h : k < 8) → s.csrRead (0x800 + k) = (s.core (s.cur / 4)).psz[k])
      ∧ s.csrTouch 0x420 = s.modMe (fun y => { y with cycleH := BitVec.ofNat 32 (s.cycles / 2 ^ 32) })
      ∧ s.csrTouch 0x422 = s.modMe (fun y => { y with ptimeH := BitVec.ofNat 32 (s.podNs / 2 ^ 32) })
      ∧ ∀ k, k ≠ 0x420 → k ≠ 0x422 → s.csrTouch k = s)
  ∧ (∀ (s : State) (k j : Nat) (v : Word), s.bundle = none →
    k ∈ [0x000, 0x001, 0x002, 0x003, 0x004, 0x010, 0x011, 0x021, 0x022, 0x030] →
    (s.csrPut k v).csrRead k = v
      ∧ (j ∈ [0x000, 0x001, 0x002, 0x003, 0x004, 0x010, 0x011, 0x020, 0x021, 0x022, 0x030, 0x040, 0x400, 0x401, 0x402, 0x810] →
          j ≠ k → (s.csrPut k v).csrRead j = s.csrRead j))
  ∧ (∀ (s : State) (v : Word) (k : Nat), s.bundle = none →
    (s.csrPut 0x020 v).csrRead 0x020 = (if v = 0 then 1 else v)
      ∧ (s.csrPut 0x040 v).me.stat = { s.me.stat with ea := bit v 14, fc := bit v 1, ic := bit v 0 }
      ∧ (s.csrPut 0x810 v).csrRead 0x810 = withBit v 0 s.me.parked.isSome
      ∧ (k < 8 → (s.csrPut (0x800 + k) v).csrRead (0x800 + k) = v))

/-! ## Local memory (spec/01_engines.md R33; spec/04_control.md R114-R120) -/

/-- R33, R92-R97: what a local address reaches: TCM, the scratchpad or SRAM slice, the trap scratch and its page, the HBM window of a
memory core, and, by elements, the format windows over the scratchpad or SRAM slice, with the block window of a compute core as BSCALE
places it; the gaps reach nothing. A read through a window widens its element to FP32, and a store narrows its value with the flags of
the narrowing; the block window and the page take no store. -/
def Obligations.LocalAddressMap : Prop :=
  (∀ (s : State) (a : Word),
    let n := a.toNat
    let gc := s.myCluster
    let ram := ramSize gc
    let code := (n - 0x40000000) / 4 / 2
    let anchor := bits s.src.bscale 15 12 * 512
    let scale := bits s.src.bscale 0 15 * 64 + (code - anchor) / 16
    (n < 0x40000 → s.locate a = some (.mem (flatTcm gc (coreOf s.cur) n)))
    ∧ (0x40000 ≤ n → n < 0x10000000 → s.locate a = none)
    ∧ (0x10000000 ≤ n → n < 0x10000000 + ramSize gc → s.locate a = some (.mem (flatRam gc (n - 0x10000000))))
    ∧ (0x10000000 + ramSize gc ≤ n → n < 0x20000000 → s.locate a = none)
    ∧ (0x20000000 ≤ n → n < 0x20000000 + 2 * ram → s.locate a = some (.narrow fmtBF16 (flatRam gc (2 * ((n - 0x20000000) / 4)))))
    ∧ (0x20000000 + 2 * ram ≤ n → n < 0x30000000 → s.locate a = none)
    ∧ (0x30000000 ≤ n → n < 0x30000000 + 4 * ram → s.locate a = some (.narrow fmtE4M3 (flatRam gc ((n - 0x30000000) / 4))))
    ∧ (0x30000000 + 4 * ram ≤ n → n < 0x38000000 → s.locate a = none)
    ∧ (0x38000000 ≤ n → n < 0x38000000 + 4 * ram → s.locate a = some (.narrow fmtE5M2 (flatRam gc ((n - 0x38000000) / 4))))
    ∧ (0x38000000 + 4 * ram ≤ n → n < 0x40000000 → s.locate a = none)
    ∧ (0x40000000 ≤ n → n < 0x41000000 → isMem gc = false →
        (bit s.src.bscale 31 = true → anchor ≤ code → scale ≤ 0x1FFFFF →
          s.locate a = some (.block (flatRam gc code) (flatRam gc scale) ((n - 0x40000000) / 4 % 2 == 1)))
        ∧ (bit s.src.bscale 31 = false ∨ code < anchor ∨ 0x1FFFFF < scale → s.locate a = none))
    ∧ (0x40000000 ≤ n → n < 0x70000000 → isMem gc = true ∨ 0x41000000 ≤ n → s.locate a = none)
    ∧ (0x70000000 ≤ n → n < 0x70000400 → s.locate a = some (.scratch (n - 0x70000000)))
    ∧ (0x70000400 ≤ n → n < 0x70001000 → s.locate a = some (.page (n - 0x70000000)))
    ∧ (0x70001000 ≤ n → n < 0x80000000 → s.locate a = none)
    ∧ (0x80000000 ≤ n → s.locate a =
        if isMem gc then some (.mem (flatHbm gc (n - 0x80000000 + if bit s.src.hwin 0 then 0x40000000 else 0))) else none))
  ∧ ∀ (s : State) (a b : Nat) (v : Word) (high : Bool),
    let window (f : Fmt) (n : Nat) : Prop :=
      s.readPlace 4 (.narrow f a) = f.widen (s.peekNat a n)
        ∧ storeAt 4 v (.narrow f a) = (placed a (leBytes n (f.narrow v).1), (f.narrow v).2)
        ∧ (Place.narrow f a).bytes 4 = (List.range n).map fun i => a + i
    window fmtBF16 2 ∧ window fmtE4M3 1 ∧ window fmtE5M2 1
      ∧ s.readPlace 4 (.block a b high) =
          decodeB4 (s.peek b).toNat (if high then (s.peek a).toNat / 16 % 16 else (s.peek a).toNat % 16)
      ∧ (Place.block a b high).bytes 4 = [a, b] ∧ (Place.block a b high).readOnly = true ∧ (Place.page a).readOnly = true
      ∧ storeAt 4 v (.block a b high) = ([], 0) ∧ storeAt 4 v (.page a) = ([], 0)

/-- R2, R114, R143: a scalar load reads n bytes at sa + n * SEXT(off14), little-endian and extended by its type, once its checks
pass; the value reaches its register at once, or by LOAD_DATA_ARRIVAL when the module delivers loads late (the model's choice,
log entry 3); the load changes no memory and no other scalar register; MOVWS reads a lane. That a load which the region's own
stores serve enters its line into the read signature too is the model's choice (log entry 73). -/
def Obligations.ScalarLoads : Prop :=
  (∀ (s : State) (d a : BitVec 5) (o : BitVec 14) (v : BitVec 6) (l : BitVec 4),
    let load (n : Nat) (f : Word → Word) (i : Instr) : Prop :=
      let x := s.x a + BitVec.ofInt 32 (o.toInt * n)
      ∀ p, s.free (useS [d, a]) → s.locate x = some p →
        s.checkLocal x n (n == 4) false (x.toNat % n == 0) 0x010 = none → s.readable (p.bytes n) →
        exec i s = .next ((s.touchPlace n p).deliver (loadS d (f (s.readPlace n p)))).passed
    load 1 (fun w => (w.setWidth 8).signExtend 32) (.ldI8 d a o) ∧ load 1 id (.ldN8 d a o)
      ∧ load 2 (fun w => (w.setWidth 16).signExtend 32) (.ldI16 d a o) ∧ load 2 id (.ldN16 d a o)
      ∧ load 4 id (.ldI32 d a o)
      ∧ (s.free { s := [d.toNat], v := [v.toNat], reads := [v.toNat] } →
          exec (.movws v d l) s = .next (s.wS d (laneOf (s.me.live.vreg v.toNat) l.toNat)).passed))
  ∧ (∀ (s : State) (d : BitVec 5) (v : Word) (a : Nat),
    s.readPlace 4 (.mem a) = (s.peek (a + 3) ++ s.peek (a + 2) ++ s.peek (a + 1) ++ s.peek a : BitVec 32)
    ∧ s.readPlace 2 (.mem a) = (s.peek (a + 1) ++ s.peek a : BitVec 16).setWidth 32
    ∧ s.readPlace 1 (.mem a) = (s.peek a).setWidth 32
    ∧ (s.lateLoads = false → ∀ n < 32,
        (s.deliver (loadS d v)).me.live.sreg n = if n = d.toNat ∧ n ≠ 0 then v else s.me.live.sreg n)
    ∧ (s.lateLoads = true → s.me.loads = [] → s.deliver (loadS d v) = s.modMe (fun x =>
          { x with loads := [{ loadS d v with region := x.region.no }] })
        ∧ ∃ t, exec (.loadDataArrival s.cur 0) (s.deliver (loadS d v)) = .next t ∧ t.me.loads = []
          ∧ ∀ n < 32, t.me.live.sreg n = if n = d.toNat ∧ n ≠ 0 then v else s.me.live.sreg n))
  ∧ ∀ (s : State) (n : Nat) (p : Place) (d : BitVec 5) (v : Word), ((s.touchPlace n p).deliver (loadS d v)).passed.mem = s.mem

/-- R114, R115, R148, R154, R401: a scalar store buffers the low n bytes of sd in the region at sa + n * SEXT(off14), once its checks
pass and while the region stays within its 256 lines; the region then reads them as the value stored, and every other byte, the
committed memory, every register and every other slot keep their value. A store to a byte whose host page is absent asks for the page
and runs again (the model's reading of R401, log entry 72). -/
def Obligations.ScalarStores : Prop :=
  (∀ (s : State) (d a : BitVec 5) (o : BitVec 14),
    let store (n : Nat) (i : Instr) : Prop :=
      let x := s.x a + BitVec.ofInt 32 (o.toInt * n)
      s.free (useS [d, a]) → s.checkLocal x n (n == 4) true (x.toNat % n == 0) 0x010 = none → s.storableAt x n (s.x d) →
      (s.writeAt x n (s.x d)).linesFit → exec i s = .next (s.writeAt x n (s.x d)).passed
    store 1 (.stI8 d a o) ∧ store 2 (.stI16 d a o) ∧ store 4 (.stI32 d a o))
  ∧ (∀ (s : State) (d a : BitVec 5) (o : BitVec 14) (p : Place) (b pasid page : Nat),
    let x := s.x a + BitVec.ofInt 32 (o.toInt * 4)
    s.free (useS [d, a]) → s.me.abort = false → s.locate x = some p → s.checkLocal x 4 true true (x.toNat % 4 == 0) 0x010 = none →
    ((storeAt 4 (s.x d) p).1.map Prod.fst).find? (fun c => (s.absentPage c).isSome) = some b → s.absentPage b = some (pasid, page) →
    ∃ t, exec (.stI32 d a o) s = .next t ∧ t.me.pc = s.me.pc ∧ t.me.live = s.me.live ∧ t.me.region = s.me.region ∧ t.mem = s.mem
      ∧ t.me.hostWait = some (pasid, page, BitVec.ofNat 32 (s.localOf b), s.me.pc)
      ∧ ((s.host.pri.any fun r => r.pasid == pasid && r.page == page) = true ∨ 64 ≤ s.host.pri.length
          ∨ ({ pasid := pasid, page := page, since := s.now } : PageRequest) ∈ t.host.pri))
  ∧ (∀ (s t : State) (d a : BitVec 5) (o : BitVec 14) (i : Instr) (n : Nat) (p : Place),
    (i, n) ∈ [(.stI8 d a o, 1), (.stI16 d a o, 2), (.stI32 d a o, 4)] → s.free (useS [d, a]) →
    let x := s.x a + BitVec.ofInt 32 (o.toInt * n)
    s.locate x = some p → s.checkLocal x n (n == 4) true (x.toNat % n == 0) 0x010 = none → s.storableAt x n (s.x d) →
    (s.writeAt x n (s.x d)).linesFit → exec i s = .next t →
    (∀ b, b ∉ p.bytes n → t.peek b = s.peek b)
      ∧ (∀ f, p = .mem f ∨ (∃ k, p = .scratch k ∧ f = scratchBase + k) → t.peekNat f n = (s.x d).toNat % 2 ^ (8 * n))
      ∧ t.mem = s.mem ∧ t.me.live.s = s.me.live.s ∧ t.me.live.v = s.me.live.v ∧ t.me.live.w = s.me.live.w
      ∧ t.me.live.lx = s.me.live.lx ∧ t.me.live.p = s.me.live.p ∧ t.me.live.q = s.me.live.q ∧ t.me.live.epc = s.me.live.epc
      ∧ t.me.live.cause = s.me.live.cause ∧ t.me.live.tval = s.me.live.tval
      ∧ (p.isWindow = false → t.me.live = s.me.live) ∧ ∀ g, g ≠ s.cur → t.slot g = s.slot g)

/-- R119: an atomic reads the word at sa, buffers its function of the old word and sb (and sd for AMOCAS), and returns the old word
in sd. What its read enters into the read signature is that of a load (log entry 73). -/
def Obligations.Atomics : Prop :=
  ∀ (s : State) (d a b : BitVec 5) (p : Place), s.free (useS [d, a, b]) → s.locate (s.x a) = some p →
    s.checkLocal (s.x a) 4 false true ((s.x a).toNat % 4 == 0) 0x010 = none → s.readable (p.bytes 4) →
    let old := s.readPlace 4 p
    let y := s.x b
    let amo (v : Word) (i : Instr) : Prop :=
      (s.writeAt (s.x a) 4 v).linesFit →
      exec i s = .next (((s.touchPlace 4 p).writeAt (s.x a) 4 v).deliver (loadS d old)).passed
    amo y (.amoswap d a b) ∧ amo (old + y) (.amoadd d a b) ∧ amo (old &&& y) (.amoand d a b) ∧ amo (old ||| y) (.amoor d a b)
      ∧ amo (old ^^^ y) (.amoxor d a b) ∧ amo (if old.toInt ≤ y.toInt then old else y) (.amomin d a b)
      ∧ amo (if y.toInt ≤ old.toInt then old else y) (.amomax d a b)
      ∧ amo (if old.toNat ≤ y.toNat then old else y) (.amominn d a b)
      ∧ amo (if y.toNat ≤ old.toNat then old else y) (.amomaxn d a b)
      ∧ amo (if old = s.x d then y else old) (.amocas d a b)

/-- R116: the vector loads read, and the vector stores buffer, a word for each included lane, the lowest lane first: at a + 4i from
the base sa + 64 * SEXT(off10), at sa + i * sb, or at sa + k * lane i of the index register with k = 1, 4 or 64. That every lane's value
is read in the state before the load, so that a load over CYCLE and CYCLEH returns the earlier capture, is the model's choice (log entry
63): R109 and R116 leave it open; so is that a load which the region's own stores serve enters its line into the read signature (log
entry 73). -/
def Obligations.VectorMemory : Prop :=
  (∀ (s : State) (v x : BitVec 6) (a b : BitVec 5) (p : BitVec 3) (o : BitVec 10) (e : BitVec 2),
    let m := s.me.live.preg p.toNat
    let load (u : Uses) (addr : Nat → Word) (aligned : Nat → Bool) (i : Instr) : Prop :=
      s.free u → s.checkLanes m addr false aligned = none →
      (∀ k ∈ lanesOf m, ∀ q, s.locate (addr k) = some q → s.readable (q.bytes 4)) →
      exec i s = .next (((lanesOf m).foldl (fun t k => (t.readAt (addr k) 4).2) s).deliver
        (loadV v m (vecOf fun k => if lane m k then (s.readAt (addr k) 4).1 else 0))).passed
    let base := s.x a + BitVec.ofInt 32 (o.toInt * 64)
    let strided (k : Nat) := s.x a + BitVec.ofNat 32 k * s.x b
    let indexed (k : Nat) := s.x a + (if e = 0 then 1 else if e = 1 then 4 else 64) * laneOf (s.me.live.vreg x.toNat) k
    load { s := [a.toNat], v := [v.toNat] } (fun k => base + BitVec.ofNat 32 (4 * k)) (fun _ => base.toNat % 64 == 0) (.vld v a p o)
      ∧ load { s := [a.toNat, b.toNat], v := [v.toNat] } strided (fun k => (strided k).toNat % 4 == 0) (.vlds v a p b)
      ∧ load { s := [a.toNat], v := [v.toNat, x.toNat], reads := [x.toNat] } indexed (fun k => (indexed k).toNat % 4 == 0)
          (.vldx v a p x e))
  ∧ (∀ (s : State) (v x : BitVec 6) (a b : BitVec 5) (p : BitVec 3) (o : BitVec 10) (e : BitVec 2),
    let m := s.me.live.preg p.toNat
    let store (u : Uses) (addr : Nat → Word) (aligned : Nat → Bool) (i : Instr) : Prop :=
      let t := (lanesOf m).foldl (fun t k => t.writeAt (addr k) 4 (laneOf (s.me.live.vreg v.toNat) k)) s
      s.free u → s.checkLanes m addr true aligned = none →
      (∀ k ∈ lanesOf m, s.storableAt (addr k) 4 (laneOf (s.me.live.vreg v.toNat) k)) → t.linesFit → exec i s = .next t.passed
    let base := s.x a + BitVec.ofInt 32 (o.toInt * 64)
    let strided (k : Nat) := s.x a + BitVec.ofNat 32 k * s.x b
    let indexed (k : Nat) := s.x a + (if e = 0 then 1 else if e = 1 then 4 else 64) * laneOf (s.me.live.vreg x.toNat) k
    store { s := [a.toNat], v := [v.toNat], reads := [v.toNat] } (fun k => base + BitVec.ofNat 32 (4 * k))
        (fun _ => base.toNat % 64 == 0) (.vst v a p o)
      ∧ store { s := [a.toNat, b.toNat], v := [v.toNat], reads := [v.toNat] } strided (fun k => (strided k).toNat % 4 == 0)
          (.vsts v a p b)
      ∧ store { s := [a.toNat], v := [v.toNat, x.toNat], reads := [v.toNat, x.toNat] } indexed
          (fun k => (indexed k).toNat % 4 == 0) (.vstx v a p x e))

/-- R114, R116: an access that fails a check raises the check's code with the address in TVAL; a vector access raises that of its
lowest failing lane. The checks in their order: no place there 0x012, a format window that the access may not use 0x014, a store to a
read-only place 0x013, a misaligned address 0x010 or 0x011, a byte of a partition of another domain 0x240, and a store to a sealed
or discarded byte 0x386. -/
def Obligations.AccessTraps : Prop :=
  (∀ (s : State) (d a b : BitVec 5) (o : BitVec 14) (c : Nat), s.free (useS [d, a]) → s.free (useS [d, a, b]) →
    let checked (n : Nat) (store : Bool) (i : Instr) : Prop :=
      let x := s.x a + BitVec.ofInt 32 (o.toInt * n)
      s.checkLocal x n (n == 4) store (x.toNat % n == 0) 0x010 = some c → exec i s = .next (s.faulted c x)
    checked 1 false (.ldI8 d a o) ∧ checked 1 false (.ldN8 d a o) ∧ checked 2 false (.ldI16 d a o) ∧ checked 2 false (.ldN16 d a o)
      ∧ checked 4 false (.ldI32 d a o) ∧ checked 1 true (.stI8 d a o) ∧ checked 2 true (.stI16 d a o) ∧ checked 4 true (.stI32 d a o)
      ∧ (s.checkLocal (s.x a) 4 false true ((s.x a).toNat % 4 == 0) 0x010 = some c →
          ∀ i ∈ [.amoswap d a b, .amoadd d a b, .amoand d a b, .amoor d a b, .amoxor d a b, .amomin d a b, .amomax d a b,
            .amominn d a b, .amomaxn d a b, .amocas d a b], exec i s = .next (s.faulted c (s.x a)))
      ∧ ∀ (v : BitVec 6) (p : BitVec 3) (k : BitVec 10) (x : Word),
          let base := s.x a + BitVec.ofInt 32 (k.toInt * 64)
          let check (store : Bool) := s.checkLanes (s.me.live.preg p.toNat) (fun i => base + BitVec.ofNat 32 (4 * i)) store
            fun _ => base.toNat % 64 == 0
          s.free { s := [a.toNat], v := [v.toNat] } →
            (check false = some (c, x) → exec (.vld v a p k) s = .next (s.faulted c x))
              ∧ (check true = some (c, x) → exec (.vst v a p k) s = .next (s.faulted c x)))
  ∧ (∀ (s : State) (v y : BitVec 6) (a b : BitVec 5) (p : BitVec 3) (e : BitVec 2) (c : Nat) (x : Word),
    let strided (k : Nat) := s.x a + BitVec.ofNat 32 k * s.x b
    let indexed (k : Nat) := s.x a + (if e = 0 then 1 else if e = 1 then 4 else 64) * laneOf (s.me.live.vreg y.toNat) k
    let trapped (u : Uses) (addr : Nat → Word) (store : Bool) (i : Instr) : Prop :=
      s.free u → s.checkLanes (s.me.live.preg p.toNat) addr store (fun k => (addr k).toNat % 4 == 0) = some (c, x) →
        exec i s = .next (s.faulted c x)
    trapped { s := [a.toNat, b.toNat], v := [v.toNat] } strided false (.vlds v a p b)
      ∧ trapped { s := [a.toNat, b.toNat], v := [v.toNat] } strided true (.vsts v a p b)
      ∧ trapped { s := [a.toNat], v := [v.toNat, y.toNat] } indexed false (.vldx v a p y e)
      ∧ trapped { s := [a.toNat], v := [v.toNat, y.toNat] } indexed true (.vstx v a p y e))
  ∧ (∀ (s : State) (m : BitVec 16) (addr : Nat → Word) (store : Bool) (aligned : Nat → Bool) (i c : Nat),
    let check (k : Nat) := s.checkLocal (addr k) 4 true store (aligned k) 0x011
    (i ∈ lanesOf m → check i = some c → (∀ k ∈ lanesOf m, k < i → check k = none) →
        s.checkLanes m addr store aligned = some (c, addr i))
      ∧ ((∀ k ∈ lanesOf m, check k = none) → s.checkLanes m addr store aligned = none))
  ∧ ∀ (s : State) (a : Word) (n cause : Nat) (elem store aligned : Bool),
    let check := s.checkLocal a n elem store aligned cause
    (s.locate a = none → check = some 0x012)
      ∧ ∀ p, s.locate a = some p →
        let foreign (b : Nat) : Prop := s.otherPool s.me.domain b = true
        (p.isWindow = true → elem = false → check = some 0x014)
          ∧ (p.isWindow = false ∨ elem = true →
            (store = true → p.readOnly = true → check = some 0x013)
              ∧ (store = false ∨ p.readOnly = false →
                (aligned = false → check = some cause)
                  ∧ (aligned = true → (∃ b ∈ p.bytes n, foreign b) → check = some 0x240)
                  ∧ (aligned = true → (∀ b ∈ p.bytes n, ¬ foreign b) →
                    (store = true → (∃ b ∈ p.bytes n, (s.sealOf b).isSome = true) → check = some 0x386)
                      ∧ (store = false ∨ (∀ b ∈ p.bytes n, s.sealOf b = none) → check = none))))

/-! ## The bulb engine (spec/07_bulb.md R204-R219) -/

/-- R211-R213: a binary word on bulbs: with equal tags and equal weights the values combine clove by clove, the flags of the cloves of
non-zero weight rise, and tag and weights stay; unequal weights raise 0x100 with the first such clove; with different tags the
64 pairings of each lane are condensed under a fresh tag. -/
def Obligations.BulbArithmetic : Prop :=
  ∀ (s : State) (d a b : BitVec 3), s.free { q := [d.toNat, a.toNat, b.toNat] } →
    let x := s.me.live.bulb a.toNat
    let y := s.me.live.bulb b.toNat
    let apart (p : Nat × Nat) : Bool := (x.clove p.1 p.2).wt != (y.clove p.1 p.2).wt
    let binary (f : Word → Word → Word × Flags) (i : Instr) : Prop :=
      let r (i c : Nat) := f (x.clove i c).val (y.clove i c).val
      let flags := clovePlaces.foldl (fun m p => if (x.clove p.1 p.2).wt = 0 then m else m ||| (r p.1 p.2).2) 0
      (x.tag = y.tag → (∀ p ∈ clovePlaces, apart p = false) →
        exec i s = .next ((s.orLive flags).wQ d (bulbOf x.tag fun i c => mkClove (r i c).1 (x.clove i c).wt.toNat)).passed)
      ∧ (∀ l c, x.tag = y.tag → clovePlaces.find? apart = some (l, c) →
        exec i s = .next (s.faulted 0x100 (BitVec.ofNat 32 (8 * l + c))))
      ∧ (x.tag ≠ y.tag →
        let lanes : Vector (List (Word × Nat) × Flags) 16 := Vector.ofFn fun i => independentLane f (x.lane i) (y.lane i)
        let flags := (List.range 16).foldl (fun m i => m ||| (if h : i < 16 then lanes[i].2 else 0)) 0
        exec i s = .next ((s.orLive flags).wFresh d fun i c => if h : i < 16 then laneClove lanes[i].1 c else ⟨0, 0⟩).passed)
    binary (fun p q => (addF32 p q).pair) (.qadd d a b) ∧ binary (fun p q => (subF32 p q).pair) (.qsub d a b)
      ∧ binary (fun p q => (mulF32 p q).pair) (.qmul d a b) ∧ binary (fun p q => (maxF32 p q, 0)) (.qmax d a b)
      ∧ binary (fun p q => (minF32 p q, 0)) (.qmin d a b)

/-- R207-R210, R215-R218: the words of one bulb: each clove of non-zero weight mapped with tag, weights and order kept; a copy; a clove
read out; a bulb made of vectors under a fresh tag, or 0x101 with the lowest lane whose weights do not sum to 0x8000; moments,
quantiles and probabilities; QLD reads a bulb from its image of 1,024 bytes, or raises 0x102, and QST buffers the image. That QQNT
returns a NaN clove quieted is the model's inference (log entry 64), as is what the bytes that QLD ignores count as (log entry 73). -/
def Obligations.BulbUnary : Prop :=
  (∀ (s : State) (d a c : BitVec 3) (v : BitVec 7) (g : BitVec 2),
    let x := s.me.live.bulb a.toNat
    let arg (i : Nat) := laneOf (s.me.live.operand v) i
    let unary (u : Uses) (f : Nat → Word → Word × Flags) (i : Instr) : Prop :=
      let flags := clovePlaces.foldl (fun m p => if (x.clove p.1 p.2).wt = 0 then m else m ||| (f p.1 (x.clove p.1 p.2).val).2) 0
      s.free { u with q := [d.toNat, a.toNat] } →
      exec i s = .next ((s.orLive flags).wQ d (bulbOf x.tag fun i c => mkClove (f i (x.clove i c).val).1 (x.clove i c).wt.toNat)).passed
    let lanes (u : Uses) (f : Nat → LaneResult) (i : Instr) : Prop :=
      s.free { u with q := [a.toNat] } → exec i s = .next ((s.putLanes v g f).ended 1 (s.me.pc + 4))
    unary (useSrc [v]) (fun i w => (mulF32 w (arg i)).pair) (.qscl d a v) ∧ unary {} (fun _ w => (negQuiet w, 0)) (.qneg d a)
      ∧ (∀ f : BitVec 3, unary {} (fun _ w => (qmapFn f.toNat w, 0)) (.qmap d a f))
      ∧ (s.free { q := [d.toNat, a.toNat] } → exec (.qmov d a) s = .next (s.wQ d x).passed)
      ∧ (∀ p : BitVec 3, lanes (useB v [])
          (fun i => plain (if p = 0 then (x.clove i c.toNat).val else (x.clove i c.toNat).wt.setWidth 32)) (.qpick p a c v g))
      ∧ (∀ k : BitVec 3, lanes (useB v []) (fun i => flagged (moment k.toNat (x.live i))) (.qmom a k v g))
      ∧ lanes (useB v [v]) (fun i => flagged (quantile (arg i) (x.live i))) (.qqnt a v g)
      ∧ lanes (useB v [v]) (fun i => plain (cdf (arg i) (x.live i))) (.qcdf a v g)
      ∧ ∀ n : BitVec 3,
          let m := n.toNat + 1
          let rs := (List.range (m + (m + 1) / 2)).map fun j => v.toNat + j
          let wt := qmakeWeight s.me.live v.toNat m
          let short (i : Nat) : Bool := (List.range 8).foldl (fun t c => t + wt i c) 0 != 0x8000
          s.free { v := rs, q := [d.toNat], reads := rs } →
            ((∀ i < 16, short i = false) → exec (.qmake d n v) s = .next ((s.wFresh d fun i c =>
                mkClove (laneOf (s.me.live.vreg (v.toNat + c)) i) (wt i c)).ended (1 + (rs.eraseDups.length - 2)) (s.me.pc + 4)))
            ∧ ∀ i, (List.range 16).find? short = some i → exec (.qmake d n v) s = .next (s.faulted 0x101 (BitVec.ofNat 32 i)))
  ∧ (∀ (s : State) (q : BitVec 6) (a : BitVec 5) (o : BitVec 10), s.free { s := [a.toNat], q := [q.toNat] } →
    let x := s.x a + BitVec.ofInt 32 (o.toInt * 64)
    let ps := s.imagePlaces x
    let bytes := ps.flatMap (Place.bytes 1)
    let b := bulbOfImage (ps.map fun p => (s.readPlace 1 p).setWidth 8)
    let read := (ps.filter Place.readOnly).foldl (fun s p => s.touchPlace 1 p) (s.noteRead bytes)
    (s.checkImage x false = none → b.badLane = none → s.readable bytes →
      exec (.qld q a o) s = .next (read.deliver (loadQ q.toNat b)).passed)
    ∧ (∀ i, s.checkImage x false = none → b.badLane = some i → s.readable bytes →
        exec (.qld q a o) s = .next (s.faulted 0x102 (BitVec.ofNat 32 i)))
    ∧ (s.checkImage x true = none → s.storable (bytes.zip (s.me.live.bulb q.toNat).image) →
      (s.buffer (bytes.zip (s.me.live.bulb q.toNat).image)).linesFit →
      exec (.qst q a o) s = .next (s.buffer (bytes.zip (s.me.live.bulb q.toNat).image)).passed)
    ∧ ∀ store c y, s.checkImage x store = some (c, y) →
        exec (if store then .qst q a o else .qld q a o) s = .next (s.faulted c y))

/-! ## Gangs, barriers, traps and regions (spec/04_control.md R121-R138; spec/05_commit.md R142-R166) -/

/-- R67, R129-R132: NOP, VNOP and the reserved hints pass to the next bundle; BARA appends an arrival, BARWT goes on when the slot
has arrived nowhere at b, and waits while the phase is open; an arrival at b that its region has not committed makes BARWT force a
commit, with LAST 4 and FC, or raise 0x081 in an atomic region; a malformed BARM raises 0x023 and a second arrival 0x024. -/
def Obligations.HintsAndBarriers : Prop :=
  (∀ (s : State) (x : BitVec 24) (y : BitVec 23) (m : BitVec 2) (k : BitVec 3), s.free {} →
    ∀ i ∈ [.nop x, .vnop y, .reservedHintA m x, .reservedHintB k y], exec i s = .next s.passed)
  ∧ (∀ (s : State) (b : BitVec 9), s.free {} →
    let valid := barmValid s.me.live.barm s.me.live.gsize
    let here := s.me.arrived.contains b.toNat
    (valid = true → here = false → s.room → exec (.bara b) s = .next (s.effect (.arrive b.toNat (barmCount s.me.live.barm))).passed)
    ∧ (valid = false → exec (.bara b) s = .next (s.faulted 0x023 (b.setWidth 32))
        ∧ exec (.barw b) s = .next (s.faulted 0x023 (b.setWidth 32)))
    ∧ (valid = true → here = true → exec (.bara b) s = .next (s.faulted 0x024 (b.setWidth 32)))
    ∧ (here = false → exec (.barwt b) s = .next s.passed)
    ∧ (b.toNat ∉ s.me.region.effects.filterMap (fun e => match e with | .arrive k _ => some k | _ => none) →
        b.toNat ∈ s.me.arrivals → s.me.abort = false →
        exec (.barwt b) s = .next ((s.endSolo s.cur).tick s.cur 1))
    ∧ (b.toNat ∈ s.me.region.effects.filterMap (fun e => match e with | .arrive k _ => some k | _ => none) →
        (s.me.region.atomic = true → exec (.barwt b) s = .next (s.faulted 0x081 (BitVec.ofNat 32 (0x200 + b.toNat))))
        ∧ (s.me.region.atomic = false → s.calm s.myCluster → s.regionHeld [s.cur] = false →
            exec (.barwt b) s = .next (s.reopened 4)))
    ∧ (∀ n, s.me.region.effects = [.arrive b.toNat n] → s.me.region.atomic = false → s.calm s.myCluster →
        s.regionHeld [s.cur] = false → (s.modMe fun x => { x with region := { x.region with effects := [] } }).lone →
        ∃ t, exec (.barwt b) s = .next t ∧ b.toNat ∈ t.me.arrivals ∧ t.me.stat.last = 4 ∧ t.me.stat.fc = true ∧ t.me.live = s.me.live
          ∧ t.me.pc = s.me.pc ∧ t.me.region.first = s.me.pc ∧ t.me.region.atomic = false ∧ t.me.region.effects = []
          ∧ (t.cluster s.myCluster).commits = (s.cluster s.myCluster).commits + 1))

/-- R12, R121, R131, R136-R138, R147, R348: a word that ends its region commits it when its bundle ends, and what follows: at RETIRE, YIELD
and SLEEPT the slot waits to leave, with an ordinary region open at the word, which a trap that ends the wait runs again; GANG waits at its
own bundle until every member waits with its size, and the last one forms the gang, which goes on behind the leader's GANG; BARW arrives,
unless it has, and records its wait in BARM; GANG that is refused, ERET without a trap, SPLIT outside a gang and TRAP inside a handler
raise their causes. Where the spec leaves a choice, it is the model's (log entries 1, 13, 21 and 45). -/
def Obligations.RegionEndingWords : Prop :=
  (∀ (s : State) (a b : BitVec 5) (n : BitVec 2) (k : BitVec 6) (j : BitVec 9),
    let ends (u : Uses) (after : After) (i : Instr) : Prop := s.free u → exec i s = .next (s.boundary after)
    (s.commits →
      ends {} (.next false) .rgn ∧ ends {} (.next true) .rgnA ∧ ends {} .retire .retire
        ∧ ends (useS [a, b]) (.yield (s.x a) (s.x b)) (.yield a b)
        ∧ ends { s := a.toNat :: regsFrom b 2 } (.sleep (s.x a) (s.timeAt b)) (.sleept a b)
        ∧ (s.gangRefused n.toNat = false → ends {} (.gang n.toNat) (.gang n))
        ∧ (s.me.live.ta = false → ends (useS [a]) (.trap (0x040 + k.toNat) (s.x a)) (.trap a k))
        ∧ (s.me.live.ta = true → ends {} .eret .eret))
    ∧ (s.gangRefused n.toNat = true → s.free {} → exec (.gang n) s = .next (s.faulted 0x020 0))
    ∧ (s.me.live.ta = false → s.free {} → exec .eret s = .next (s.faulted 0x025 0))
    ∧ (s.me.live.ta = true → s.free (useS [a]) → exec (.trap a k) s = .next (s.faulted (0x040 + k.toNat) (s.x a)))
    ∧ (s.free {} → exec .split s = .next (s.faulted 0x022 0))
    ∧ (let e := if s.me.arrived.contains j.toNat then s else s.effect (.arrive j.toNat (barmCount s.me.live.barm))
       let w := e.modLive fun r => { r with barm := barmWaiting r.barm j }
       s.free {} → barmValid s.me.live.barm s.me.live.gsize = true → s.room → w.commits →
         exec (.barw j) s = .next (w.boundary .barw)))
  ∧ (∀ (s : State) (a b : BitVec 5), s.commits → s.lone →
    let leaves (u : Uses) (h : Leave) (i : Instr) : Prop := s.free u →
      ∃ t, exec i s = .next t ∧ t.me.wait = some (.leave h) ∧ t.me.pc = s.me.pc ∧ t.me.live = s.me.live
        ∧ t.me.region.first = s.me.pc ∧ t.me.region.atomic = false ∧ t.me.region.bundles = 0 ∧ t.me.region.stores = []
        ∧ t.me.region.ckpt = s.me.live ∧ (t.cluster s.myCluster).commits = (s.cluster s.myCluster).commits + 1
    leaves {} .retire .retire ∧ leaves (useS [a, b]) (.yield (s.x a) (s.x b)) (.yield a b)
      ∧ leaves { s := a.toNat :: regsFrom b 2 } (.sleep (s.x a) (s.timeAt b)) (.sleept a b))
  ∧ (∀ (s : State) (n : BitVec 2), s.commits → s.lone → s.free {} → s.gangRefused n.toNat = false →
    let ms := membersOf s.cur n.toNat
    let lead := ms.headD s.cur
    let there (m : Nat) : Prop := m = s.cur ∨ ∃ p, (s.slot m).wait = some (.gang n.toNat p)
    ∃ t, exec (.gang n) s = .next t ∧ (t.cluster s.myCluster).commits = (s.cluster s.myCluster).commits + 1
      ∧ ((∃ m ∈ ms, ¬ there m) → t.me.wait = some (.gang n.toNat (s.me.pc + 4)) ∧ t.me.pc = s.me.pc ∧ t.me.live = s.me.live
          ∧ t.me.region.first = s.me.pc ∧ t.me.region.atomic = false ∧ t.me.region.bundles = 0 ∧ ∀ m, m ≠ s.cur → t.slot m = s.slot m)
      ∧ ((∀ m ∈ ms, there m) → ∀ m ∈ ms,
          (t.slot m).wait = none ∧ (t.slot m).live.gsize = n.toNat ∧ bit (t.slot m).live.status 25 = (m == lead)
            ∧ (t.slot m).region.first = (if lead = s.cur then s.me.pc else (s.slot lead).region.first)
            ∧ (lead = s.cur → (t.slot m).pc = s.me.pc + 4)
            ∧ (lead ≠ s.cur → ∀ p, (s.slot lead).wait = some (.gang n.toNat p) → (t.slot m).pc = p)))
  ∧ ∀ (s : State) (j : BitVec 9),
    let barm := s.me.live.barm
    let here := s.me.arrived.contains j.toNat
    let open_ (p : Phase) : Bool := p.open_ (barmLevel barm) (s.barScope s.cur (barmLevel barm)) s.me.domain j.toNat
    let w := (if here then s else s.effect (.arrive j.toNat (barmCount barm))).modLive fun r => { r with barm := barmWaiting r.barm j }
    s.free {} → s.lone → barmValid barm s.me.live.gsize = true → w.commits →
      (here = false → ∀ p, s.phases.find? open_ = some p → p.count = barmCount barm) →
      ∃ t, exec (.barw j) s = .next t ∧ t.me.live = { s.me.live with barm := barmWaiting barm j } ∧ barmWV t.me.live.barm = true
        ∧ barmWB t.me.live.barm = j.toNat ∧ j.toNat ∈ t.me.arrivals ∧ t.me.wait = none ∧ t.me.pc = s.me.pc + 4
        ∧ t.me.region.first = s.me.pc + 4 ∧ t.me.region.atomic = false
        ∧ (t.cluster s.myCluster).commits = (s.cluster s.myCluster).commits + 1

/-- R12, R22, R28, R49, R115, R142-R145, R147, R149, R152, R157, R163: what the commit of a region of stores does: the cluster's
commits rise by one, the stores are in memory, their lines carry the commit's number, and the next region opens behind it with the
registers as its checkpoint. ABORT discards the region and runs it again from the checkpoint, with LAST 7 and the code in ACODE; memory
is unchanged. A word that uses a token its own region launched forces the commit of the region, or raises 0x081 in an atomic one; on an
older token or a load in flight it waits. The limits of bundles, lines and effects commit the region before the bundle that passes them,
or raise 0x080; the region that opens then is ordinary, at that bundle, with FC or IC set. A commit that would write a line of a busy
range waits. Another open region that has read what a commit writes is discarded and runs again, with LAST 5 and CONF counted; the eighth
conflict makes it wait for a solo run. -/
def Obligations.RegionCommit : Prop :=
  (∀ (s : State) (atomic : Bool), s.free {} → s.commits → s.lone →
    let n := (s.cluster s.myCluster).commits + 1
    ∃ t, exec (if atomic then .rgnA else .rgn) s = .next t
      ∧ (t.cluster s.myCluster).commits = n
      ∧ t.mem = storeBytes s.mem (s.me.region.stores.filter fun c => c.1 < scratchBase ∧ s.aliasOf c.1 = none)
      ∧ (∀ c ∈ s.me.region.stores, c.1 < scratchBase → t.stamp s.myCluster (lineOf c.1) = n)
      ∧ t.me.live = s.me.live ∧ t.me.pc = s.me.pc + 4
      ∧ t.me.region.no = s.me.region.no + 1 ∧ t.me.region.first = s.me.pc + 4 ∧ t.me.region.atomic = atomic
      ∧ t.me.region.byCommit = true ∧ t.me.region.bundles = 0 ∧ t.me.region.stores = [] ∧ t.me.region.effects = []
      ∧ t.me.region.rsig = 0 ∧ t.me.region.wsig = 0 ∧ t.me.region.ckpt = s.me.live ∧ t.me.region.code = t.mem
      ∧ t.me.stat.last = 0 ∧ t.me.stat.conf = 0)
  ∧ (∀ (s : State) (a : BitVec 5), s.free (useS [a]) → s.me.abort = false → s.me.region.res.tiles = [] → s.me.region.kept.tiles = [] →
    ∃ t, exec (.abort a) s = .next t
      ∧ t.me.live = s.me.region.ckpt.restored s.me.live ∧ t.me.pc = s.me.region.first
      ∧ t.me.region.stores = [] ∧ t.me.region.effects = [] ∧ t.me.region.bundles = 0 ∧ t.me.region.rsig = 0
      ∧ t.me.region.wsig = 0 ∧ t.me.region.atomic = s.me.region.atomic ∧ t.me.region.byCommit = false
      ∧ t.me.region.first = s.me.region.first
      ∧ t.me.stat.last = 7 ∧ t.me.stat.acode = (s.x a).setWidth 8 ∧ t.me.stat.conf = 0 ∧ t.me.solo = none
      ∧ t.mem = s.mem ∧ ∀ g, g ≠ s.cur → t.slot g = s.slot g)
  ∧ (∀ (s : State) (i : Instr) (d : BitVec 5), i.arithDest = some d → d ≠ 0 → s.bundle = none → s.me.live.gsize = 0 →
    let forces (code why last : Nat) : Prop :=
      (s.me.region.atomic = true → exec i s = .next (s.faulted code (BitVec.ofNat 32 why)))
        ∧ (s.me.region.atomic = false → s.calm s.myCluster → s.regionHeld [s.cur] = false → exec i s = .next (s.reopened last))
    (Config.maxBundles ≤ s.me.region.bundles → forces 0x080 1 1)
      ∧ (s.me.region.bundles < Config.maxBundles →
        (bit s.me.live.pend d.toNat = true → bit s.me.region.ckpt.pend d.toNat = false → forces 0x081 d.toNat 4)
          ∧ ((∀ n < 32, bit s.me.live.pend n = true → bit s.me.region.ckpt.pend n = true) → bit s.me.live.pend d.toNat = true →
              s.me.abort = false → exec i s = .next ((s.endSolo s.cur).tick s.cur 1))
          ∧ ((∀ n < 32, bit s.me.live.pend n = false) → (∃ l ∈ s.me.loads, l.dest = .sreg d.toNat) →
              s.me.abort = false → exec i s = .next (s.tick s.cur 1))))
  ∧ (∀ (s : State) (d a : BitVec 5) (o : BitVec 14),
    let x := s.x a + BitVec.ofInt 32 (o.toInt * 4)
    let forces (why : Nat) (i : Instr) : Prop :=
      (s.me.region.atomic = true → exec i s = .next (s.faulted 0x080 (BitVec.ofNat 32 why)))
        ∧ (s.me.region.atomic = false → s.calm s.myCluster → s.regionHeld [s.cur] = false → exec i s = .next (s.reopened why))
    (s.free (useS [d, a]) → s.checkLocal x 4 true true (x.toNat % 4 == 0) 0x010 = none → s.storableAt x 4 (s.x d) →
        ¬ (s.writeAt x 4 (s.x d)).linesFit → forces 2 (.stI32 d a o))
      ∧ (s.free {} → ¬ s.room → forces 3 (.wcancel d)))
  ∧ (∀ (s : State) (last : Nat), s.lone →
    let t := s.reopened last
    (t.cluster s.myCluster).commits = (s.cluster s.myCluster).commits + 1
      ∧ t.mem = storeBytes s.mem (s.me.region.stores.filter fun c => c.1 < scratchBase ∧ s.aliasOf c.1 = none)
      ∧ t.me.live = s.me.live ∧ t.me.pc = s.me.pc ∧ t.me.wait = none ∧ t.me.region.first = s.me.pc ∧ t.me.region.atomic = false
      ∧ t.me.region.byCommit = true ∧ t.me.region.bundles = 0 ∧ t.me.region.stores = [] ∧ t.me.region.ckpt = s.me.live
      ∧ t.me.stat.last = last ∧ t.me.stat.conf = 0 ∧ t.me.stat.fc = (s.me.stat.fc || last == 4)
      ∧ t.me.stat.ic = (s.me.stat.ic || last != 4) ∧ t.me.solo = s.me.solo)
  ∧ (∀ s : State, s.free {} → s.counted.calm s.myCluster →
    (∃ r ∈ (s.cluster s.myCluster).busy, ∃ c ∈ s.me.region.stores, c.1 < scratchBase ∧ r.line ≤ lineOf c.1
      ∧ lineOf c.1 < r.line + r.lines) → exec .rgn s = .next (s.heldBack (.next false)))
  ∧ ∀ (s : State) (g : Nat), let x := s.slot g
    s.free {} → s.commits → s.me.region.effects = [] → s.me.region.res = ⟨[], [], []⟩ → s.me.region.kept = ⟨[], [], []⟩ →
      s.me.abort = false → (∀ m ∈ s.slotsOf s.myCluster, (s.slot m).parked = none
        ∧ (m ≠ s.cur → m ≠ g → (s.slot m).region.rsig &&& s.me.region.wsig = 0)) →
      g ≠ s.cur → clusterOf g = s.myCluster → x.slice.isSome = true → x.live.gsize = 0 → x.abort = false →
      x.region.rsig &&& s.me.region.wsig ≠ 0 → x.region.res.tiles = [] → x.region.kept.tiles = [] →
      ∃ t, exec .rgn s = .next t ∧ (t.cluster s.myCluster).commits = (s.cluster s.myCluster).commits + 1
        ∧ (t.slot g).live = x.region.ckpt.restored x.live ∧ (t.slot g).pc = x.region.first ∧ (t.slot g).wait = none
        ∧ (t.slot g).region.first = x.region.first ∧ (t.slot g).region.atomic = x.region.atomic
        ∧ (t.slot g).region.byCommit = false ∧ (t.slot g).region.bundles = 0 ∧ (t.slot g).region.stores = []
        ∧ (t.slot g).region.effects = [] ∧ (t.slot g).region.rsig = 0 ∧ (t.slot g).stat.last = 5
        ∧ (t.slot g).stat.conf = min 8 (x.stat.conf + 1) ∧ (x.stat.conf < 7 → (t.slot g).soloWait = x.soloWait)
        ∧ (7 ≤ x.stat.conf → (t.slot g).soloWait = some (s.ckOf s.myCluster))

/-- R11, R40-R44, R62, R350: taking a synchronous cause: the region is discarded and the registers return to its checkpoint, EPC takes
its first bundle, XPC the bundle of the cause, CAUSE the code, TVAL the value, TA becomes 1, EA keeps the region's kind, and the slot
goes on at TVEC; while TA is 1 the slot halts instead and its slice is to leave with reason 7 and the second cause (the model's
reading, log entry 41); memory is unchanged. R394, R395: a fault of translation is the page-fault upcall where PLBCFG.UPEN is 1 and TA
and PARKED are 0, else 0x382; the upcall parks the region without its effects, KEPT is 1, TVAL and scratch word 0x3F8 hold the address,
0x3FC the kind of access, and the slot goes on at TVEC + 0x40. -/
def Obligations.TrapEntry : Prop :=
  (∀ (s : State) (code : Nat) (c : BitVec 10) (v w : Word), s.free {} → s.me.live.ta = false → s.me.abort = false →
    s.me.region.res.tiles = [] → s.me.region.kept.tiles = [] →
    (c ≠ 0x381 → exec (.illegalInstruction c w) s = .next (s.faulted c.toNat w))
    ∧ (code < 1024 → code ≠ 0x381 →
      let t := s.faulted code v
      let r := s.me.region.ckpt.restored s.me.live
      t.me.live = { r with
          epc := s.me.region.first &&& 0xFFFFFFFC, cause := BitVec.ofNat 32 code, tval := v, status := withBit r.status 9 true }
        ∧ t.me.pc = r.tvec &&& 0xFFFFFFC0 ∧ t.me.xpc = s.me.pc &&& 0xFFFFFFFC ∧ t.me.stat.last = 6
        ∧ t.me.stat.ea = s.me.region.atomic ∧ t.me.region.first = r.tvec &&& 0xFFFFFFC0 ∧ t.me.region.atomic = false
        ∧ t.me.region.stores = [] ∧ t.me.region.effects = [] ∧ t.me.region.bundles = 0 ∧ t.me.solo = none ∧ t.mem = s.mem
        ∧ ∀ g, g ≠ s.cur → t.slot g = s.slot g))
  ∧ (∀ (s : State) (code : Nat) (v : Word), s.free {} → s.me.live.ta = true → s.me.abort = false →
    s.me.region.res.tiles = [] → s.me.region.kept.tiles = [] → code ≠ 0x381 → code ≠ 0x3C1 →
    let t := s.faulted code v
    t.me.halted = true ∧ t.me.xpc = s.me.pc &&& 0xFFFFFFFC ∧ t.me.wait = some (.leave (.failed 7 0 code))
      ∧ t.me.live = s.me.region.ckpt.restored s.me.live ∧ t.me.region.stores = [] ∧ t.me.region.effects = [] ∧ t.mem = s.mem
      ∧ t.man.logseq = s.man.logseq + 1
      ∧ ∃ r, mfind t.man.log (s.man.logseq % 4096) = some r ∧ r[1] = 0x3E0 ∧ r[4] = BitVec.ofNat 32 s.cur
          ∧ r[5] = BitVec.ofNat 32 (bits s.me.live.cause 0 10) ∧ r[6] = BitVec.ofNat 32 code)
  ∧ (∀ (s : State) (v : Word) (a kind : Nat) (failed : Option Bool), s.free {} → s.me.abort = false →
    s.me.walk = some ⟨a, kind, failed⟩ →
    let t := s.faulted 0x381 v
    let r := s.me.region
    let x := r.ckpt.restored s.me.live
    t.me.live = { x with
        epc := r.first &&& 0xFFFFFFFC, cause := 0x40000381, tval := BitVec.ofNat 32 a, status := withBit x.status 9 true }
      ∧ t.me.pc = (x.tvec &&& 0xFFFFFFC0) + 0x40 ∧ t.me.xpc = s.me.pc &&& 0xFFFFFFFC ∧ t.me.stat.last = 6 ∧ t.me.stat.ea = r.atomic
      ∧ t.me.region.first = t.me.pc ∧ t.me.region.atomic = false ∧ t.me.region.stores = [] ∧ t.me.region.effects = []
      ∧ t.me.parked = some { r with
          effects := [], kept := ⟨[], [], []⟩,
          res := ⟨r.res.tiles ++ r.kept.tiles, r.res.rings ++ r.kept.rings, r.res.keys ++ r.kept.keys⟩ }
      ∧ (∀ i, i < 4 → mget t.me.scratch (0x3F8 + i) 0 = BitVec.ofNat 8 (a / 2 ^ 32 % 2 ^ 24 / 256 ^ i)
          ∧ mget t.me.scratch (0x3FC + i) 0 = BitVec.ofNat 8 (kind / 256 ^ i))
      ∧ (∀ n, n < 0x3F8 ∨ 0x400 ≤ n → mget t.me.scratch n 0 = mget s.me.scratch n 0)
      ∧ t.mem = s.mem ∧ ∀ g, g ≠ s.cur → t.slot g = s.slot g)
  ∧ ∀ (s : State) (g a need kind : Nat) (bad : Bool),
    let x := s.slot g
    s.lookup g x.domain a need = .wait → x.walk = some ⟨a, kind, some bad⟩ →
    s.translate g a need = .cause (if bad then 0x383
      else if x.plbcfg.getLsbD 1 = true ∧ x.live.ta = false ∧ x.parked = none then 0x381 else 0x382)

/-- R40, R43, R136, R137: TRAP commits its region and then takes its asynchronous cause, unless a pending one comes before it, with
EPC at the next bundle; ERET commits its region, clears TA and goes on at EPC in a region of the kind that EA names. R395: ERET to the
first bundle of the slot's parked region reinstates it, with its kind, its signatures and its reservations as the kept ones; ERET to
another address leaves it parked; a commit that writes what it has read discards it. Where the spec leaves a choice, it is the model's
(log entry 58). -/
def Obligations.TrapWordAndReturn : Prop :=
  (∀ (s : State) (a : BitVec 5) (k : BitVec 6), s.commits → s.lone →
    (s.free (useS [a]) → s.me.live.ta = false → s.tallocs s.cur = false → s.exhausted s.cur = false →
      (∀ c ∈ s.me.async, asyncKey (0x040 + k.toNat) < asyncKey c.1) →
      ∃ t, exec (.trap a k) s = .next t
        ∧ t.me.live = { s.me.live with
            epc := (s.me.pc + 4) &&& 0xFFFFFFFC, cause := BitVec.ofNat 32 (0xC0000040 + k.toNat), tval := s.x a,
            status := withBit s.me.live.status 9 true }
        ∧ t.me.pc = s.me.live.tvec &&& 0xFFFFFFC0 ∧ t.me.region.atomic = false ∧ t.me.stat.ea = false ∧ t.me.async = s.me.async
        ∧ (t.cluster s.myCluster).commits = (s.cluster s.myCluster).commits + 1)
    ∧ (s.free {} → s.me.live.ta = true →
      ∃ t, exec .eret s = .next t
        ∧ t.me.live = { s.me.live with status := withBit s.me.live.status 9 false }
        ∧ t.me.pc = s.me.live.epc ∧ t.me.region.first = s.me.live.epc ∧ t.me.region.atomic = s.me.stat.ea ∧ t.me.stat.ea = false
        ∧ t.me.region.byCommit = true
        ∧ (t.cluster s.myCluster).commits = (s.cluster s.myCluster).commits + 1))
  ∧ (∀ (s : State) (r : Region), s.commits → s.apart r → s.free {} → s.me.live.ta = true →
    ∃ t, exec .eret s = .next t
      ∧ t.me.live = { s.me.live with status := withBit s.me.live.status 9 false }
      ∧ t.me.pc = s.me.live.epc ∧ t.me.region.first = s.me.live.epc ∧ t.me.region.stores = [] ∧ t.me.stat.ea = false
      ∧ (r.first = s.me.live.epc →
          t.me.parked = none ∧ t.me.region.atomic = r.atomic ∧ t.me.region.rsig = r.rsig ∧ t.me.region.wsig = r.wsig
            ∧ t.me.region.kept = r.res)
      ∧ (r.first ≠ s.me.live.epc →
          t.me.parked = some r ∧ t.me.region.atomic = s.me.stat.ea ∧ t.me.region.rsig = 0 ∧ t.me.region.wsig = 0
            ∧ t.me.region.kept = ⟨[], [], []⟩))
  ∧ ∀ (s : State) (gc g : Nat) (self : List Nat) (w : BitVec 1024) (r : Region), g ∈ s.slotsOf gc → (s.slot g).parked = some r →
    ((s.conflicts gc self w).slot g).parked = if r.rsig &&& w = 0 then some r else none

/-- R122, R123, R125, R126: a gang runs each bundle on every member, with the member's own registers, and no other slot: stated for
any word that changes registers alone, of which every scalar arithmetic word is one, and for ADDI. SPLIT commits the regions of the gang
as one commit and ends the gang: each member goes on by itself behind it, with GSIZE and GLEAD 0. A cause of the leader disbands the
gang: the leader takes it, and every other member takes 0x021 with ASYNC, and all show GANG. Where the spec leaves a choice, it is
the model's (log entries 11, 13 and 58). -/
def Obligations.GangBundles : Prop :=
  (∀ (s : State) (u : Uses) (h : Regs → Option (Regs → Regs)),
    let gs := s.gangOf s.cur
    let body (s : State) : State := match h s.src with | some f => s.modLive f | none => s
    s.bundle = none → gs.head? = some s.cur →
    (∀ g ∈ gs, (s.slot g).region.bundles < Config.maxBundles ∧ (linesOf (s.slot g).region.stores).length ≤ Config.maxLines
      ∧ (s.slot g).region.effects.length ≤ Config.maxEffects ∧ (s.slot g).idle u) →
    ∃ t, word u body s = .next t
      ∧ (∀ g ∈ gs, let r := (s.slot g).live
          (t.slot g).live = (match h r with | some f => f r | none => r) ∧ (t.slot g).pc = s.me.pc + 4
            ∧ (t.slot g).region.bundles = (s.slot g).region.bundles + 1)
      ∧ (∀ g, g ∉ gs → t.slot g = s.slot g) ∧ t.mem = s.mem ∧ t.clusters = s.clusters)
  ∧ (∀ (i : Instr) (d : BitVec 5), i.arithDest = some d → ∃ (u : Uses) (h : Regs → Option (Regs → Regs)), ∀ s : State,
    exec i s = word u (fun s => match h s.src with | some f => s.modLive f | none => s) s)
  ∧ (∀ (s : State) (d a : BitVec 5) (i : BitVec 14),
    let gs := s.gangOf s.cur
    let pc := s.me.pc
    s.bundle = none → gs.head? = some s.cur →
    (∀ g ∈ gs, (s.slot g).region.bundles < Config.maxBundles ∧ (linesOf (s.slot g).region.stores).length ≤ Config.maxLines
      ∧ (s.slot g).region.effects.length ≤ Config.maxEffects ∧ (s.slot g).idle (useS [d, a])) →
    (∃ t, exec (.addi d a i) s = .next t
      ∧ (∀ g ∈ gs, (t.slot g).live = (s.slot g).live.setS d.toNat ((s.slot g).live.sreg a.toNat + i.signExtend 32)
          ∧ (t.slot g).pc = pc + 4 ∧ (t.slot g).region.bundles = (s.slot g).region.bundles + 1)
      ∧ (∀ g, g ∉ gs → t.slot g = s.slot g) ∧ t.mem = s.mem)
    ∧ (let u := gs.foldl State.countedOn { s with cur := gs.getLastD s.cur }
       (∀ g ∈ gs, (s.slot g).live.gsize ≠ 0) → u.calm s.myCluster → u.regionHeld gs = false →
         exec .split s = .next { (u.finishRegions (gs.map fun g => (g, After.split)) (pc + 4)).tick s.cur 1 with
           cur := s.cur, bundle := none }))
  ∧ (∀ s : State,
    let gs := s.gangOf s.cur
    let u := gs.foldl State.countedOn { s with cur := gs.getLastD s.cur }
    s.bundle = none → gs.head? = some s.cur →
    (∀ g ∈ gs, let x := s.slot g
      x.region.bundles < Config.maxBundles ∧ (linesOf x.region.stores).length ≤ Config.maxLines ∧ x.idle {} ∧ x.live.gsize ≠ 0
        ∧ x.region.effects = [] ∧ x.region.res = ⟨[], [], []⟩ ∧ x.region.kept = ⟨[], [], []⟩ ∧ x.abort = false) →
    (∀ m ∈ s.slotsOf s.myCluster, (s.slot m).parked = none ∧ (m ∉ gs → (s.slot m).region.rsig &&& s.regionSig gs = 0)) →
    u.calm s.myCluster → u.regionHeld gs = false →
    ∃ t, exec .split s = .next t ∧ (t.cluster s.myCluster).commits = (s.cluster s.myCluster).commits + 1
      ∧ (∀ g ∈ gs, let y := t.slot g
          y.live = { (s.slot g).live with status := (s.slot g).live.status &&& 0xF1FFFFFF } ∧ y.live.gsize = 0 ∧ y.pc = s.me.pc + 4
            ∧ y.wait = none ∧ y.region.first = s.me.pc + 4 ∧ y.region.atomic = false ∧ y.region.bundles = 0 ∧ y.region.stores = []
            ∧ y.region.ckpt = y.live)
      ∧ ∀ g, g ∉ gs → t.slot g = s.slot g)
  ∧ ∀ (s : State) (c : BitVec 10) (w : Word),
    let gs := s.gangOf s.cur
    s.bundle = none → gs.head? = some s.cur → s.me.live.gsize ≠ 0 → c ≠ 0x381 → c ≠ 0x3C1 → s.me.live.ta = false →
    (∀ g ∈ gs, let x := s.slot g
      x.abort = false ∧ x.halted = false ∧ x.region.res = ⟨[], [], []⟩ ∧ x.region.kept = ⟨[], [], []⟩) →
    ∃ t, exec (.illegalInstruction c w) s = .next t ∧ t.mem = s.mem ∧ ∀ g ∈ gs,
      let x := s.slot g
      let y := t.slot g
      let lead := g == s.cur
      let kept := !lead && x.region.byCommit && x.region.bundles == 0 && !s.tallocs g
      y.live.gsize = 0 ∧ y.live.ta = true ∧ y.live.epc = x.region.first &&& 0xFFFFFFFC
        ∧ y.live.cause = causeWord (!lead) kept true (if lead then c.toNat else 0x021)
        ∧ y.live.tval = (if lead then w else BitVec.ofNat 32 (coreOf s.cur))
        ∧ y.pc = (if kept then x.live else x.region.ckpt).tvec &&& 0xFFFFFFC0 ∧ y.wait = none ∧ y.solo = none
        ∧ y.region.stores = [] ∧ y.region.effects = [] ∧ y.region.bundles = 0 ∧ y.region.atomic = false

/-! ## Launches of engines (spec/01_engines.md R10, R28; spec/08_matrix.md to spec/14_host.md) -/

/-- R10, R26, R28, R143: a launch appends its effect to the region and marks its token register pending, s0 apart, and changes
nothing else; a completion makes one commit that writes the token, STATE and the low bits of the commit's number, in the register
and in its checkpoint, and ends the mark. A token whose commit has bytes still on their way to host memory waits for them (R401): that
the commit itself is made at once, and its token waits among host.tokens, is the model's choice (log entry 43). -/
def Obligations.LaunchAndCompletion : Prop :=
  (∀ (s : State) (t : BitVec 5) (e : Effect),
    let u := s.launch t e
    u.me.region = { s.me.region with effects := s.me.region.effects ++ [e] }
      ∧ u.me.live = (if t = 0 then s.me.live else { s.me.live with pend := withBit s.me.live.pend t.toNat true })
      ∧ u.mem = s.mem ∧ u.clusters = s.clusters ∧ ∀ g, g ≠ s.cur → u.slot g = s.slot g)
  ∧ ∀ (s : State) (gc engine g st n : Nat) (ws : FMap Byte), clusterOf g = gc →
      (∀ m ∈ s.slotsOf gc, (s.slot m).parked = none ∧ (s.slot m).region.rsig &&& sigOf ws = 0) →
      let u := s.complete gc engine g st n ws
      let x := s.slot g
      (u.cluster gc).commits = (s.cluster gc).commits + 1
        ∧ u.mem = storeBytes s.mem (ws.filter fun c => s.aliasOf c.1 = none)
        ∧ ((s.commitBegin gc ws).outward gc ((s.cluster gc).commits + 1) = true → u.slot g = x
          ∧ u.host.tokens = s.host.tokens ++ [(gc, (s.cluster gc).commits + 1, g, st, tokenWord n ((s.cluster gc).commits + 1))])
        ∧ ((s.commitBegin gc ws).outward gc ((s.cluster gc).commits + 1) = false →
            u.slot g = x.withToken st (tokenWord n ((s.cluster gc).commits + 1)))
        ∧ ((s.commitBegin gc ws).outward gc ((s.cluster gc).commits + 1) = false → 0 < st → st < 32 →
            (u.slot g).live.sreg st = BitVec.ofNat 32 (n % 256 * 2 ^ 24 + ((s.cluster gc).commits + 1) % 2 ^ 24)
              ∧ bit (u.slot g).live.pend st = false
              ∧ (u.slot g).region.ckpt.sreg st = (u.slot g).live.sreg st ∧ bit (u.slot g).region.ckpt.pend st = false
              ∧ (∀ r, r ≠ st → (u.slot g).live.sreg r = x.live.sreg r) ∧ (u.slot g).pc = x.pc)
        ∧ ∀ m, m ≠ g → u.slot m = s.slot m

/-- R224-R234: a matrix word whose descriptor, ranges and alignment pass their checks is launched with its operands, and MQRY reads
the state of an accumulator; a malformed descriptor raises 0x140 with it, then a range outside the scratchpad 0x141 with its lowest
such byte, then a misaligned address or stride 0x142. -/
def Obligations.MatrixLaunches : Prop :=
  (∀ (s : State) (t a b c : BitVec 5), s.room →
    let launched (op : MatOp) (x y z : Word) (regs : List (BitVec 5)) (i : Instr) : Prop :=
      s.free (useS (t :: regs)) → op.badDesc y = false → (op.reads x y z ++ op.writes x y).filterMap outsidePad = [] →
      op.misaligned x z = none → exec i s = .next (s.launch t (.mat op t.toNat x y z)).passed
    let sa := s.x a
    let sb := s.x b
    let sc := s.x c
    (∀ f : BitVec 3, if f.toNat < 3 then launched (.mwld f.toNat) sa 0 0 [a] (.mwld t a b f)
        else launched (.mwld f.toNat) sa sb 0 [a, b] (.mwld t a b f))
      ∧ launched (.mma false 0) sa sb sc [a, b, c] (.mmaBf16 t a b c) ∧ launched (.mma false 1) sa sb sc [a, b, c] (.mmaE4m3 t a b c)
      ∧ launched (.mma false 2) sa sb sc [a, b, c] (.mmaE5m2 t a b c) ∧ launched (.mma false 3) sa sb sc [a, b, c] (.mmaB4 t a b c)
      ∧ launched (.mma true 0) sa sb sc [a, b, c] (.mmasBf16 t a b c) ∧ launched (.mma true 1) sa sb sc [a, b, c] (.mmasE4m3 t a b c)
      ∧ launched (.mma true 2) sa sb sc [a, b, c] (.mmasE5m2 t a b c) ∧ launched (.mma true 3) sa sb sc [a, b, c] (.mmasB4 t a b c)
      ∧ (∀ k : BitVec 1, launched (.mzero (k == 1)) 0 sb 0 [b] (.mzero t b k))
      ∧ (∀ o : BitVec 3, launched (.mdrain false (o.getLsbD 0) (o.getLsbD 1) (o.getLsbD 2)) sa sb 0 [a, b] (.mdrain t a b o))
      ∧ (∀ o : BitVec 2, launched (.mdrain true (o.getLsbD 0) (o.getLsbD 1) false) sa sb 0 [a, b] (.mdrainBf16 t a b o))
      ∧ launched .mwait 0 0 0 [] (.mwait t)
      ∧ ∀ k : BitVec 4, s.free (useS [t]) →
          exec (.mqry t k) s = .next (s.wS t ((s.cluster s.myCluster).mat.query k.toNat s.cur)).passed)
  ∧ (∀ (s : State) (t a b c : BitVec 5) (o : BitVec 3) (k : BitVec 1) (v : Word),
    let trapped (op : MatOp) (x y z : Word) (regs : List (BitVec 5)) (i : Instr) : Prop :=
      let out := (op.reads x y z ++ op.writes x y).filterMap outsidePad
      s.free (useS (t :: regs)) →
        (op.badDesc y = true → exec i s = .next (s.faulted 0x140 y))
        ∧ (∀ n, op.badDesc y = false → leastOf out = some n → exec i s = .next (s.faulted 0x141 (BitVec.ofNat 32 n)))
        ∧ (op.badDesc y = false → out = [] → op.misaligned x z = some v → exec i s = .next (s.faulted 0x142 v))
    trapped (.mma false 0) (s.x a) (s.x b) (s.x c) [a, b, c] (.mmaBf16 t a b c)
      ∧ trapped (.mma true 3) (s.x a) (s.x b) (s.x c) [a, b, c] (.mmasB4 t a b c)
      ∧ trapped (.mzero (k == 1)) 0 (s.x b) 0 [b] (.mzero t b k)
      ∧ trapped (.mdrain false (o.getLsbD 0) (o.getLsbD 1) (o.getLsbD 2)) (s.x a) (s.x b) 0 [a, b] (.mdrain t a b o))

/-- R255-R258, R271-R275, R396: a copy or a pull whose checks pass is launched with its rows, its destinations and, from a pod
address, the pages that its source touches, which enter the protection buffer of the core; the first of the checks of R258 that fails
raises its cause, in the order of R258: a pod address 0x1C0, the descriptor 0x1C2, an alignment 0x1C4, a local byte 0x1C3 with the
lowest such address. Where the spec leaves a choice, it is the model's (log entries 39, 49 and 74). -/
def Obligations.PullLaunches : Prop :=
  ∀ (s : State) (t a b c : BitVec 5), s.room →
    let q := s.quad c
    let len := descLen (q 1)
    let rows := descRows (q 1)
    let pod := podAddr (s.x a) (s.x b)
    let regs := [t.toNat, a.toNat, b.toNat] ++ regsFrom c 4
    let pulls (u : List Nat) (kind : PullKind) (need : Nat) (rows : Nat) (src : List Nat) (bad : Bool) (strides : List (Word × Nat))
        (digest : List (Nat × Nat)) (i : Instr) : Prop :=
      let dst := localRows (q 0).toNat rows (q 3).toNat
      let cause := s.pullCause (some (s.x a)) (if src.isEmpty then [pod] else src) len bad (q 1) ([(s.x b, 4), (q 0, 4)] ++ strides)
        ((dst.map fun x => (x, len)) ++ digest)
      (∀ code v, s.free { s := u } → cause = some (code, v) → exec i s = .next (s.faulted code v))
      ∧ ∀ ps, s.free { s := u } → s.acquiring = false → cause = none →
        s.pagesFor need (src.flatMap (chunkAddrs len)) [] = .ok ps →
        exec i s = .next ((s.tookPages ps).launch t (.pull kind t.toNat src (dst.map s.flatLocal) len ps)).passed
    let stops (u : Uses) (cause : Option (Nat × Word)) (i : Instr) : Prop :=
      ∀ code v, s.free u → cause = some (code, v) → exec i s = .next (s.faulted code v)
    let copySrc := localRows (s.x a).toNat rows (q 2).toNat
    let copyDst := localRows (q 0).toNat rows (q 3).toNat
    let dig := (q 3).toNat
    let digestBad := badShape len rows || rows != 1 || overlaps (q 0).toNat len dig 64
    let copy : Uses := { s := [t.toNat, a.toNat] ++ regsFrom c 4 }
    let copyCause := s.pullCause none [] len (badShape len rows || bit (q 1) 31) (q 1) ([(s.x a, 4), (q 0, 4)] ++ s.strides c rows)
      ((copySrc ++ copyDst).map fun x => (x, len))
    let verify : Uses := { s := t.toNat :: regsFrom c 4 }
    let verifyCause := s.pullCause none [] len digestBad (q 1) [(q 0, 4), (q 3, 64)] [((q 0).toNat, len), (dig, 64)]
    (s.free copy → copyCause = none →
      exec (.cpy t a c) s = .next (s.launch t (.pull .cpy t.toNat (copySrc.map s.flatLocal) (copyDst.map s.flatLocal) len [])).passed)
    ∧ stops copy copyCause (.cpy t a c) ∧ stops verify verifyCause (.pulldVerify t c)
    ∧ pulls regs (.pull (bit (q 1) 31)) (pullNeed (bit (q 1) 31)) rows (rowsOf pod rows (q 2).toNat) (badShape len rows)
        (s.strides c rows) [] (.pull t a b c)
    ∧ pulls regs (.pullc (bits (q 1) 24 8)) (rdRight + conRight) 1 (rowsOf pod 1 (q 2).toNat)
        (badShape len 1 || bits (q 1) 20 4 != 0) [] [] (.pullc t a b c)
    ∧ pulls regs (.pulld (bit (q 1) 31) (s.flatLocal dig)) (pullNeed (bit (q 1) 31)) 1 (rowsOf pod 1 (q 2).toNat) digestBad
        [(q 3, 64)] [(dig, 64)] (.pulld t a b c)
    ∧ (s.free verify → verifyCause = none → exec (.pulldVerify t c) s =
        .next (s.launch t (.pull (.verify (s.flatLocal dig)) t.toNat [s.flatLocal (q 0).toNat] [] len [])).passed)
    ∧ (badShape len rows = true ↔ len = 0 ∨ len % 4 ≠ 0 ∨ 262144 < len ∨ rows = 0 ∨ 2 ^ 20 < len * rows)
    ∧ (∀ (hi : Option Word) (pods : List Nat) (len : Nat) (bad : Bool) (w1 : Word) (aligned : List (Word × Nat))
        (locals : List (Nat × Nat)), let cause := s.pullCause hi pods len bad w1 aligned locals
        (∀ h, hi = some h → notCanonical h = true → cause = some (0x1C0, h))
        ∧ ((∀ h, hi = some h → notCanonical h = false) →
            (∀ p ps qs, pods = ps ++ p :: qs → (∀ x ∈ ps, x + len ≤ 2 ^ 56 ∧ x < 2 ^ 56) →
              (2 ^ 56 ≤ p → cause = some (0x1C0, BitVec.ofNat 32 (p / 2 ^ 32)))
                ∧ (p < 2 ^ 56 → 2 ^ 56 < p + len → cause = some (0x1C0, 0x01000000)))
            ∧ ((∀ x ∈ pods, x + len ≤ 2 ^ 56 ∧ x < 2 ^ 56) →
                (bad = true → cause = some (0x1C2, w1))
                ∧ (bad = false →
                    (∀ y ys zs, aligned = ys ++ y :: zs → (∀ x ∈ ys, x.1.toNat % x.2 = 0) → y.1.toNat % y.2 ≠ 0 →
                      cause = some (0x1C4, y.1))
                    ∧ ((∀ x ∈ aligned, x.1.toNat % x.2 = 0) →
                        (∀ y, leastOf (locals.filterMap (outsideLocal s.myCluster)) = some y →
                          cause = some (0x1C3, BitVec.ofNat 32 y))
                        ∧ ((∀ r ∈ locals, outsideLocal s.myCluster r = none) → cause = none))))))
    ∧ (∀ gc x n, x < 2 ^ 32 → 0 < n →
        let here (i : Nat) : Prop := x + i < 0x40000 ∨ 0x10000000 ≤ x + i ∧ x + i < 0x10000000 + ramSize gc
          ∨ isMem gc = true ∧ 0x80000000 ≤ x + i ∧ x + i < 2 ^ 32
        ((∀ i < n, here i) → outsideLocal gc (x, n) = none)
        ∧ ∀ i < n, ¬here i → (∀ j < i, here j) → outsideLocal gc (x, n) = some ((x + i) % 2 ^ 32))
    ∧ ∀ ps, s.free { s := [t.toNat, a.toNat, b.toNat] ++ regsFrom c 2 } → s.acquiring = false → s.me.live.rt = true →
        notCanonical (s.x a) = false → a ≠ 0 → b ≠ 0 → s.migrBad c true = none → highFault [pod] (migrLen (q 1)) = none →
        s.pagesFor (rdRight + acqRight) (chunkAddrs (migrLen (q 1)) pod) [] = .ok ps →
        exec (.migrTake t a b c) s = .next ((s.tookPages ps).launch t
          (.pull .take t.toNat [pod] [s.flatLocal (q 0).toNat] (migrLen (q 1)) ps)).passed

/-- R264, R267, R269: a watch is launched with its word, page, threshold and timeout; SEQADV advances a sequence word that it finds
lower, and raises 0x1C5 with the word otherwise; WCANCEL is a deferred effect. The checks that fail raise their causes. Where the spec leaves a choice, it is the model's
(log entries 47 and 49). -/
def Obligations.WatchesAndSequences : Prop :=
  ∀ (s : State) (t a b c : BitVec 5), s.room →
    let pod := podAddr (s.x a) (s.x b)
    let watches (u : Uses) (timeout : Option Nat) (i : Instr) : Prop :=
      let cause := s.pullCause (some (s.x a)) [pod] 4 false 0 [(s.x b, 4)] []
      (∀ code v, s.free u → cause = some (code, v) → exec i s = .next (s.faulted code v))
      ∧ ∀ p, s.free u → s.acquiring = false → cause = none → s.pagesFor (rdRight + acqRight) [pod] [] = .ok [p] →
        exec i s = .next ((s.tookPages [p]).launch t (.watch t.toNat pod p (s.x c) timeout)).passed
    let x := s.x a
    let f := s.flatLocal x.toNat
    watches (useS [t, a, b, c]) none (.watch t a b c)
      ∧ watches { s := [t.toNat, a.toNat, b.toNat] ++ regsFrom c 2 } (some (s.quad c 1).toNat) (.watcht t a b c)
      ∧ (s.free (useS [a, b]) → x.toNat % 4 = 0 → 0x40000 ≤ x.toNat → outsideLocal s.myCluster (x.toNat, 4) = none →
          s.sealOf f = none →
          ((s.seqOld f).toNat < (s.x b).toNat → s.readable [f] →
            exec (.seqadv a b) s = .next
              (((s.noteRead [f]).modMe fun y => { y with region := { y.region with wsig := y.region.wsig ||| sigBits f } }).effect
                (.seqadv f (s.x b))).passed)
            ∧ ((s.x b).toNat ≤ (s.seqOld f).toNat → exec (.seqadv a b) s = .next (s.faulted 0x1C5 (s.seqOld f))))
      ∧ (s.free (useS [a, b]) →
          (x.toNat % 4 ≠ 0 → exec (.seqadv a b) s = .next (s.faulted 0x1C4 x))
          ∧ (x.toNat % 4 = 0 →
              (x.toNat < 0x40000 ∨ outsideLocal s.myCluster (x.toNat, 4) ≠ none → exec (.seqadv a b) s = .next (s.faulted 0x1C3 x))
              ∧ (0x40000 ≤ x.toNat → outsideLocal s.myCluster (x.toNat, 4) = none → s.sealOf f ≠ none →
                  exec (.seqadv a b) s = .next (s.faulted 0x386 x))))
      ∧ (s.free {} → exec (.wcancel t) s = .next (s.effect (.wcancel t.toNat)).passed)

/-- R46, R256-R262, R266: a remote load of a translated page: a valid cached line gives its word, a page whose owner is fenced raises
0x1C9, a discarded page reads 0 with STATUS.DISCARD, the slot's own cluster answers at once, a fetch of the same line is shared, and
else a fetch leaves for the owner and the load waits for it; SEQLD.A acquires, so that it neither reads the cache nor shares a fetch,
and raises 0x1C1 from outside the domain and 0x1C8 at a foreign owner. A malformed address raises 0x1C0 or 0x1C4.
Where the spec leaves a choice, it is the model's (log entries 28, 49 and 51). -/
def Obligations.RemoteLoads : Prop :=
  ∀ (s : State) (d a b : BitVec 5) (k : BitVec 9) (p : Page),
    let gc := s.myCluster
    let pod := podAddr (s.x a) (s.x b)
    let u := s.tookPages [p]
    let loads (x : Nat) (acq : Bool) (i : Instr) : Prop :=
      let word (l : List Byte) : Word := BitVec.ofNat 32 (leNat ((l.drop (x % 64)).take 4))
      s.free (useS [d, a, b]) → notCanonical (s.x a) = false → x < 2 ^ 56 → x % 4 = 0 → s.acquiring = false →
      s.translate s.cur x (if acq then 3 else 1) = .ok p → (acq = true → s.within gc p = true ∧ s.foreign p.chip = false) →
        ((acq = true ∨ s.cachedLine gc p x = none) → s.cutOff p = true → exec i s = .next (s.faulted 0x1C9 (BitVec.ofNat 32 x)))
        ∧ ((acq = true ∨ s.cachedLine gc p x = none) → s.cutOff p = false → p.disc = true →
            exec i s = .next ((u.deliver (loadS d 0)).markRead).passed)
        ∧ ((acq = true ∨ s.cachedLine gc p x = none) → s.cutOff p = false → p.disc = false → p.chip = s.chip → p.owner = gc →
            u.pageAwaited p x = none → u.acquireWaits p (if acq then .acquire else .read) x = false →
            ∀ l n, u.portLine s.cur p (if acq then .acquire else .read) x = (.line l n false, none) →
              exec i s = .next (u.deliver (loadS d (word l))).passed)
        ∧ (p.disc = false → (p.chip = s.chip → p.owner ≠ gc) →
            (∀ l, acq = false → s.cachedLine gc p x = some l → exec i s = .next (u.deliver (loadS d (word l.data))).passed)
            ∧ (∀ f, acq = false → s.cutOff p = false → s.cachedLine gc p x = none → s.sharedFetch gc p x = some f →
                exec i s = .next (u.awaitFetch d x f.id).passed)
            ∧ (s.cutOff p = false → (acq = true ∨ s.cachedLine gc p x = none ∧ s.sharedFetch gc p x = none) →
                (s.pull gc).fetches.length < 64 →
                exec i s = .next ((u.issueFetch s.cur p x acq).2.awaitFetch d x (u.issueFetch s.cur p x acq).1).passed))
    let stops (x : Nat) (i : Instr) : Prop := s.free (useS [d, a, b]) →
      (notCanonical (s.x a) = true → exec i s = .next (s.faulted 0x1C0 (s.x a)))
      ∧ (notCanonical (s.x a) = false →
          (2 ^ 56 ≤ x → exec i s = .next (s.faulted 0x1C0 (BitVec.ofNat 32 (x / 2 ^ 32))))
          ∧ (x < 2 ^ 56 → x % 4 ≠ 0 → exec i s = .next (s.faulted 0x1C4 (BitVec.ofNat 32 x))))
    loads (pod + 4 * k.toNat) false (.ldg d a b k) ∧ loads pod true (.seqldA d a b)
      ∧ stops (pod + 4 * k.toNat) (.ldg d a b k) ∧ stops pod (.seqldA d a b)
      ∧ (s.free (useS [d, a, b]) → notCanonical (s.x a) = false → pod % 4 = 0 → s.acquiring = false → s.translate s.cur pod 3 = .ok p →
          s.cutOff p = false →
          (s.within gc p = false → exec (.seqldA d a b) s = .next (s.faulted 0x1C1 (BitVec.ofNat 32 pod)))
          ∧ (s.within gc p = true → s.foreign p.chip = true →
              exec (.seqldA d a b) s = .next (s.faulted 0x1C8 (BitVec.ofNat 32 pod))))

/-- R287, R291, R395: TPART raises the first failing check, and else changes its partition by a deferred effect; an allocation takes a
kept tile, a granted one or the head of the free list, as a provisional tile with its count and lifetime, and writes its handle
GEN:OFF; without a free tile TALLOCN writes all ones, and TALLOC raises 0x249 in an atomic region, else first commits its region, with
its keys entered, and joins the waiters of the partition at the same bundle, and then waits. -/
def Obligations.TileAllocation : Prop :=
  (∀ (s : State) (a c : BitVec 5), s.free { s := a.toNat :: regsFrom c 4 } →
    let k := s.x a
    let q := s.quad c
    (∀ code v, s.tpartCause k (q 0) (q 1) (q 2) = some (code, v) → exec (.tpart a c) s = .next (s.faulted code v))
    ∧ (s.tpartCause k (q 0) (q 1) (q 2) = none → s.room →
        exec (.tpart a c) s = .next ((s.enterKeys [useKey k.toNat] [cfgKey k.toNat]).effect
          (.tpart k.toNat (q 0) (q 1) (q 2) (q 3))).passed))
  ∧ (∀ (s : State) (t a b c : BitVec 5) (p : Partition), s.free (useS [t, a, b, c]) →
    let k := s.x a
    let gc := s.myCluster
    s.tallocCause k (s.x b) = none → s.part gc k.toNat = some p →
    let u := s.enterKeys [cfgKey k.toNat] [useKey k.toNat]
    let takes (v : State) (j : Nat) (q : Partition) : Prop :=
      let x := p.tile j
      let held := v.setPart gc k.toNat
        (q.setTile j { x with state := .provisional, count := (s.x b).toNat, life := (s.x c).toNat, expiry := none })
      let taken := (held.enterKeys [tileKey (p.off j)] [tileKey (p.off j)]).wS t (BitVec.ofNat 32 (x.gen * 2 ^ 24 + p.off j))
      exec (.talloc t a b c) s = .next taken.passed ∧ exec (.tallocn t a b c) s = .next taken.passed
    let bound (j : Nat) (kept : List (Nat × Nat × Nat × Nat)) : State := u.modMe fun y => { y with region := { y.region with
      res := { y.region.res with tiles := y.region.res.tiles ++ [(k.toNat, j, p.cfg, y.region.bundles)] }
      kept := { y.region.kept with tiles := kept } } }
    (∀ r, s.me.region.keptTile k.toNat p.cfg = some r → takes (bound r.2.1 (s.me.region.kept.tiles.erase r)) r.2.1 p)
    ∧ (∀ g, s.me.region.keptTile k.toNat p.cfg = none → s.me.grant = some g → takes (u.modMe fun y => { y with grant := none }) g.2 p)
    ∧ (∀ j js, s.me.region.keptTile k.toNat p.cfg = none → s.me.grant = none → p.free = j :: js →
        takes (bound j s.me.region.kept.tiles) j { p with free := js })
    ∧ (s.me.region.keptTile k.toNat p.cfg = none → s.me.grant = none → p.free = [] →
        exec (.tallocn t a b c) s = .next (u.wS t 0xFFFFFFFF).passed
          ∧ (s.me.region.atomic = true → exec (.talloc t a b c) s = .next (s.faulted 0x249 (BitVec.ofNat 32 k.toNat)))
          ∧ (s.me.region.atomic = false → (p.waiters.any fun w => w.slot == s.cur) = true → s.me.abort = false →
              exec (.talloc t a b c) s = .next ((s.endSolo s.cur).tick s.cur 1))
          ∧ (s.me.region.atomic = false → (p.waiters.any fun w => w.slot == s.cur) = false → u.calm gc →
              u.regionHeld [s.cur] = false → u.lone →
              ∃ v, exec (.talloc t a b c) s = .next v ∧ (v.cluster gc).commits = (s.cluster gc).commits + 1
                ∧ v.me.live = s.me.live ∧ v.me.pc = s.me.pc ∧ v.me.region.first = s.me.pc ∧ v.me.region.atomic = false
                ∧ v.me.region.bundles = 0 ∧ v.me.stat.last = 4 ∧ v.me.stat.fc = true
                ∧ v.part gc k.toNat = some { p with waiters := p.waiters ++ [⟨s.cur, s.ckOf gc, s.me.level⟩] })))

/-- R19, R294-R296, R301: a consuming load of a live tile with reads left reads the elements, enters the tile's key and takes one read
from the tile, once for each region; VLDC makes no access without a lane; TABAN gives reads up. What stops LDC, VLDC and TABAN, in
order: a window number above 4 raises 0x241, a failing local check its own code, and then no tile at the offset 0x241, a tile of
another domain 0x240, a stale generation 0x242 and a tile that is not live or has no reads left 0x243, these two with a refusal in the
log; an element outside the tile raises 0x244, and TABAN of too many reads 0x245. Where the spec leaves a choice, it is the model's
(log entries 38 and 51). -/
def Obligations.ConsumingLoads : Prop :=
  (∀ (s : State) (d a b : BitVec 5) (v : BitVec 6) (m : BitVec 3) (o : BitVec 14) (r : BitVec 10) (k t : Nat) (p : Partition), s.room →
    let h := s.x a
    let key := tileKey (p.off t)
    let took (s : State) : State :=
      if s.holdsDecrement k t then s.enterKeys [key] [] else (s.enterKeys [key] [key]).effect (.consume k t p.cfg)
    let x := handleBase h + BitVec.ofInt 32 (o.toInt * 4)
    let mask := s.me.live.preg m.toNat
    let addr (i : Nat) : Word := handleBase h + BitVec.ofInt 32 (r.toInt * 64) + BitVec.ofNat 32 (4 * i)
    (∀ q, s.free (useS [d, a]) → handleWin h ≤ 4 → s.checkLocal x 4 true false (x.toNat % 4 == 0) 0x010 = none →
      s.checkHandle h x = .ok (k, p, t) → s.outsideTile p t x = false → s.locate x = some q → s.readable (q.bytes 4) →
      exec (.ldc d a o) s = .next (took ((s.touchPlace 4 q).deliver (loadS d (s.readPlace 4 q)))).passed)
    ∧ (s.free { s := [a.toNat], v := [v.toNat] } → lanesOf mask ≠ [] → handleWin h ≤ 4 →
        s.checkLanes mask addr false (fun _ => (addr 0).toNat % 64 == 0) = none →
        s.checkHandle h (((lanesOf mask).map addr).headD 0) = .ok (k, p, t) →
        (∀ i ∈ lanesOf mask, s.outsideTile p t (addr i) = false) →
        (∀ i ∈ lanesOf mask, ∀ q, s.locate (addr i) = some q → s.readable (q.bytes 4)) →
        exec (.vldc v a m r) s = .next (took (((lanesOf mask).foldl (fun t i => (t.readAt (addr i) 4).2) s).deliver
          (loadV v mask (vecOf fun i => if lane mask i then (s.readAt (addr i) 4).1 else 0)))).passed)
    ∧ (s.free { s := [a.toNat], v := [v.toNat] } → lanesOf mask = [] → exec (.vldc v a m r) s = .next s.passed)
    ∧ (s.free (useS [a, b]) → handleWin h ≤ 4 → s.checkHandle h h = .ok (k, p, t) →
        let left := (p.tile t).count - s.pendingReads k t
        let n := if s.x b = 0 then left else (s.x b).toNat
        (n ≤ left → exec (.taban a b) s = .next ((s.enterKeys [key] [key]).effect (.giveUp k t p.cfg n)).passed)
          ∧ (left < n → exec (.taban a b) s = .next (s.faulted 0x245 (s.x b)))))
  ∧ (∀ (s : State) (d a b : BitVec 5) (v : BitVec 6) (m : BitVec 3) (o : BitVec 14) (r : BitVec 10),
    let h := s.x a
    let stops (e : Nat × Word × Option Violation) : Host.Outcome State Fault Refusal :=
      .next ((match e.2.2 with | some x => s.logRefusal s.myCluster x | none => s).faulted e.1 e.2.1)
    let loads (u : Uses) (addrs : List Word) (check : Option (Nat × Word)) (i : Instr) : Prop :=
      let addr := addrs.headD 0
      s.free u → addrs ≠ [] →
        (4 < handleWin h → exec i s = .next (s.faulted 0x241 h))
        ∧ (handleWin h ≤ 4 →
          (∀ c x, check = some (c, x) → c ≠ 0x240 → exec i s = .next (s.faulted c x))
          ∧ (∀ e, check = none → s.checkHandle h addr = .error e → exec i s = stops e)
          ∧ (∀ x, check = some (0x240, x) →
              (∀ e, s.checkHandle h x = .error e → exec i s = stops e)
                ∧ (∀ y, s.checkHandle h x = .ok y → exec i s = .next (s.faulted 0x240 x)))
          ∧ (∀ k p t y, check = none → s.checkHandle h addr = .ok (k, p, t) → addrs.find? (s.outsideTile p t) = some y →
              exec i s = .next (s.faulted 0x244 y)))
    let x := handleBase h + BitVec.ofInt 32 (o.toInt * 4)
    let mask := s.me.live.preg m.toNat
    let lane (i : Nat) : Word := handleBase h + BitVec.ofInt 32 (r.toInt * 64) + BitVec.ofNat 32 (4 * i)
    loads (useS [d, a]) [x] ((s.checkLocal x 4 true false (x.toNat % 4 == 0) 0x010).map fun c => (c, x)) (.ldc d a o)
      ∧ loads { s := [a.toNat], v := [v.toNat] } ((lanesOf mask).map lane)
          (s.checkLanes mask lane false fun _ => (lane 0).toNat % 64 == 0) (.vldc v a m r)
      ∧ (s.free (useS [a, b]) → (4 < handleWin h → exec (.taban a b) s = .next (s.faulted 0x241 h))
          ∧ (handleWin h ≤ 4 → ∀ e, s.checkHandle h h = .error e → exec (.taban a b) s = stops e)))
  ∧ (∀ (s : State) (h addr : Word) (k t : Nat) (p : Partition),
    (s.tileAt s.myCluster (handleOff h) = none → s.checkHandle h addr = .error (0x241, h, none))
    ∧ (s.tileAt s.myCluster (handleOff h) = some (k, p, t) →
        (p.domain ≠ s.me.domain → s.checkHandle h addr = .error (0x240, addr, none))
        ∧ (p.domain = s.me.domain → handleGen h ≠ (p.tile t).gen →
            s.checkHandle h addr = .error (0x242, h, some (s.consumeRefusal 6 addr)))
        ∧ (p.domain = s.me.domain → handleGen h = (p.tile t).gen →
            ((p.tile t).state ≠ .live ∧ (p.tile t).state ≠ .held →
              s.checkHandle h addr = .error (0x243, h, some (s.consumeRefusal 7 addr)))
            ∧ ((p.tile t).state = .live ∨ (p.tile t).state = .held →
              (s.holdsDecrement k t = false → (p.tile t).count ≤ s.pendingReads k t →
                s.checkHandle h addr = .error (0x243, h, some (s.consumeRefusal 7 addr)))
              ∧ (s.holdsDecrement k t = true ∨ s.pendingReads k t < (p.tile t).count → s.checkHandle h addr = .ok (k, p, t))))))

/-- R304, R305, R351, R147, R166: the words that read a state and change nothing else: TQRY a tile or a partition, QSTAT a queue, RGNQ
the region's progress, each laid out in its fields, TRCR the trace of the cluster, and TRCC its control, which it changes by a deferred effect; what each may not read raises its
cause. Where the spec leaves
a choice, it is the model's (log entry 46). -/
def Obligations.QueryWords : Prop :=
  ∀ (s : State) (t a b q : BitVec 5) (p : Partition) (k j : Nat),
    let x := s.x a
    let gc := s.myCluster
    let open_ : Prop := p.domain = s.me.domain ∨ s.me.live.rt = true
    let wrote (v : Word) : Host.Outcome State Fault Refusal := .next (s.wS t v).passed
    (s.free (useS [t, a]) →
      (q = 1 → handleWin x ≤ 4 → s.tileAt gc (handleOff x) = some (k, p, j) → open_ → exec (.tqry t a q) s = wrote (p.reportTile k j x))
      ∧ (q ≠ 1 → x.toNat ≤ 15 → s.part gc x.toNat = some p → open_ → exec (.tqry t a q) s = wrote (p.report (q == 2)))
      ∧ (q ≠ 1 → x.toNat ≤ 15 → s.part gc x.toNat = none → exec (.tqry t a q) s = wrote 0)
      ∧ (q = 1 → 4 < handleWin x ∨ s.tileAt gc (handleOff x) = none → exec (.tqry t a q) s = .next (s.faulted 0x241 x))
      ∧ (q = 1 → handleWin x ≤ 4 → s.tileAt gc (handleOff x) = some (k, p, j) → ¬open_ →
          exec (.tqry t a q) s = .next (s.faulted 0x240 x))
      ∧ (q ≠ 1 → 15 < x.toNat → exec (.tqry t a q) s = .next (s.faulted 0x241 x))
      ∧ (q ≠ 1 → x.toNat ≤ 15 → s.part gc x.toNat = some p → ¬open_ → exec (.tqry t a q) s = .next (s.faulted 0x240 x))
      ∧ (badTarget x = true → exec (.qstat t a) s = .next (s.faulted 0x2C2 x))
      ∧ (badTarget x = false → s.me.live.rt = false → (s.queue x.toNat).domain ≠ s.me.domain →
          exec (.qstat t a) s = .next (s.faulted 0x2C5 x))
      ∧ (badTarget x = false → s.me.live.rt = true ∨ (s.queue x.toNat).domain = s.me.domain →
          exec (.qstat t a) s = wrote (s.queueWord x.toNat)))
    ∧ (s.free (useS [t]) → exec (.rgnq t) s = wrote s.me.region.sizeWord)
    ∧ (p.free.length ≤ 4096 → p.waiters.length ≤ 32 → p.szlog < 32 → let w := p.report false
        bit w 31 = true ∧ bit w 30 = p.pol ∧ bit w 29 = p.conf ∧ bits w 16 13 = p.free.length ∧ bits w 10 6 = p.waiters.length
          ∧ bits w 5 5 = 0 ∧ bits w 0 5 = p.szlog)
    ∧ bits (p.report true) 16 16 = min 65535 p.aband ∧ bits (p.report true) 0 16 = min 65535 p.lost
    ∧ (let y := p.tile j
       let w := p.reportTile k j x
       k < 16 → y.gen < 256 → y.count < 65536 →
        bits w 29 3 = (match y.state with | .free => 0 | .provisional => 1 | .live => 2 | .held => 3 | .quarantined => 4)
          ∧ (bit w 28 = true ↔ handleGen x = y.gen) ∧ bits w 24 4 = k ∧ bits w 16 8 = y.gen ∧ bits w 0 16 = y.count)
    ∧ (let d := s.die (x.toNat / 64)
       let mine := d.queued.filter fun l => l.target == x.toNat
       let w := s.queueWord x.toNat
       d.entries x.toNat ≤ 4096 → d.total ≤ 4096 → (∀ l ∈ mine, l.prio < 16) →
        bit w 31 = (s.queue x.toNat).en ∧ bits w 27 4 = (match firstEntry mine with | some l => l.prio | none => 0)
          ∧ (bit w 26 = true ↔ mine ≠ []) ∧ bits w 13 13 = d.entries x.toNat ∧ bits w 0 13 = 4096 - d.total)
    ∧ (let r := s.me.region
       let w := r.sizeWord
       r.effects.length ≤ 32 → (linesOf r.stores).length ≤ 256 → r.bundles < 4096 →
        bit w 31 = r.atomic ∧ bits w 25 6 = r.effects.length ∧ bits w 16 9 = (linesOf r.stores).length ∧ bits w 13 3 = 0
          ∧ bits w 0 13 = r.bundles)
    ∧ (badTarget x = false ↔ x.toNat < 2 ^ 10 ∧ x.toNat / 64 ≤ 11)
    ∧ (s.free (useS [t, a, b]) →
        (s.me.live.rt = true → ∀ h : (s.x b).toNat < 40,
          exec (.trcr t a b) s = wrote ((mget (s.cluster gc).trace (x.toNat % 1024) (Vector.replicate 40 0))[(s.x b).toNat]))
        ∧ (s.me.live.rt = true → 40 ≤ (s.x b).toNat → exec (.trcr t a b) s = .next (s.faulted 0x083 (s.x b)))
        ∧ (s.me.live.rt = false → ∀ i ∈ [.trcr t a b, .trcc t a b], exec i s = .next (s.faulted 0x082 0))
        ∧ (s.me.live.rt = true → s.x b = 0 → exec (.trcc t a b) s = wrote (s.cluster gc).traceCtl)
        ∧ (s.me.live.rt = true → s.x b ≠ 0 → s.room →
            exec (.trcc t a b) s = .next ((s.wS t (s.cluster gc).traceCtl).effect (.trace (s.x b) x)).passed))

/-- R315, R316, R323, R395: ROPEN reserves the lowest free ring, or a kept one, and writes its handle, unless its configuration (0x281),
its place (0x280), another ring (0x282) or the lack of a free one (0x283) forbids it; RCLOSE closes the ring of its
handle by a deferred effect; RECV and RECVN write the address of the first message; on an empty ring RECVN writes 0, and RECV raises
0x286 in an atomic region, else first commits its region and then waits for a commit that writes the ring's TAIL. Where the spec
leaves a choice, it is the model's (log entry 51). -/
def Obligations.RingWords : Prop :=
  (∀ (s : State) (t a b : BitVec 5) (k : Nat), s.room →
    let h := s.x a
    let c := s.x b
    let logn := bits c 0 4
    let size := ringBytes logn
    let shaped : Prop := bits c 4 27 = 0 ∧ 2 ≤ logn ∧ logn ≤ 12
    let placed : Prop := h.toNat % 256 = 0 ∧ 0x10000000 ≤ h.toNat ∧ h.toNat + size ≤ 0x10000000 + ramSize s.myCluster
      ∧ s.padForeign h.toNat size = false
    let meets (own : Nat × Nat) : Bool := ((s.ringsOf s.myCluster).erase own).any fun r => overlaps h.toNat size r.1 r.2
    (s.free (useS [t, a, b]) →
      (¬shaped → exec (.ropen t a b) s = .next (s.faulted 0x281 c))
      ∧ (shaped → ¬placed → exec (.ropen t a b) s = .next (s.faulted 0x280 h))
      ∧ (shaped → placed → s.me.region.keptRing h logn = none →
          (meets (0, 0) = true → exec (.ropen t a b) s = .next (s.faulted 0x282 h))
            ∧ (meets (0, 0) = false → s.freeRing = none → exec (.ropen t a b) s = .next (s.faulted 0x283 0)))
      ∧ (∀ r, shaped → placed → s.me.region.keptRing h logn = some r → meets (h.toNat, size) = true →
          exec (.ropen t a b) s = .next (s.faulted 0x282 h)))
    ∧
    (s.free (useS [t, a, b]) → bits c 4 27 = 0 → 2 ≤ logn → logn ≤ 12 → h.toNat % 256 = 0 → 0x10000000 ≤ h.toNat →
      h.toNat + size ≤ 0x10000000 + ramSize s.myCluster → s.padForeign h.toNat size = false →
      (s.me.region.keptRing h logn = none →
        (((s.ringsOf s.myCluster).erase (0, 0)).any fun r => overlaps h.toNat size r.1 r.2) = false → s.freeRing = some k →
        exec (.ropen t a b) s = .next (s.reserveRing t h c k s.me.region.kept.rings).passed)
      ∧ (∀ r, s.me.region.keptRing h logn = some r →
        (((s.ringsOf s.myCluster).erase (h.toNat, size)).any fun r => overlaps h.toNat size r.1 r.2) = false →
        exec (.ropen t a b) s = .next (s.reserveRing t h c r.1 (s.me.region.kept.rings.erase r)).passed))
    ∧ (s.free (useS [a]) →
        (∀ r, s.ringOf h = .ok (k, r) → exec (.rclose a) s = .next (s.effect (.rclose k)).passed)
        ∧ ∀ code, s.ringOf h = .error code → exec (.rclose a) s = .next (s.faulted code h)))
  ∧ (∀ (s : State) (t a : BitVec 5) (k : Nat) (r : Ring), s.free (useS [t, a]) → s.ringOf (s.x a) = .ok (k, r) →
    let h := flatPad s.myCluster r.header.toNat
    let tail := BitVec.ofNat 32 (s.peekNat h 4)
    let head := BitVec.ofNat 32 (s.peekNat (h + 0x40) 4)
    let found := (s.noteRead [h, h + 0x40]).wS t (r.header + 0x100 + BitVec.ofNat 32 (64 * (head.toNat % 2 ^ r.logn)))
    (s.recvWaits h = true → s.me.abort = false → exec (.recv t a) s = .next ((s.endSolo s.cur).tick s.cur 1))
    ∧ (s.readable [h, h + 0x40] →
      (tail ≠ head → exec (.recvn t a) s = .next found.passed)
      ∧ (tail ≠ head → s.recvWaits h = false → exec (.recv t a) s = .next found.passed)
      ∧ (tail = head → exec (.recvn t a) s = .next ((s.noteRead [h, h + 0x40]).wS t 0).passed)
      ∧ (tail = head → s.recvWaits h = false → s.me.region.atomic = true → exec (.recv t a) s = .next (s.faulted 0x286 (s.x a)))
      ∧ (let u := s.modMe fun y => { y with region := { y.region with rsig := y.region.rsig ||| sigBits h ||| sigBits (h + 0x40) } }
        tail = head → s.recvWaits h = false → s.me.region.atomic = false → u.calm s.myCluster → u.regionHeld [s.cur] = false →
        u.lone →
        ∃ v, exec (.recv t a) s = .next v ∧ (v.cluster s.myCluster).commits = (s.cluster s.myCluster).commits + 1
          ∧ v.me.live = s.me.live ∧ v.me.pc = s.me.pc ∧ v.me.region.first = s.me.pc ∧ v.me.region.atomic = false
          ∧ v.me.region.bundles = 0 ∧ v.me.stat.last = 4 ∧ v.me.stat.fc = true ∧ (s.cur, h) ∈ (v.cluster s.myCluster).recvs)))

/-- R318: SEND launches a message of four registers, and SENDV one of memory, to the ring whose reference's page it may send to; bits
above the pod address raise 0x288, a page that may not be sent to its own cause, and for SENDV a bad length 0x287, a payload that is
misaligned or not all local 0x289 and one in a partition of another domain 0x28A. Where the spec leaves a choice, it is the model's
(log entry 49). -/
def Obligations.SendWords : Prop :=
  ∀ (s : State) (t a b c : BitVec 5) (p : Page), s.room →
    let hi := s.x a
    let h := refHeader hi (s.x b)
    let len := (s.quad c 1).toNat
    let src := s.quad c 0
    let u := s.tookPages [p]
    let used (n : Nat) : Uses := { s := [t.toNat, a.toNat, b.toNat] ++ regsFrom c n }
    let both (o : Host.Outcome State Fault Refusal) : Prop :=
      (s.free (used 4) → exec (.send t a b c) s = o) ∧ (s.free (used 2) → exec (.sendv t a b c) s = o)
    (notCanonical hi = true → both (.next (s.faulted 0x288 hi)))
    ∧ (∀ code, notCanonical hi = false → s.translate s.cur h 8 = .cause code → both (.next (s.faulted code (BitVec.ofNat 32 h))))
    ∧ (notCanonical hi = false → s.translate s.cur h 8 = .ok p → s.free (used 2) →
        let short := len = 0 ∨ 960 < len ∨ len % 4 ≠ 0
        let placed := src.toNat % 4 = 0 ∧ outsideLocal s.myCluster (src.toNat, len) = none
        (short → exec (.sendv t a b c) s = .next (s.faulted 0x287 (s.quad c 1)))
          ∧ (¬ short → ¬ placed → exec (.sendv t a b c) s = .next (s.faulted 0x289 src))
          ∧ (¬ short → placed → ((List.range len).any fun i => s.otherPool s.me.domain (s.flatLocal src.toNat + i)) = true →
              exec (.sendv t a b c) s = .next (s.faulted 0x28A src)))
    ∧ (notCanonical hi = false → s.translate s.cur h 8 = .ok p →
    (s.free { s := [t.toNat, a.toNat, b.toNat] ++ regsFrom c 4 } →
      exec (.send t a b c) s = .next (u.launch t (.send t.toNat
        { header := h, page := p, gen := bits (s.x b) 0 8, vector := false,
          words := (List.range 4).flatMap fun i => leBytes 4 (s.quad c i).toNat, src := 0, len := 16 })).passed)
    ∧ (s.free { s := [t.toNat, a.toNat, b.toNat] ++ regsFrom c 2 } → 0 < len → len ≤ 960 → len % 4 = 0 → src.toNat % 4 = 0 →
        outsideLocal s.myCluster (src.toNat, len) = none →
        ((List.range len).any fun i => s.otherPool s.me.domain (s.flatLocal src.toNat + i)) = false →
        exec (.sendv t a b c) s = .next (u.launch t (.send t.toNat
          { header := h, page := p, gen := bits (s.x b) 0 8, vector := true, words := [], src := s.flatLocal src.toNat,
            len := len })).passed))

/-- R335-R339, R344, R358, R360, R375: the words of the task engine and of the checkpoint partners launch their requests, each once
its checks pass, and else raises the cause of its check; RKREG reserves a fresh key for its range and writes it, RKREV revokes a key of the slot's domain by a deferred
effect, and both need STATUS.RT. -/
def Obligations.TaskAndFabricLaunches : Prop :=
  (∀ (s : State) (t a b c : BitVec 5), s.room →
    let x := s.x a
    let y := s.x b
    let launched (u : Uses) (e : Effect) (i : Instr) : Prop := s.free u → exec i s = .next (s.launch t e).passed
    let record : Prop := badTarget y = false ∧ x.toNat % 4 = 0 ∧ outsideLocal s.myCluster (x.toNat, 132) = none
    let stops (u : Uses) (code : Nat) (v : Word) (i : Instr) : Prop := s.free u → exec i s = .next (s.faulted code v)
    let at_ : Uses := { s := [t.toNat, a.toNat, b.toNat] ++ regsFrom c 2 }
    (badTarget y = true → stops (useS [t, a, b]) 0x2C2 y (.submit t a b) ∧ stops at_ 0x2C2 y (.subat t a b c))
    ∧ (badTarget y = false → ¬(x.toNat % 4 = 0 ∧ outsideLocal s.myCluster (x.toNat, 132) = none) →
        stops (useS [t, a, b]) 0x2C4 x (.submit t a b) ∧ stops at_ 0x2C4 x (.subat t a b c))
    ∧ (badTarget x = true → stops (useS [t, a, b]) 0x2C2 x (.cancel t a b))
    ∧ (3 < x.toNat ∨ 1 < y.toNat → stops (useS [t, a, b]) 0x2C3 x (.fpin t a b))
    ∧ (s.me.live.rt = true →
        (bits x 10 22 ≠ 0 → stops (useS [t, a, b]) 0x306 x (.ckreg t a b) ∧ stops (useS [t, a]) 0x306 x (.ckdel t a))
          ∧ (bits x 10 22 = 0 → bits y 1 31 ≠ 0 → stops (useS [t, a, b]) 0x306 y (.ckreg t a b)))
    ∧ (record → launched (useS [t, a, b]) (.submit t.toNat y.toNat (s.flatLocal x.toNat) none) (.submit t a b)
        ∧ launched { s := [t.toNat, a.toNat, b.toNat] ++ regsFrom c 2 }
            (.submit t.toNat y.toNat (s.flatLocal x.toNat) (some (s.timeAt c))) (.subat t a b c))
    ∧ (badTarget x = false → launched (useS [t, a, b]) (.cancel t.toNat x.toNat (y.toNat % 2 ^ 16)) (.cancel t a b))
    ∧ (x.toNat ≤ 3 → y.toNat ≤ 1 → launched (useS [t, a, b]) (.fpin t.toNat x.toNat (y == 1)) (.fpin t a b))
    ∧ (s.me.live.rt = true → bits x 10 22 = 0 →
        (bits y 1 31 = 0 → launched (useS [t, a, b]) (.ckreg t.toNat x.toNat (bit y 0)) (.ckreg t a b))
          ∧ launched (useS [t, a]) (.ckdel t.toNat x.toNat) (.ckdel t a))
    ∧ (s.me.live.rt = false →
        (s.free (useS [t, a, b]) → exec (.ckreg t a b) s = .next (s.faulted 0x300 0))
          ∧ (s.free (useS [t, a]) → exec (.ckdel t a) s = .next (s.faulted 0x300 0))))
  ∧ (∀ (s : State) (t a b c : BitVec 5), s.room →
    let gc := s.myCluster
    let base := s.flatLocal (s.x a).toNat
    (s.free (useS [t, a, b, c]) → s.rkregCause (s.x a) (s.x b) (s.x c) = none → s.me.region.kept.keys = [] →
      (s.cluster gc).keys.length + (s.reservedKeys gc).length < 64 → (s.cluster gc).keysIssued < 1048575 →
      exec (.rkreg t a b c) s = .next ((s.modCluster gc fun k => { k with keysIssued := k.keysIssued + 1 }).reserveKey t
        (s.nextKey gc) base (s.x b).toNat (s.x c).toNat []).passed)
    ∧ (∀ code v, s.free (useS [t, a, b, c]) → s.rkregCause (s.x a) (s.x b) (s.x c) = some (code, v) →
        exec (.rkreg t a b c) s = .next (s.faulted code v))
    ∧ (s.free (useS [a]) →
        let mine := (s.cluster gc).keys.any fun e => e.key == (s.x a).toNat && e.domain == s.me.domain && e.revoked.isNone
        (s.me.live.rt = true → mine = true → exec (.rkrev a) s = .next (s.effect (.rkrev (s.x a).toNat)).passed)
          ∧ (s.me.live.rt = true → mine = false → exec (.rkrev a) s = .next (s.faulted 0x305 (s.x a)))
          ∧ (s.me.live.rt = false → exec (.rkrev a) s = .next (s.faulted 0x300 0))))

/-- R392, R393, R396, R400: the words of the translation engine launch invalidations, bindings of host regions and migrations, each
once its checks pass; without STATUS.RT every one raises 0x384, a malformed high register 0x1C0 and any other malformed operand
0x385, with the operand. Where the spec leaves a choice, it is the model's (log entries 18,
52 and 54). -/
def Obligations.TranslationLaunches : Prop :=
  ∀ (s : State) (t a b c : BitVec 5), s.room →
    let pod := podAddr (s.x a) (s.x b)
    let n := s.x c
    let q := s.quad c
    let launched (u : Uses) (e : Effect) (i : Instr) : Prop := s.free u → exec i s = .next (s.launch t e).passed
    let hovr : Uses := { s := [t.toNat, a.toNat, b.toNat] ++ regsFrom c 3 }
    let migr : Uses := { s := t.toNat :: regsFrom c 2 }
    let op := migrOp (q 1)
    let f := s.flatLocal (q 0).toNat
    let lines := if op = 2 then [] else linesOfRows [f] (migrLen (q 1))
    let u := s.modMe fun x => { x with region := { x.region with
      wsig := lines.foldl (fun r l => r ||| sigBits (64 * l)) x.region.wsig } }
    (s.me.live.rt = true → notCanonical (s.x a) = false → (n ≠ 0 → (s.x b).toNat % 1024 = 0) → n.toNat % 1024 = 0 →
      launched (useS [t, a, b, c]) (.invalidate t.toNat false pod n.toNat) (.plbinv t a b c)
        ∧ launched (useS [t, a, b, c]) (.invalidate t.toNat true pod n.toNat) (.xlinv t a b c))
    ∧ (s.me.live.rt = true → notCanonical (s.x a) = false → s.hovrBad c = none →
        let e : Effect := .hovr t.toNat (bit (q 0) 31) (bits (q 0) 0 6) (q 1).toNat (q 2).toNat pod
        launched hovr e (.hovrTake t a b c) ∧ launched hovr e (.hovrGive t a b c))
    ∧ (s.me.live.rt = true → s.migrBad c false = none → s.free migr →
        ∀ i ∈ [.migrSeal t c, .migrDiscard t c, .migrReclaim t c],
          exec i s = .next (u.launch t (.migr t.toNat op f (migrLen (q 1)))).passed)
    ∧ (s.me.live.rt = true →
        let stops (u : Uses) (code : Nat) (v : Word) (is : List Instr) : Prop :=
          s.free u → ∀ i ∈ is, exec i s = .next (s.faulted code v)
        let inv := [Instr.plbinv t a b c, .xlinv t a b c]
        let binds := [Instr.hovrTake t a b c, .hovrGive t a b c]
        let local_ := [Instr.migrSeal t c, .migrDiscard t c, .migrReclaim t c]
        let take : Uses := { s := [t.toNat, a.toNat, b.toNat] ++ regsFrom c 2 }
        let shaped : Prop := bits (q 1) 22 8 = 0 ∧ (migrLen (q 1) = 1024 ∨ migrLen (q 1) = 2 ^ 21)
        let placed : Prop := (q 0).toNat % migrLen (q 1) = 0 ∧ ownRange s.myCluster (q 0).toNat (migrLen (q 1)) = true
        (notCanonical (s.x a) = true → stops (useS [t, a, b, c]) 0x1C0 (s.x a) inv ∧ stops hovr 0x1C0 (s.x a) binds
          ∧ stops take 0x1C0 (s.x a) [.migrTake t a b c])
        ∧ (¬(shaped ∧ op ≠ 1) → stops migr 0x385 (q 1) local_)
        ∧ (shaped → op ≠ 1 → ¬placed → stops migr 0x385 (q 0) local_)
        ∧ (notCanonical (s.x a) = false →
            (n ≠ 0 → (s.x b).toNat % 1024 ≠ 0 → stops (useS [t, a, b, c]) 0x385 (s.x b) inv)
            ∧ ((n ≠ 0 → (s.x b).toNat % 1024 = 0) → n.toNat % 1024 ≠ 0 → stops (useS [t, a, b, c]) 0x385 n inv)
            ∧ (bits (q 0) 6 25 ≠ 0 → stops hovr 0x385 (q 0) binds)
            ∧ (bits (q 0) 6 25 = 0 →
                (Config.clusters ≤ (q 1).toNat ∨ isMem (q 1).toNat = false → stops hovr 0x385 (q 1) binds)
                ∧ ((q 1).toNat < Config.clusters → isMem (q 1).toNat = true →
                    (q 2).toNat % 2 ^ 21 ≠ 0 ∨ hbmSize < (q 2).toNat + (s.region (bits (q 0) 0 6)).len.toNat →
                    stops hovr 0x385 (q 2) binds))
            ∧ (a = 0 ∨ b = 0 ∨ ¬(shaped ∧ op = 1) → stops take 0x385 (q 1) [.migrTake t a b c])
            ∧ (a ≠ 0 → b ≠ 0 → shaped → op = 1 →
                (¬placed → stops take 0x385 (q 0) [.migrTake t a b c])
                ∧ (placed → 2 ^ 56 < pod + migrLen (q 1) → stops take 0x1C0 0x01000000 [.migrTake t a b c]))))
    ∧ (s.me.live.rt = false →
        (s.free (useS [t, a, b, c]) → ∀ i ∈ [.plbinv t a b c, .xlinv t a b c], exec i s = .next (s.faulted 0x384 0))
          ∧ (s.free hovr → ∀ i ∈ [.hovrTake t a b c, .hovrGive t a b c], exec i s = .next (s.faulted 0x384 0))
          ∧ (s.free migr → ∀ i ∈ [.migrSeal t c, .migrDiscard t c, .migrReclaim t c], exec i s = .next (s.faulted 0x384 0)))

/-! ## Steps of the engines (log entry 1): what each does when what it waits for has come -/

/-- R40, R43, R133, R143, R152, R156, R163: the steps of the commit unit and the barriers: the oldest request of a cluster that is not
held, a ready completion, the region of a slot or the work of an engine, is committed; of one ck the engines' come first, in the order
of R156, then the regions by slot. A work's commit is granted when no such request comes before its own, and is requested otherwise.
Late load data arrive; a pending asynchronous cause is taken at a boundary, with the kept region of a fresh slot, and an exhausted
budget in its place among them; a waiting solo run starts alone and ends after 16,384 ck; a full barrier phase ends the waits of its
slots. Where the spec leaves a choice, it is the model's (log entries 1, 11, 21, 45 and 71). -/
def Obligations.CommitUnitSteps : Prop :=
  ∀ (s : State) (gc g n : Nat) (v : Word) (d : Done) (l : Load) (p : Phase) (level scope domain b : Nat),
    let first := (s.requests gc).find? fun r => !s.requestHeld gc r
    let made := s.modCluster gc fun c => { c with ready := c.ready.erase (n, d) }
    (first = none → exec (.commit gc) s = .next (s.serveInbound gc))
    ∧ (first = some (n, .done d) →
        (d.work = .token → exec (.commit gc) s = .next (made.finishDone gc d))
        ∧ (∀ id w, d.work = .cancel id → s.watchOf gc id = some w → exec (.commit gc) s = .next ((s.dropWatch gc w).finishDone gc d))
        ∧ (d.work ≠ .token → (∀ id, d.work ≠ .cancel id) →
            exec (.commit gc) s = .next ((s.work gc d.work).forget gc d.work)))
    ∧ (d.engine ≠ 0 → s.finishDone gc d =
        (if d.disc then s.modSlot d.slot Slot.markDiscard else s).complete gc d.engine d.slot d.st d.state [])
    ∧ (first = some (n, .region g) → exec (.commit gc) s = .next (s.retryCommit g))
    ∧ (s.requestHeld gc (n, .done d) = (s.linesHeld gc d.lines || s.workHeld gc n d.work))
    ∧ (s.requestHeld gc (n, .region g) = s.regionHeld (s.gangOf g))
    ∧ (∀ lines, s.linesHeld gc lines = true ↔ s.stopped gc = true ∨ (s.cluster gc).fenced = true ∨ s.soloHolds gc [] = true
        ∨ ∃ i ∈ lines, ∃ r ∈ (s.cluster gc).busy, r.line ≤ i ∧ i < r.line + r.lines)
    ∧ ((n, .done d) ∈ s.requests gc ↔ (n, d) ∈ (s.cluster gc).ready ∧ s.stands gc d.work = true)
    ∧ ((n, .region g) ∈ s.requests gc ↔
        g ∈ s.slotsOf gc ∧ (s.gangOf g).headD g = g ∧ ∃ a pc, (s.slot g).wait = some (.commit a pc n))
    ∧ ((s.cluster gc).ready.Pairwise (fun a b => requestBefore (b.1, .done b.2) (a.1, .done a.2) = false) →
        (s.requests gc).Pairwise fun a b => requestBefore b a = false)
    ∧ (∀ a b : Nat × CommitRequest, requestBefore a b = true ↔ a.1 < b.1 ∨ a.1 = b.1 ∧
        ((∃ x y, a.2 = .done x ∧ b.2 = .done y ∧ (x.engine < y.engine ∨ x.engine = y.engine ∧ x.no < y.no))
          ∨ (∃ x y, a.2 = .done x ∧ b.2 = .region y) ∨ (∃ x y, a.2 = .region x ∧ b.2 = .region y ∧ slotIx x < slotIx y)))
    ∧ (let r : Nat × CommitRequest := (s.askedAt gc d.work, .done d)
       (s.grants gc d = true ↔ s.requestHeld gc r = false
          ∧ ∀ q ∈ s.requests gc, q.2.same r.2 = false → requestBefore r q = false → s.requestHeld gc q = true)
        ∧ (s.askedAt gc d.work, d) ∈ ((s.defer gc d).cluster gc).ready
        ∧ s.askedAt gc d.work = (((s.cluster gc).ready.find? fun r => r.2.work == d.work).map (·.1)).getD (s.ckOf gc))
    ∧ ((s.slot g).loads[n]? = some l → l.fetch = none →
        exec (.loadDataArrival g n) s = .next (s.modSlot g fun x => x.arrives n l))
    ∧ (s.exhausted g = true → (s.slot g).live.gsize = 0 → exec (.asyncTrapEntry g) s = exec (.budgetExhausted g) s)
    ∧ (∀ code, s.exhausted g = false → s.asyncReady g = true → (s.slot g).live.gsize = 0 → (s.slot g).live.ta = false →
        firstAsync (s.slot g).async = some (code, v) → code ≠ 0x2C1 → code ≠ 0x3C1 → code < 1024 →
        (s.slot g).region.byCommit = true →
        (s.slot g).region.bundles = 0 → (s.slot g).region.res.tiles = [] → (s.slot g).region.kept.tiles = [] → s.tallocs g = false →
        ∃ t, exec (.asyncTrapEntry g) s = .next t
          ∧ (t.slot g).live = { (s.slot g).live with
              epc := (s.slot g).region.first &&& 0xFFFFFFFC, cause := BitVec.ofNat 32 (0xC0000000 + code), tval := v,
              status := withBit (s.slot g).live.status 9 true }
          ∧ (t.slot g).pc = (s.slot g).live.tvec &&& 0xFFFFFFC0 ∧ (t.slot g).async = dropAsync (s.slot g).async (code, v)
          ∧ t.mem = s.mem)
    ∧ (s.firstSolo gc = some g → s.soloHolds gc (s.gangOf g) = false →
        exec (.soloRunStart gc) s = .next ((s.gangOf g).foldl (fun s m => s.modSlot m fun x =>
          { x with solo := some (s.ckOf gc), soloWait := none }) s))
    ∧ (∀ t, (s.slot g).solo = some t → t + Config.soloCk ≤ s.ckOf (clusterOf g) →
        exec (.soloRunTimeout g) s = .next ((s.gangOf g).foldl (fun s m => s.modSlot m fun x => { x with solo := none }) s))
    ∧ (s.phases.find? (s.fullPhase level scope domain b) = some p →
        ∃ t, exec (.barrierPhaseComplete level scope domain b) s = .next t ∧ t.phases = s.phases.erase p
          ∧ (∀ m ∈ p.arrived, p.b ∉ (t.slot m).arrivals)
          ∧ (3 ≤ p.level → ∀ m ∈ p.arrived, (t.pull (clusterOf m)).cache = []) ∧ t.mem = s.mem)

/-- R220-R240: the steps of the matrix engine's commands: operands come into staging in the order of a core's queue and while they fit,
a command starts by the rules of R237, an MWLD opens an entry or shares a clean one, the weight read port's tile completes every MWLD
that waits for it, a request starts bound to its slot's entry, a port takes its next command by R238 and completes it, and an MWAIT
ends behind the slot's earlier commands. Work that ends leaves a ready completion; the commit, once granted, writes the command's
change, its bytes and its token. Where the spec leaves a choice, it is the model's (log entries 1, 14, 22, 65, 71 and 74). -/
def Obligations.MatrixCommandSteps : Prop :=
  ∀ (s : State) (gc seq : Nat) (c : MatCmd),
    let m := s.mat gc
    let mates := m.cmds.filter fun x => coreOf x.slot == coreOf c.slot
    (m.cmd seq = some c → c.fetch = .pending →
      exec (.matrixAFetchDone gc seq) s = .next (if s.stages gc c then (s.stageMat gc c).settle gc else s))
    ∧ (s.stages gc c = true ↔ (∀ x ∈ mates, x.seq < c.seq → x.fetch ≠ .pending)
        ∧ ((mates.map MatCmd.staged).sum + c.operands ≤ 65536 ∨ ∃ r ∈ s.requests gc, s.requestHeld gc r = true))
    ∧ (let rs := c.op.fetches c.a c.b c.c
       let staged := (((s.noteEngineRead gc c.slot rs).release gc 0 c.seq).modMat gc fun m => m.setCmd { c with fetch := s.fetched gc c }).regroup gc
       (c.stage = .queued → s.stageMat gc c = staged)
        ∧ (∀ a, s.foreignByte gc c.domain.toNat rs = some a → s.fetched gc c = .fault (BitVec.ofNat 32 a))
        ∧ (∀ l, s.foreignByte gc c.domain.toNat rs = none → s.faultyPad gc rs = some l → s.fetched gc c = .error (BitVec.ofNat 32 l))
        ∧ (∀ sparse ty, s.foreignByte gc c.domain.toNat rs = none → s.faultyPad gc rs = none → c.op = .mma sparse ty →
            s.fetched gc c = .done
              ((List.range (descM c.b)).map fun i => s.padBytes gc (c.a.toNat + i * rowStep sparse ty c.c) (rowBytes sparse ty))
              (if ty = 3 then (List.range (descM c.b)).map fun i => s.padBytes gc (c.c.toNat + i * scaleBytes sparse) (scaleBytes sparse)
                else [])
              (if sparse then s.padBytes gc (0x10000000 + descMdoff c.b * 1024) 1024 else [])))
    ∧ (∀ ty rows sc md, c.op = .mma true ty → c.fetch = .done rows sc md →
        let pairs (i : Nat) : Prop := byteAt md i % 16 ∈ [3, 5, 6, 9, 10, 12] ∧ byteAt md i / 16 ∈ [3, 5, 6, 9, 10, 12]
        ((∀ i < 1024, pairs i) → c.fetchFault = none)
        ∧ ∀ i < 1024, ¬pairs i → (∀ j < i, pairs j) → c.fetchFault = some (0x82, 0x154, 0x10000000 + descMdoff c.b * 1024 + i))
    ∧ (m.cmd seq = some c → c.stage = .queued → m.startable c = true →
        (∀ fmt, c.op = .mwld fmt → exec (.matrixCommandStart gc seq) s = .next ((s.startMwld gc c fmt).settle gc))
        ∧ (∀ sparse ty, c.op = .mma sparse ty → exec (.matrixCommandStart gc seq) s = .next ((s.startMma gc c sparse ty).settle gc))
        ∧ (c.op.onPort = true → exec (.matrixCommandStart gc seq) s =
            .next (s.modMat gc fun m => m.setCmd { c with stage := .started })))
    ∧ (∀ fmt, let n := { m with bind := mdel m.bind c.slot }.tidy
        let same := n.staging.find? fun e => e.2.clean && e.2.addr == c.a && e.2.fmt == fmt && e.2.plane == c.b
        (∀ i e, same = some (i, e) → e.data.isSome = true → s.startMwld gc c fmt =
          ((s.release gc 0 c.seq).modMat gc fun _ => { n with bind := mput n.bind c.slot i }).endMat gc c 0x00 none)
        ∧ (∀ i e, same = some (i, e) → e.data = none → s.startMwld gc c fmt = (s.release gc 0 c.seq).modMat gc fun _ =>
            { n with bind := mput n.bind c.slot i }.setCmd { c with stage := .reading i })
        ∧ (∀ a, same = none → s.foreignByte gc c.domain.toNat (c.op.reads c.a c.b c.c) = some a →
            s.startMwld gc c fmt = (s.modMat gc fun _ => n).endMat gc c 0x40 (some (0x151, a)))
        ∧ (same = none → s.foreignByte gc c.domain.toNat (c.op.reads c.a c.b c.c) = none →
            s.startMwld gc c fmt = s.modMat gc fun _ =>
              ({ n with
                  bind := mput n.bind c.slot c.seq
                  staging := mput n.staging c.seq { addr := c.a, fmt := fmt, plane := c.b, clean := true, data := none } }.setCmd
                { c with stage := .reading c.seq }).serveWeights))
    ∧ (∀ sparse ty, let owned := m.owns (descAcc c.b) c.slot
        let serves (e : Staging) : Bool := if ty = 3 then e.fmt == (if sparse then 4 else 3) else e.fmt == ty
        (∀ i e, c.fetchFault = none → owned = true → mfind m.bind c.slot = some i → mfind m.staging i = some e → serves e = true →
          s.startMma gc c sparse ty = s.modMat gc fun m => m.setCmd { c with stage := .started, entry := some i })
        ∧ (∀ code a st, c.fetchFault = some (st, code, a) → st ≠ 0x82 → s.startMma gc c sparse ty = s.endMat gc c st (some (code, a)))
        ∧ (∀ code a, c.fetchFault = some (0x82, code, a) →
            (owned = false → s.startMma gc c sparse ty = s.endMat gc c 0x40 none)
            ∧ (owned = true → mfind m.bind c.slot = none → s.startMma gc c sparse ty = s.endMat gc c 0x80 none)
            ∧ (∀ i e, owned = true → mfind m.bind c.slot = some i → mfind m.staging i = some e →
                s.startMma gc c sparse ty = if serves e then s.endMat gc c 0x82 (some (code, a)) else s.endMat gc c 0x80 none))
        ∧ (c.fetchFault = none → c.fetch ≠ .pending → owned = false → s.startMma gc c sparse ty = s.endMat gc c 0x40 none)
        ∧ (c.fetchFault = none → c.fetch ≠ .pending → owned = true → mfind m.bind c.slot = none →
            s.startMma gc c sparse ty = s.endMat gc c 0x80 none)
        ∧ (∀ i e, c.fetchFault = none → c.fetch ≠ .pending → owned = true → mfind m.bind c.slot = some i → mfind m.staging i = some e →
            serves e = false → s.startMma gc c sparse ty = s.endMat gc c 0x80 none))
    ∧ (m.weights.cmd = some seq → m.cmd seq = some c → exec (.mwldReadComplete gc seq) s = .next ((s.endRead gc c).settle gc))
    ∧ (∀ fmt, c.op = .mwld fmt → let ranges := c.op.reads c.a c.b c.c
        let waiting := m.cmds.filter fun x => x.stage == .reading c.seq
        let tile := s.padBytes gc c.a.toNat (tileBytes fmt)
        let plane := if planeBytes fmt = 0 then [] else s.padBytes gc c.b.toNat (planeBytes fmt)
        let freed := s.modMat gc fun m => { m with weights := { m.weights with cmd := none } }
        let read := freed.modMat gc fun m => { m with
          staging := m.staging.map fun e => if e.1 = c.seq then (e.1, { e.2 with data := some (tile, plane) }) else e }
        let dead := freed.modMat gc fun m => { m with bind := m.bind.filter fun b => b.2 != c.seq, staging := mdel m.staging c.seq }
        (s.faultyPad gc ranges = none → s.endRead gc c = (waiting.foldl (fun s x =>
          (s.noteEngineRead gc x.slot ranges).endMat gc x 0x00 none) read).modMat gc Matrix.serveWeights)
        ∧ ∀ l, s.faultyPad gc ranges = some l → s.endRead gc c =
            ((m.cmds.filter fun x => x.entry == some c.seq && !x.isEnded).foldl
              (fun s x => s.endMat gc { x with entry := none } 0x80 none)
              (waiting.foldl (fun s x => s.endMat gc x 0x81 (some (0x153, l))) dead)).modMat gc Matrix.serveWeights)
    ∧ (∀ k again, m.port.cmd = none → m.port.choose (m.cmds.filter fun c => c.stage == .started && c.op.onPort) = some (k, again) →
        ∃ t, exec (.accPortServe gc) s = .next t ∧ (t.mat gc).port.cmd = some k.seq ∧ (t.mat gc).port.core = coreOf k.slot
          ∧ (t.mat gc).port.granted = (if again then m.port.granted + 1 else 1)
          ∧ (t.mat gc).cmds = m.cmds ∧ t.mem = s.mem ∧ t.slots = s.slots)
    ∧ (∀ (p : MatPort) (started : List MatCmd),
        (started ≠ [] → (p.choose started).isSome = true)
        ∧ ∀ k again, p.choose started = some (k, again) →
          let of (core : Nat) := started.filter fun x => x.level == k.level && coreOf x.slot == core
          (∀ x ∈ started, x.level ≤ k.level) ∧ (of (coreOf k.slot)).head? = some k
            ∧ (again = true ↔ coreOf k.slot = p.core ∧ p.granted < ((of p.core).map MatCmd.slot).eraseDups.length)
            ∧ (again = false → ∃ i < 8, coreOf k.slot = (p.core + 1 + i) % 8 ∧ ∀ j < i, of ((p.core + 1 + j) % 8) = []))
    ∧ (let u := s.settle gc
       let m := u.mat gc
       let k := descAcc c.b
       let port (ws : FMap Byte) := s.closes u gc (c.asks (.port c.seq) ws)
       (m.cmd seq = some c → c.op = .mwait → c.isEnded = false → m.startable c = true →
          s.closes u gc (c.asks (.mwait seq) []) (.mwaitDone gc seq) fun v => v.failMat gc c 0x00)
        ∧ (∀ claim, m.port.cmd.bind m.cmd = some c → c.op = .mzero claim → port [] (.mzeroDone gc) fun v =>
            if claim = true ∧ mfind m.owner k = none then v.completeMat gc c 0x00 [] 0 fun m =>
              { m.setRows k 0 64 (fun _ _ => 0) with owner := mput m.owner k (c.slot, c.domain) }
            else if m.owns k c.slot then
              v.completeMat gc c 0x00 [] 0 fun m => m.setRows k (descRow0 c.b) (descM c.b) fun _ _ => 0
            else v.failMat gc c 0x40)
        ∧ (∀ bf16 release zero fill, m.port.cmd.bind m.cmd = some c → c.op = .mdrain bf16 release zero fill →
          (m.owns k c.slot = false → port [] (.mdrainDone gc) fun v => v.failMat gc c 0x40)
          ∧ (m.owns k c.slot = true → fill = false →
              (∀ a, u.foreignByte gc c.domain.toNat (c.op.writes c.a c.b) = some a →
                port [] (.mdrainDone gc) fun v => v.faultMat gc c 0x40 0x152 a)
              ∧ (u.foreignByte gc c.domain.toNat (c.op.writes c.a c.b) = none →
                  let d := m.drained gc c bf16
                  (u.writesSealed d.1 = true → port [] (.mdrainDone gc) fun v => v.failMat gc c 0x40)
                  ∧ (u.writesSealed d.1 = false → port d.1 (.mdrainDone gc) fun v =>
                      v.completeMat gc c 0x00 d.1 d.2 fun m => m.afterDrain c release zero)))
          ∧ (m.owns k c.slot = true → fill = true →
              (∀ a, c.fetch = .fault a → port [] (.mdrainDone gc) fun v => v.faultMat gc c 0x40 0x152 a.toNat)
              ∧ (∀ a, c.fetch = .error a → port [] (.mdrainDone gc) fun v => v.faultMat gc c 0x81 0x153 a.toNat)
              ∧ (∀ rows x y, c.fetch = .done rows x y → port [] (.mdrainDone gc) fun v =>
                  v.completeMat gc c 0x00 [] 0 fun m => m.setRows k (descRow0 c.b) (descM c.b) fun i n =>
                    BitVec.ofNat 32 (leNat (((rows.getD i []).drop (4 * n)).take 4))))))
    ∧ (∀ state cause, let t := s.endMat gc c state cause
        t.slots = s.slots ∧ t.mem = s.mem ∧ (t.cluster gc).commits = (s.cluster gc).commits
          ∧ ∃ ck, (ck, ({ engine := 0, slot := c.slot, st := c.st, state := state, disc := false, no := c.seq } : Done))
            ∈ (t.cluster gc).ready)
    ∧ (∀ state ws f change, let t := s.completeMat gc c state ws f change
        (t.cluster gc).commits = (s.cluster gc).commits + 1
          ∧ t.mem = storeBytes s.mem (ws.filter fun b => s.aliasOf b.1 = none)
          ∧ (t.mat gc).acc = (change m).acc ∧ (t.mat gc).owner = (change m).owner
          ∧ (t.mat gc).cmds = (change m).cmds.filter fun x => x.seq != c.seq)

/-- R98-R100, R229-R231, R241-R247: the steps of the Onion: a started product enters with its hold budget, a group becomes due at its
time, the array loads a tile and holds it, a pass is issued with the staged members of the first due group, and when it ends each
member is ready to complete, in launch order. A request may join a group of its entry, operation and MDOFF that has room in 64 rows,
whose members are of its domain, or XSTK is on and no confined partition holds the tile, and whose metadata, if known, is equal. A
completed product leaves in rows ROW0 on of its accumulator what the groups of 16
products, or 32 of a block format, add one by one, each exact sum rounded once; its slot's flags are those of the rows. Where the spec
leaves a choice, it is the model's (log entries 1 and 65). -/
def Obligations.OnionSteps : Prop :=
  (∀ (s : State) (gc j i : Nat) (c : MatCmd) (cs : List MatCmd) (g : Group) (qs : List Nat),
    let m := s.mat gc
    let inside := m.groups.foldl (fun n g => n + g.members.length) 0
    ((m.cmds.filter fun c => c.stage == .started && (match c.op with | .mma _ _ => true | _ => false)) = c :: cs → inside < 16 →
      exec (.onionEnter gc) s = .next ((s.modMat gc fun m => m.setCmd { c with stage := .onion }).joinOnion gc { c with stage := .onion }
        { seq := c.seq, entered := s.ckOf gc, hold := if descNow c.b then 0 else holdBudget c.level }))
    ∧ (m.groups[j]? = some g → g.dueAt ≤ s.ckOf gc ∨ 64 ≤ m.rowsOf g →
        ∃ t, exec (.onionGroupDue gc j) s = .next t ∧ (t.mat gc).groups[j]? = some { g with due := true } ∧ t.slots = s.slots)
    ∧ (m.array = none → m.readyGroup = some g → m.entryOf g = some i → m.latched ≠ some i →
        exec (.arrayLoad gc) s = .next (s.modMat gc fun m => { m with array := some (.load i), latched := none }))
    ∧ (m.array = some (.load i) →
        exec (.arrayLoadDone gc) s = .next (s.modMat gc fun m => { m with array := none, latched := some i }))
    ∧ (m.array = none → m.readyGroup = some g → m.entryOf g = some i → m.latched = some i → (∀ k ∈ g.members, m.staged k = true) →
        m.misfits g = [] →
        exec (.passIssue gc) s = .next (s.modMat gc fun m =>
          { m with array := some (.pass (g.members.map Member.seq)), groups := m.groups.filter fun h => h.members != g.members }))
    ∧ (m.array = some (.pass qs) →
        exec (.passEnd gc) s = .next (((sortNat qs).foldl (fun s q =>
          match (s.mat gc).cmd q with | some c => s.endMat gc c 0x00 none | none => s)
          (s.modMat gc fun m => { m with array := none })).settle gc)))
  ∧ (∀ (s : State) (gc e : Nat) (c : MatCmd) (x : Staging) (sparse : Bool) (ty : Nat) (rows scales : List (List Byte))
      (mdata tile plane : List Byte),
    let m := s.mat gc
    let k := descAcc c.b
    let row0 := descRow0 c.b
    let out (i n : Nat) : Word × Flags :=
      accumulate (m.elem k (row0 + i) n) (groupsOf sparse ty (rows.getD i []) (scales.getD i []) tile plane mdata n)
    c.op = .mma sparse ty → c.stage = .ended 0x00 none → c.fetch = .done rows scales mdata → c.entry = some e →
    mfind m.staging e = some x → x.data = some (tile, plane) → row0 + descM c.b ≤ 64 →
    let t := s.finishMat gc c
    (∀ i n, i < descM c.b → n < 64 → (t.mat gc).elem k (row0 + i) n = (out i n).1)
      ∧ (∀ r n, r < 64 → n < 64 → r < row0 ∨ row0 + descM c.b ≤ r → (t.mat gc).elem k r n = m.elem k r n)
      ∧ (∀ j r n, j ≠ k → (t.mat gc).elem j r n = m.elem j r n)
      ∧ t.mem = s.mem ∧ (t.cluster gc).commits = (s.cluster gc).commits + 1
      ∧ (t.slot c.slot).live.status = setFlags (s.slot c.slot).live.status
          ((List.range (descM c.b)).foldl (fun f i => (List.range 64).foldl (fun f n => f ||| (out i n).2) f) 0))
  ∧ (∀ (acc : Word) (gs : List (List (FVal × FVal))) (g : List (FVal × FVal)),
    accumulate acc [] = (acc, 0)
      ∧ accumulate acc (gs ++ [g]) =
          (let a := accumulate acc gs
           let r := groupRound g
           let t := accAdd (f32 a.1) (f32 r.1)
           (t.1, a.2 ||| r.2 ||| t.2)))
  ∧ (∀ (row scales tile plane mdata : List Byte) (n ty k b0 b1 : Nat) (a w : FVal) (s : Bool) (p : Nat) (e : Int),
    let half (bs : List Byte) (o : Nat) : FVal := fmtBF16.decode (byteAt bs o + 256 * byteAt bs (o + 1))
    let groups (count size : Nat) (f : Nat → FVal × FVal) : List (List (FVal × FVal)) :=
      (List.range count).map fun g => (List.range size).map fun j => f (size * g + j)
    let dense (ty : Nat) := groupsOf false ty row scales tile plane mdata n
    dense 0 = groups 4 16 (fun k => (half row (2 * k), half tile (128 * k + 2 * n)))
      ∧ dense 1 = groups 4 16 (fun k => (fmtE4M3.decode (byteAt row k), fmtE4M3.decode (byteAt tile (64 * k + n))))
      ∧ dense 2 = groups 4 16 (fun k => (fmtE5M2.decode (byteAt row k), fmtE5M2.decode (byteAt tile (64 * k + n))))
      ∧ dense 3 = groups 2 32 (fun k => (b4Value (byteAt scales (k / 32)) (codeAt row 0 k),
          b4Value (byteAt plane (2 * n + k / 32)) (codeAt (tile.drop (32 * n)) 0 k)))
      ∧ groupsOf true ty row scales tile plane mdata n = (let size := if ty = 3 then 32 else 16
          (List.range (128 / size)).map fun g => (List.range size).flatMap fun j => let k := g * size + j
            product (rowElem ty row scales k) ((storedRow mdata n k).map (weightElem true ty tile plane n)))
      ∧ product a (some w) = [(a, w)] ∧ product (.nan s p) none = [] ∧ product (.inf s) none = []
      ∧ product (.fin s p e) none = [(.fin s p e, .fin false 0 0)]
      ∧ (b0 < b1 → b1 < 4 → metaOf mdata n (k / 4) = 2 ^ b0 + 2 ^ b1 →
          storedRow mdata n k = if k % 4 = b0 then some (k / 4 * 2) else if k % 4 = b1 then some (k / 4 * 2 + 1) else none))
  ∧ (∀ (ps : List (FVal × FVal)) (xs : List ((Bool × Nat × Int) × (Bool × Nat × Int))),
    let fin (x : Bool × Nat × Int) : FVal := .fin x.1 x.2.1 x.2.2
    let low := xs.foldl (fun a p => min a (p.1.2.2 + p.2.2.2)) 0
    let sum := (xs.map fun p => scaled (p.1.1 != p.2.1) (p.1.2.1 * p.2.2.1) (p.1.2.2 + p.2.2.2) low).sum
    let nan := ∃ p ∈ ps, p.1.isNaN = true ∨ p.2.isNaN = true
    let void := ∃ p ∈ ps, (p.1.isZero = true ∧ p.2.isInf = true) ∨ (p.1.isInf = true ∧ p.2.isZero = true)
    let inf (neg : Bool) := ∃ p ∈ ps, (p.1.isInf = true ∨ p.2.isInf = true) ∧ p.1.isZero = false ∧ p.2.isZero = false
      ∧ (p.1.sign != p.2.sign) = neg
    (nan → groupRound ps = (nanF32, 0))
      ∧ (¬nan → void ∨ (inf false ∧ inf true) → groupRound ps = (0x7FC00000, flagNV))
      ∧ (¬nan → ¬void → inf false → ¬inf true → groupRound ps = (0x7F800000, 0))
      ∧ (¬nan → ¬void → inf true → ¬inf false → groupRound ps = (0xFF800000, 0))
      ∧ (sum ≠ 0 → groupRound (xs.map fun p => (fin p.1, fin p.2)) = rneF32 (.fin (sum < 0) sum.natAbs low))
      ∧ (sum = 0 → groupRound (xs.map fun p => (fin p.1, fin p.2)) =
          (if ∀ p ∈ xs, p.1.2.1 * p.2.2.1 = 0 ∧ p.1.1 ≠ p.2.1 then 0x80000000 else 0, 0)))
  ∧ (∀ (acc g : FVal) (v w : Bool) (m n : Nat) (d e : Int),
    let low := min d e
    let sum := scaled v m d low + scaled w n e low
    let inf (neg : Bool) : Word := if neg then 0xFF800000 else 0x7F800000
    (acc.isNaN = true ∨ g.isNaN = true → accAdd acc g = (0x7FC00000, 0))
      ∧ accAdd (.inf v) (.inf w) = (if v = w then (inf v, 0) else (0x7FC00000, flagNV))
      ∧ accAdd (.inf v) (.fin w n e) = (inf v, 0) ∧ accAdd (.fin v m d) (.inf w) = (inf w, 0)
      ∧ (sum ≠ 0 → accAdd (.fin v m d) (.fin w n e) = rneF32 (.fin (sum < 0) sum.natAbs low))
      ∧ (sum = 0 → accAdd (.fin v m d) (.fin w n e) = (if v = true ∧ w = true then 0x80000000 else 0, 0)))
  ∧ ∀ (s : State) (gc : Nat) (c r : MatCmd) (rs : List MatCmd) (g : Group) (e : Staging),
    let m := s.mat gc
    let mdoff (c : MatCmd) := match c.op with | .mma true _ => descMdoff c.b | _ => 0
    (m.cmdsOf g = [] → s.joins gc c g = false)
      ∧ (m.cmdsOf g = r :: rs → (c.entry.bind fun k => mfind m.staging k) = some e →
        (s.joins gc c g = true ↔
          (r.entry = c.entry ∧ r.op = c.op ∧ mdoff r = mdoff c)
            ∧ ((r :: rs).map fun x => descM x.b).sum + descM c.b ≤ 64
            ∧ ((∀ x ∈ r :: rs, x.domain = c.domain)
              ∨ ((s.modeOf gc).getLsbD 2 = true
                ∧ ∀ p ∈ (s.cluster gc).parts, p.2.conf = true →
                    e.addr.toNat + tileBytes e.fmt ≤ p.2.base ∨ p.2.base + p.2.count * 2 ^ p.2.szlog ≤ e.addr.toNat))
            ∧ ∀ x y, r.meta = some x → c.meta = some y → x = y))

/-- R254, R259-R262, R271-R278: the steps of the pull unit: the owner of a line in the module answers its request, a peer's answer is
taken, an answered load fetch ends and its loads get their words or their cause, old cached lines go, the sources of a copy or a verify
are read and their ranges released, and an operation that has its bytes leaves the unit: in one commit of its bytes and its token, an
acquire cleaning the cache first, or with the failure alone; a footprint pull reports to its slice. Where the spec leaves a choice, it
is the model's (log entries 1, 22, 28, 49, 60, 71, 72 and 74). -/
def Obligations.PullSteps : Prop :=
  ∀ (s : State) (gc id n dig st : Nat) (o : PullOp) (f : LineFetch) (p : Page) (bs data : List Byte) (stamp : Nat) (disc : Bool),
    let u := s.settle gc
    let gone (v : State) : State := ((v.release gc 1 o.id).dropRequests gc o.id).modPull gc fun k =>
      { k with ops := k.ops.filter fun x => x.id != o.id }
    let failed (v : State) (n : Nat) : State :=
      (gone v).pushDone gc { engine := 1, slot := o.slot, st := o.st, state := n, disc := false, no := o.id }
    let marked (v : State) (disc : Bool) : State := if disc then (gone v).modSlot o.slot Slot.markDiscard else gone v
    let finished (v : State) (n : Nat) (disc : Bool) (ws : FMap Byte) : State := (marked v disc).complete gc 1 o.slot o.st n ws
    let token : Prop := ∀ acq k, o.kind ≠ .footprint acq k
    let ended : State := (s.modPull gc fun k => { k with fetches := k.fetches.filter fun x => x.id != f.id }).dropRequests gc f.id
    let cleaned (v : State) : State := if o.kind.acquires then match o.pages.head? with
      | some q => v.clean gc q.chip q.owner o.stamp
      | none => v else v
    let closes (ws : FMap Byte) (i : Instr) (f : State → State) : Prop :=
      (∀ q, u.absentFor ws = some q → exec i s = .next (u.askPage q.1 q.2))
        ∧ (u.absentFor ws = none → s.closes u gc (o.completion ws) i f)
    (∀ peer, (s.cluster gc).fenced = false → ((s.pull gc).fetches.find? fun f => f.id == id && f.answer.isNone) = some f →
      s.pageAwaited f.page f.addr = none →
      let ask : Ask := if f.acq then .acquire else .read
      (s.acquireWaits f.page ask f.addr = true → exec (.ownerReadRequest gc id n peer) s = .next s)
      ∧ (s.acquireWaits f.page ask f.addr = false →
          (f.page.chip = s.chip → let r := s.serveLine f.slot f.page ask f.addr
            exec (.ownerReadRequest gc id n peer) s = .next (r.2.answerOp gc id .fetch r.1))
          ∧ (f.page.chip ≠ s.chip → exec (.ownerReadRequest gc id n (.line data stamp disc)) s = .next (s.peerAnswer gc id .fetch
              (.line (fitBytes 64 data) (if s.foreign f.page.chip then 0 else stamp) disc)))))
    ∧ (∀ peer, (s.cluster gc).fenced = false → ((s.pull gc).fetches.find? fun f => f.id == id && f.answer.isNone) = none →
        ((s.pull gc).ops.find? fun o => o.id == id && (mfind o.lines n).isNone && (linesOfRows o.src o.len).contains n) = some o →
        (o.kind.isLocal || o.kind.ask == .consume) = false → pageAt o.pages (64 * n) = some p → s.pageAwaited p (64 * n) = none →
        s.acquireWaits p o.kind.ask (64 * n) = false → p.chip = s.chip →
        let r := s.serveOpLine o p n
        exec (.ownerReadRequest gc id n peer) s = .next (r.2.answerOp gc id (.line n) r.1))
    ∧ (((s.pull gc).fetches.find? fun f => f.id == id) = some f →
        (f.answer = some (.fail n) → exec (.remoteLoadAnswer gc id) s = .next (ended.modSlots gc fun x => x.failLoads f.id (loadCause n)))
        ∧ (f.answer = some (.line data stamp disc) → (f.acq = true ∨ f.floor ≤ stamp) →
            let cleaned := if f.acq then ended.clean gc f.page.chip f.page.owner stamp else ended
            exec (.remoteLoadAnswer gc id) s = .next
              ((if stamp < f.floor then cleaned else cleaned.enterLine gc f data stamp disc).modSlots gc fun x => x.receive f.id data disc)))
    ∧ (∃ t, exec (.leaseExpiry gc) s = .next t ∧ (t.pull gc).cache = (s.pull gc).cache.filter (fun l => s.ckOf gc < l.till)
        ∧ t.slots = s.slots ∧ t.mem = s.mem)
    ∧ (s.opOf gc id = some o → o.kind.isLocal = true → o.bytes = none →
        ((s.faultyIn o.locals).isSome = true → token → exec (.engineRangeRelease gc 1 id) s = .next (failed s 0x81))
        ∧ (s.faultyIn o.locals = none → s.absentIn o.locals = none → exec (.engineRangeRelease gc 1 id) s = .next
            (((if s.anyDiscarded o.locals then s.modSlot o.slot Slot.markDiscard else s).release gc 1 o.id).modPull gc fun k =>
              { k with ops := k.ops.map fun x => if x.id = o.id then { x with bytes := some (s.localBytes o) } else x })))
    ∧ (u.opOf gc id = some o → o.bytes = some bs →
        (o.kind = .cpy → u.mayWrite o.domain o.copied = true →
          closes o.copied (.cpyComplete gc id) fun v => finished v 0x00 false o.copied)
        ∧ (o.kind = .cpy → u.mayWrite o.domain o.copied = false → exec (.cpyComplete gc id) s = .next (failed u 0x40))
        ∧ (o.kind = .verify dig → closes [] (.pulldVerifyComplete gc id) fun v =>
            finished v (if sha256 (bs.take o.len) = bs.drop o.len then 0x00 else 0x83) false []))
    ∧ (u.opOf gc id = some o → o.failure = none → o.complete = true →
        let n := if o.disc then 0x02 else 0x00
        (o.kind.plain = true → u.mayWrite o.domain o.gather = true →
          (token → closes o.gather (.pullComplete gc id) fun v => finished (cleaned v) n o.disc o.gather)
          ∧ ∀ acq k, o.kind = .footprint acq k → closes o.gather (.pullComplete gc id) fun v =>
              (((marked (cleaned v) o.disc).commitBegin gc o.gather).modSlot o.slot fun x =>
                if x.sliceId = o.slice then x.footDone k n 0 else x).commitEnd gc (engineRec 1 o.slot) [] (sigOf o.gather))
        ∧ (o.kind.plain = true → token → u.mayWrite o.domain o.gather = false →
            exec (.pullComplete gc id) s = .next (failed u 0x40))
        ∧ (∀ acq, o.kind = .pulld acq dig →
            let line := digestLine dig (o.gather.map Prod.snd)
            u.mayWrite o.domain (o.gather ++ line) = true →
            closes (o.gather ++ line) (.pulldComplete gc id) fun v => finished (cleaned v) n o.disc (o.gather ++ line)))
    ∧ (u.opOf gc id = some o → o.failure = some st → o.kind.plain = true →
        (token → exec (.pullComplete gc id) s = .next (failed u st))
        ∧ ∀ acq k, o.kind = .footprint acq k → exec (.pullComplete gc id) s = .next ((gone u).modSlot o.slot fun x =>
            if x.sliceId = o.slice then x.footDone k st 0 else x))
    ∧ (∀ gen, u.opOf gc id = some o → o.kind = .pullc gen →
        (mfind o.lines 0 = some (.fail n) → exec (.pullcAnswer gc id) s = .next (failed u n))
        ∧ (mfind o.lines 0 = some (.line data stamp disc) →
            let ws := placed (o.dst.headD 0) (fitBytes o.len data)
            u.mayWrite o.domain ws = true →
            closes ws (.pullcAnswer gc id) fun v => finished v (if disc then 0x02 else 0x00) disc ws))

/-- R261, R267-R271, R278, R318: the steps of a watch: its placement reaches its owner, its answer or its timeout ends it, of which the
answer wins in the ck of the end of the time; a withdrawn watch takes none after the ck of its WCANCEL, and a peer gives 0x42 to a
WATCHT only. A watch on another chip is sent again after 32 us, acknowledged, and given up after 100 us without an acknowledgement; an end leaves the pull unit
and the owner's port and makes the token ready, an answer cleans the cache first, and a watch whose slice is away keeps its outcome. A
payload that is staged releases its range, and one with an uncorrectable error is answered 0x81. Where the spec leaves a choice, it is
the model's (log entries 1, 56 and 57). -/
def Obligations.WatchSteps : Prop :=
  ∀ (s : State) (gc id state stamp : Nat) (w : Watch), s.watchOf gc id = some w → w.heldAnswer = none →
    let dropped (v : State) : State :=
      ((v.dropRequests gc w.id).modCluster gc fun c => { c with
          ready := c.ready.filter fun r => r.2.work != .cancel w.id
          pull := { c.pull with watches := c.pull.watches.filter fun x => x.id != w.id } }).modCluster w.page.owner
        fun c => if w.page.chip = v.chip then
            { c with watchers := c.watchers.filter fun e => !(e.chip == v.chip && e.gc == gc && e.id == w.id) }
          else c
    let ended (v : State) (n : Nat) : State :=
      (dropped v).pushDone gc { engine := 1, slot := w.slot, st := w.st, state := n, disc := false, no := w.id }
    let answered (v : State) : State := if state < 2 then v.clean gc w.page.chip w.page.owner stamp else v
    let here (v : State) : Prop := (v.slot w.slot).sliceId = w.slice
    let late (v : State) : Prop := ∃ t, w.expiry = some t ∧ w.once = false ∧ t < v.ckOf gc
    let waits (v : State) : Prop := ∀ t, w.cancel = some t → v.ckOf gc ≤ t
    (w.placed = false → w.page.chip = s.chip → (s.cluster gc).fenced = false →
      exec (.watchPlacementArrival gc id) s =
        .next ((s.modWatch gc w.id fun x => { x with placed := true }).placeWatch w.page.owner (w.placement s.chip gc)))
    ∧ (∀ peer, w.page.chip = s.chip → w.answer = some (state, stamp) →
        (here s → waits s → ¬late s → exec (.watchAnswerArrival gc id peer) s = .next (ended (answered s) state))
        ∧ (here s → waits s → late s → exec (.watchAnswerArrival gc id peer) s = .next (ended s 0x42))
        ∧ (¬waits s → exec (.watchAnswerArrival gc id peer) s = .next s)
        ∧ (¬here s → waits s → ¬late s → exec (.watchAnswerArrival gc id peer) s = .next ((dropped s).modPull gc fun u =>
            { u with watches := u.watches ++ [{ w with heldAnswer := some (state, stamp) }] })))
    ∧ (w.page.chip ≠ s.chip → w.answer = none →
        let states := [0x00, 0x01, 0x40, 0x43, 0x80] ++ (if w.expiry.isSome then [0x42] else [])
        let v := (s.heard w.page.chip).dropRequests gc w.id
        (state ∈ states → here v → waits v → ¬late v →
          exec (.watchAnswerArrival gc id (some (state, stamp))) s = .next (ended (answered v) state))
        ∧ (state ∉ states → exec (.watchAnswerArrival gc id (some (state, stamp))) s = .next s))
    ∧ (here s → w.cancel = none →
        (late s → exec (.watchtExpiry gc id) s = .next (ended s 0x42))
        ∧ (¬late s → exec (.watchtExpiry gc id) s = .next s))
    ∧ (w.page.chip ≠ s.chip →
        (w.sent + 32 * 559300 ≤ s.now →
          let v := s.modWatch gc id fun x => { x with sent := s.now }
          exec (.watchRefresh gc id) s = .next (match s.reqs.find? fun r => r.is gc w.id .watch with
            | some r => if r.first.isSome then v.resend r else v
            | none => v.request w.page.chip gc w.id .watch 64))
        ∧ (here s → waits s → w.acked + 100 * 559300 ≤ s.now → exec (.watchUnackedTimeout gc id) s = .next (ended s 0x43))
        ∧ exec (.watchAcknowledgementArrival gc id) s = .next (((s.heard w.page.chip).dropRequests gc id).modWatch gc id fun x =>
            { x with placed := true, acked := s.now }))
    ∧ ∀ x, ((s.pull gc).sends.find? fun x => x.id == id && x.payload.isNone) = some x →
        s.absentIn [(x.msg.src, x.msg.len)] = none →
        exec (.engineRangeRelease gc 3 id) s =
          .next (((if s.anyDiscarded [(x.msg.src, x.msg.len)] then s.modSlot x.slot Slot.markDiscard else s).release gc 3 id).modPull gc
            fun u => { u with sends := u.sends.map fun y => if y.id = id then { y with
              payload := some (s.ownBytes x.msg.src x.msg.len)
              answer := if (s.faultyIn [(x.msg.src, x.msg.len)]).isSome then some 0x81 else y.answer } else y })

/-- R297-R303, R324: the steps of a tile pool: a tile whose lifetime has passed is counted as abandoned, held or freed by the
partition's policy, and announced by a message; an entry of the consuming request table goes after 64 us, and the last one of a
quarantined tile releases it; a consuming pull waits its turn at its owner's port and is served once, its read and its decrement in one
commit, a retry by the table; an abandonment message is delivered to its ring or counted as lost. Each of these commits is made when the
commit unit grants it. Where the spec leaves a choice, it is the model's (log entries 1, 25 and 71). -/
def Obligations.PoolSteps : Prop :=
  ∀ (s : State) (gc k t id : Nat) (p : Partition) (o : PullOp) (page : Page),
    let u := s.settle gc
    (∀ e, u.part gc k = some p → (p.tile t).state = .live → (p.tile t).expiry = some e → e ≤ u.ckOf gc →
      let x := p.tile t
      let counted : Partition := { p with aband := min 65535 (p.aband + 1) }
      let bytes := leBytes 4 ((if p.pol then 2 else 1) * 16 + k) ++ leBytes 4 (x.gen * 2 ^ 24 + p.off t) ++ leBytes 4 (x.count % 2 ^ 16)
        ++ leBytes 4 ((u.cluster gc).commits + 1)
      s.closes u gc (agentAsk 6 (.lifetime k t e) []) (.tileLifetimeExpiry gc k t) fun v =>
        let s1 := v.setPart gc k counted
        let s2 := if p.pol then s1.freeTile gc k t
          else s1.setPart gc k (counted.setTile t { x with state := .held, life := 0, expiry := none })
        (if p.evring = 0 then s2
          else s2.modCluster gc fun c => { c with events := c.events ++ [(p.evring, k, bytes)] }).portCommit gc [] [tileKey (p.off t)])
    ∧ (∀ e es, (u.cluster gc).served = e :: es → e.time + 64 * 559300 ≤ u.now →
        let gone (v : State) : State := v.modCluster gc fun c => { c with served := es }
        (e.tile = none → exec (.crtEntryExpiry gc) s = .next ((gone u).serveInbound gc))
        ∧ (∀ gen, e.outcome = 0 → e.tile = some (k, t, gen) → (gone u).part gc k = some p → (p.tile t).state = .quarantined →
            (p.tile t).gen = (gen + 1) % 256 → (gone u).quarantines gc k t gen = false →
            let d := agentAsk 6 .entry []
            exec (.crtEntryExpiry gc) s = .next ((if u.grants gc d then
                ((gone (u.unasked gc .entry)).releaseTile gc k t false).portCommit gc [] [tileKey (p.off t)]
              else u.defer gc d).serveInbound gc)))
    ∧ (∀ gen peer, s.opOf gc id = some o → o.kind = .pullc gen → o.pages = [page] → mfind o.lines 0 = none →
        (s.cluster gc).fenced = false → page.chip = s.chip → (s.cluster page.owner).inbound = [] →
        let v := (s.modCluster page.owner fun c => { c with inbound := [.pullc gc id] }).settle page.owner
        (v.cluster page.owner).inbound = [.pullc gc id] → v.opOf gc id = some o → (v.cluster gc).fenced = false →
        let r := v.servePullc (.pullc gc id) (o.asks v.chip gc page gen)
        exec (.ownerPullcServe gc id peer) s = .next (match r.1 with
          | some a => (r.2.answerOp gc id .consume a).modCluster page.owner fun c =>
              { c with inbound := c.inbound.filter fun j => !(PortItem.pullc gc id).same j, inboundTurn := v.chip + 1 }
          | none => r.2))
    ∧ (∀ (i : PortItem) (q : Consume) (e : Served), let owner := q.key % 4096
        (s.cluster owner).fenced = false →
        (s.servedFor owner q.chip q.gc q.rid = some e →
          s.servePullc i q = (some (if e.outcome = 0 then s.servedRange e.addr e.len else .fail e.outcome), s))
        ∧ (∀ key, s.servedFor owner q.chip q.gc q.rid = none → (s.cluster owner).served.length < 4096 →
            s.keyFault owner q.key q.chip .consume q.off q.len = none → s.keyOf owner q.key = some key →
            let a := key.base + q.off
            s.consumeCheck owner a q.gen q.len = .ok (k, p, t) → s.faultyIn [(a, q.len)] = none →
            let d := agentAsk 6 (.item i) []
            s.servePullc i q = if s.grants owner d then (some (s.servedRange a q.len), (((s.unasked owner (.item i)).addServed owner
              { chip := q.chip, gc := q.gc, rid := q.rid, tile := some (k, t, (p.tile t).gen), addr := a, len := q.len, outcome := 0,
                time := s.now }).takeReads owner k t 1).portCommit owner [] [tileKey (p.off t)])
              else (none, s.defer owner d)))
    ∧ (∀ h bytes es, (u.cluster gc).events = (h, k, bytes) :: es → u.part gc k = some p →
        let rest := u.modCluster gc fun c => { c with events := es }
        let m := eventMessage u.chip h bytes
        let r := (u.core (gc * 8 + handleCore h)).ring (handleRing h)
        (bits h 0 17 ≠ 0 ∨ (∃ e, u.checkRing gc r m = .error e) →
          exec (.poolEventDelivery gc) s = .next (rest.setPart gc k { p with lost := min 65535 (p.lost + 1) }))
        ∧ (bits h 0 17 = 0 → u.checkRing gc r m = .ok r →
            let ws := u.messageBytes gc r m
            s.closes u gc (agentAsk 3 .event (linesOf ws)) (.poolEventDelivery gc) fun v =>
              (v.modCluster gc fun c => { c with events := es }).agentCommit gc 3 ws []))

/-- R318-R325, R327, R367, R373: the steps of the message interface: a send waits its turn at its owner's port, which checks it and delivers it in
one commit and answers it, a retry from its table, or refuses it with a STATE; the answer, a peer's as it comes, ends the send by its
token; a peer's sends to a ring are handled in the order of their numbers; a message of a foreign peer is delivered to the ring of its
key. What waits at a port is served by round robin over the requesting chips, and each delivery is made when the commit unit grants
it. Where the spec leaves a choice, it is the model's (log entries 1, 23, 24, 56 and 71). -/
def Obligations.MessageSteps : Prop :=
  ∀ (s : State) (gc id st : Nat) (x : SendRec),
    (∀ peer, s.stageSend gc id = s → s.sendOf gc id = some x → s.sendReady gc x = true → x.msg.page.chip = s.chip →
      let owner := x.msg.page.owner
      (s.cluster owner).inbound = [] →
      let v := (s.modCluster owner fun c => { c with inbound := [.send gc id] }).settle owner
      (v.cluster owner).inbound = [.send gc id] → v.sendOf gc id = some x → v.sendReady gc x = true →
      let r := v.serveSend (.send gc id) (x.asks v.chip gc)
      exec (.sendArrival gc id peer) s = .next (match r.1 with
        | some st => (r.2.answerSend gc id st).modCluster owner fun c =>
            { c with inbound := c.inbound.filter fun j => !(PortItem.send gc id).same j, inboundTurn := v.chip + 1 }
        | none => r.2))
    ∧ (∀ peer, s.stageSend gc id = s → s.sendOf gc id = some x → x.msg.page.chip ≠ s.chip → x.answer = none → x.payload.isSome = true →
        (s.cluster gc).fenced = false →
        exec (.sendArrival gc id peer) s = .next (s.takeAnswer x.msg.page.chip gc id 0 .message false peer))
    ∧ (s.sendReady gc x = true ↔ x.answer = none ∧ x.payload.isSome = true ∧ (s.cluster gc).fenced = false
        ∧ ∀ y ∈ (s.pull gc).sends, y.slot = x.slot → y.msg.header = x.msg.header → y.num < x.num → y.answer.isSome = true)
    ∧ (∀ (i : PortItem) (q : SendReq), let owner := q.key % 4096
        let entry (st : Nat) : Served :=
          { chip := q.chip, gc := q.gc, rid := q.rid, tile := none, addr := 0, len := 0, outcome := st, time := s.now }
        (s.cluster owner).fenced = false →
        (∀ e, s.servedFor owner q.chip q.gc q.rid = some e → s.serveSend i q = (some e.outcome, s))
        ∧ (s.servedFor owner q.chip q.gc q.rid = none → (s.cluster owner).served.length < 4096 →
            (∀ r, s.keyFault owner q.key q.chip .message q.off 4 = some r → s.serveSend i q =
              (some 0x40, (s.logRefusal owner (s.refusal owner .message r q.chip q.who q.key q.off)).addServed owner (entry 0x40)))
            ∧ ∀ k ring, s.keyFault owner q.key q.chip .message q.off 4 = none → s.keyOf owner q.key = some k →
                s.checkMessage owner (q.message (k.base + q.off)) = .ok ring →
                let ws := s.messageBytes owner ring (q.message (k.base + q.off))
                let d := agentAsk 3 (.item i) (linesOf ws)
                s.serveSend i q = if s.grants owner d then
                    (some 0x00, ((s.unasked owner (.item i)).agentCommit owner 3 ws []).addServed owner (entry 0x00))
                  else (none, s.defer owner d)))
    ∧ (s.sendOf gc id = some x → x.answer = some st → exec (.sendAnswerArrival gc id) s =
        .next (((s.dropSend gc id).pushDone gc
          { engine := 3, slot := x.slot, st := x.st, state := st, disc := false, no := id }).settle gc))
    ∧ (∀ (h : PeerHeader) payload k r, let owner := h.key % 4096
        let v := s.arriving h payload.length
        let i : PortItem := .ringWrite h payload
        let u := (v.modCluster owner fun c => { c with inbound := [i] }).settle owner
        let gen := (k.base + h.off) % 256
        let m : Arrival :=
          { kind := 4, chip := (v.peer h.chip).ident % 2 ^ 16, who := 0xFFFFFFFF, key := h.key, header := localAddr (k.base + h.off - gen),
            gen := gen, payload := payload }
        v.hears h = true → (v.cluster owner).inbound = [] → (u.cluster owner).inbound = [i] → (u.cluster owner).fenced = false →
        let served (t : State) : State := t.modCluster owner fun c =>
          { c with inbound := c.inbound.filter fun j => !i.same j, inboundTurn := h.chip + 1 }
        (h.high ≠ 0 → exec (.foreignRingWrite h payload) s = .next (served (u.refusePeer h 4 1)))
        ∧ (h.high = 0 → payload.length = 0 ∨ payload.length % 4 ≠ 0 ∨ 960 < payload.length →
            exec (.foreignRingWrite h payload) s = .next (served (u.refusePeer h 5 3)))
        ∧ (h.high = 0 → 0 < payload.length → payload.length % 4 = 0 → payload.length ≤ 960 →
            u.keyFault owner h.key h.chip .message h.off 1 = none → u.keyOf owner h.key = some k → gen ≤ h.off →
            u.checkMessage owner m = .ok r →
            let ws := u.messageBytes owner r m
            let d := agentAsk 3 (.item i) (linesOf ws)
            exec (.foreignRingWrite h payload) s = .next (if u.grants owner d then
                served (((u.unasked owner (.item i)).agentCommit owner 3 ws []).emit (.answer h.chip h.rid 0x00 [] [] false))
              else u.defer owner d)))
    ∧ (∀ (own turn n : Nat) (is : List PortItem) (i : PortItem), (is.find? fun j => j.chip own == i.chip own) = some i →
        (turn ≤ i.chip own ∧ ∀ j ∈ is, turn ≤ j.chip own → i.chip own ≤ j.chip own)
          ∨ (∀ j ∈ is, j.chip own < turn ∧ i.chip own ≤ j.chip own) →
        roundRobin own (n + 1) turn is = i :: roundRobin own n (i.chip own + 1) (is.erase i))
    ∧ (∀ chip slot header n, let o := s.orderOf chip slot header
        (∀ i r, (o.waiting.find? fun i => i.num == o.next) = some i →
          (s.serveSend (.order chip slot header) (i.asks chip slot) = (some st, r) →
            s.serveOrder (n + 1) chip slot header = ((r.setOrder { o with next := o.next + 1, waiting := o.waiting.erase i }).emit
              (.answer chip i.rid st [] [] false)).serveOrder n chip slot header)
          ∧ (s.serveSend (.order chip slot header) (i.asks chip slot) = (none, r) →
              s.serveOrder (n + 1) chip slot header = (false, r)))
        ∧ ∀ i is, o.waiting = i :: is → leastNum o.waiting = some n → (o.waiting.any fun i => i.arrived + 64 * 559300 ≤ s.now) = true →
            exec (.sendOrderTimeout chip slot header) s =
              .next ((s.setOrder { o with next := max n o.next }).enqueue (i.key % 4096) (.order chip slot header)))
    ∧ ∀ (h : PeerHeader) payload bytes, (s.hears h = true ↔ h.chip ≠ s.chip ∧ (s.port h.port).up = true ∧ s.podUs ≤ h.sent + 12)
        ∧ ((s.port h.port).up = false → exec (.foreignRingWrite h payload) s = .next s ∧ s.arriving h bytes = s)

/-- R46, R333, R336-R345: the steps of a task engine on its queues, in the order of R340: a submission is entered or refused, a cancel
ends or aborts the slices it names, the timer wheel releases what has come in the order of its ticks, deadlines drop, and the first entry that a free slot admits
is dispatched, which writes its slots' registers, and starts once its footprint is there; a cluster that is fenced stops. Where the spec
leaves a choice, it is the model's (log entries 1, 16, 35, 48, 50, 69 and 71). -/
def Obligations.TaskQueueSteps : Prop :=
  ∀ (s : State) (gc id d g st : Nat) (x : SubRec) (l : Slice),
    let engine := x.target / 64
    let u := s.settle (taskCluster engine)
    let v := s.settle (taskCluster d)
    let answered (w : State) (st : Nat) : State :=
      if engine = dieOf gc then (w.modPull gc fun k => { k with subs := k.subs.filter fun y => y.id != x.id }).pushDone gc
        { engine := 4, slot := x.slot, st := x.st, state := st, disc := false, no := x.id }
      else w.modPull gc fun k => { k with subs := k.subs.map fun y => if y.id = x.id then { y with answer := some st } else y }
    (s.subOf gc id = some x → x.answer = none → (s.cluster gc).fenced = false → (u.cluster (taskCluster engine)).fenced = false →
      (x.sid = none → u.mayTurn engine 2 = true →
        let enters (w : State) : State :=
          let r := (w.turned engine 2).submitRecord x.target x.words x.time x.slot x.domain x.rt
          answered r.2 r.1.1
        let refused := u.refusesEntry x.target ((u.queue x.target).expand x.words) x.domain x.rt
        (refused.isSome = true → exec (.submissionArrival gc id) s = .next (enters u))
        ∧ (refused = none → s.closes u (taskCluster engine) (agentAsk 4 (.submission gc id) []) (.submissionArrival gc id) enters))
      ∧ (∀ sid, x.sid = some sid → (x.rt = true ∨ (u.queue x.target).domain = x.domain) → u.mayTurn engine 5 = true →
          let n := (u.awaySlices x.target sid).length
          let ends (v : State) : State :=
            let w := v.turned engine 5
            let away := w.awaySlices x.target sid
            let running := w.seated (Slice.named x.target sid)
            answered (away.foldl (fun s l => s.endQueued engine l 2) w |>.modDie engine fun k => { k with aborts := k.aborts ++ running })
              (if running ≠ [] then 0x01 else if away ≠ [] then 0x00 else 0x03)
          exec (.cancelArrival gc id) s = .next (u.attemptRecord x.target n (.dismissal gc id) ends)))
    ∧ (∀ target n work f, let gc := taskCluster (target / 64)
        let d := agentAsk 4 work (s.recordLines target n)
        s.attemptRecord target n work f =
          if n ≠ 0 ∧ (s.queue target).flog ≠ 0 ∧ (s.cluster gc).fenced = false then
            if s.grants gc d then f (s.unasked gc work) else s.defer gc d
          else f s)
    ∧ (∀ target record time who domain rt, let q := s.queue target
        let ws := q.expand record
        let gc := taskCluster (target / 64)
        (s.cluster gc).fenced = false →
        (s.refusesEntry target ws domain rt = none ↔ badEntry ws = false ∧ (fieldAt ws 30).toNat = q.domain
          ∧ (domain = q.domain ∨ rt = true) ∧ (flagRT (fieldAt ws 31) = true → rt = true) ∧ q.en = true
          ∧ (s.die (target / 64)).entries target < q.cap ∧ (s.die (target / 64)).total < 4096)
        ∧ (badEntry ws = true → s.submitRecord target record time who domain rt = ((0x81, 0), s))
        ∧ (s.refusesEntry target ws domain rt = none →
            let l := Slice.ofWords (s.slices + 1) (BitVec.ofNat 16 (bits (record.getD 0 0) 16 16)) target ws
            let t := (({ s with slices := s.slices + 1 }).setQueue target { q with image := ws } |>.modDie (target / 64) fun k =>
              match time with
              | none => { k with queued := k.queued ++ [l] }
              | some at_ => { k with timed := k.timed ++ [(max at_ (s.podUs + 1), l)] }).agentCommit gc 4 [] []
            s.submitRecord target record time who domain rt = ((0x00, (t.cluster gc).commits), t)))
    ∧ (s.subOf gc id = some x → x.answer = some st → exec (.submissionAnswerArrival gc id) s =
        .next (((s.modPull gc fun u => { u with subs := u.subs.filter fun y => y.id != id }).pushDone gc
          { engine := 4, slot := x.slot, st := x.st, state := st, disc := false, no := id }).settle gc))
    ∧ (v.mayTurn d 1 = true →
        let due := v.dueEntries d
        let came := (v.die d).timed.filter fun t => t.1 ≤ v.podUs
        (∃ ts : List (Nat × Slice), due = ts.map Prod.snd ∧ ts.Perm came ∧ ts.Pairwise (fun a b => a.1 ≤ b.1)
          ∧ ∀ k, (ts.filter fun t => t.1 == k) = came.filter fun t => t.1 == k)
        ∧ ((∀ l ∈ due, v.dropped l = false) → ∃ t, exec (.timerTick d) s = .next t
          ∧ (t.die d).queued = (v.die d).queued ++ due ∧ (t.die d).timed = (v.die d).timed.filter (fun t => v.podUs < t.1)
          ∧ t.slots = v.slots ∧ t.mem = v.mem)
        ∧ exec (.deadlineDrop d) s = .next (((v.die d).queued.filter v.dropped).foldl (fun s l =>
            s.attemptRecord l.target 1 (.late l.id) fun s => s.endQueued d l 5) (v.turned d 1)))
    ∧ (∀ why, s.heldSlots l.id = [] → s.endQueued d l why = ((s.modDie d fun k =>
        { k with queued := k.queued.filter fun y => y.id != l.id, timed := k.timed.filter fun y => y.2.id != l.id }).failSlice l why 0 0))
    ∧ (∀ gs, s.man.stage = 7 → s.mayTurn d 3 = true →
        firstEntry ((s.die d).queued.filter fun l => !s.dropped l && (s.seat l).isSome) = some l → s.seat l = some gs → gs.Nodup →
        ∃ t, exec (.dispatch d) s = .next t ∧ (t.die d).queued = (s.die d).queued.filter (fun y => y.id != l.id) ∧ t.mem = s.mem
          ∧ ∀ m ∈ gs,
            let x := s.slot m
            let y := t.slot m
            let resumed := x.heldFor = some l.id
            let keeps (i : Nat) : Prop := resumed ∧ bit x.live.pend i = true
            (∀ i, i < 32 → keeps i → y.live.sreg i = x.live.sreg i)
            ∧ (¬keeps 1 → y.live.sreg 1 = BitVec.ofNat 32 (l.sid.toNat * 2 ^ 16 + l.target % 2 ^ 10 * 2 ^ 6))
            ∧ (¬keeps 2 → y.live.sreg 2 = BitVec.ofNat 32 l.attempt)
            ∧ (∀ i, (h : i < 8) → ¬keeps (4 + i) → y.live.sreg (4 + i) = l.args[i])
            ∧ (∀ i, i = 0 ∨ i = 3 ∨ 12 ≤ i → ¬keeps i → y.live.sreg i = 0)
            ∧ y.live = { Regs.reset with
                s := y.live.s
                pend := if x.heldFor = some l.id then x.live.pend else 0
                status := if flagRT l.flags then 0x80000000 else 0 }
            ∧ y.pc = l.entry ∧ y.dispatching = true ∧ y.slice.map (fun k => k.id) = some l.id ∧ y.stat = ⟨0, 0, 0, false, false, false⟩
            ∧ y.plbcfg = BitVec.ofNat 32 (l.domain.toNat * 2 ^ 16) ∧ y.async = [] ∧ y.wait = none
            ∧ y.arrivals = (if x.heldFor = some l.id then x.arrivals else []))
    ∧ ((s.slot g).slice = some l → (s.slot g).dispatching = true →
        let gs := s.slotsWith l.id
        (∀ code, (gs.findSome? fun m => (s.slot m).footFail) = some (st, code) →
          exec (.sliceStart g) s = .next (gs.foldl (fun s m => s.failOn m 6 st code) s))
        ∧ ((gs.findSome? fun m => (s.slot m).footFail) = none →
            (gs.any fun m => match (s.slot m).slice with | some k => !k.pulling.isEmpty | none => false) = false →
            ∃ t, exec (.sliceStart g) s = .next t ∧ t.mem = s.mem ∧ ∀ m ∈ gs,
              (t.slot m).dispatching = false ∧ (t.slot m).live = (s.slot m).live ∧ (t.slot m).pc = (s.slot m).pc
                ∧ (t.slot m).region.first = (s.slot m).pc ∧ (t.slot m).region.ckpt = (s.slot m).live
                ∧ (t.slot m).region.bundles = 0 ∧ (t.slot m).region.atomic = false ∧ (t.slot m).region.stores = []))
    ∧ ((s.cluster gc).fenced = false → ∀ why, ∃ t, exec (.fence gc why) s = .next t ∧ (t.cluster gc).fenced = true
        ∧ (t.cluster gc).ready = [] ∧ (t.cluster gc).watchers = [] ∧ t.man.logseq = s.man.logseq + 1)

/-- R12, R345-R350: the steps that end a slice's stay on its slots: an abort request reaches them and discards the region of one that
stalls, an exhausted budget traps without its vector, a slice of a lower level is asked to leave and is ended 32,768 ck later, and a
slice that waits to leave is gone once nothing that it waits for remains, unless a cause ends the wait first; what each way of leaving leaves on the slot, in the queues
and in the failure log. Where the spec leaves a choice, it is the model's (log entries 1, 21, 36, 40, 41, 48, 68, 69, 71 and 75). -/
def Obligations.SliceEndSteps : Prop :=
  (∀ (s : State) (d g id : Nat) (l k : Slice) (h : Leave),
    let x := s.slot g
    (∀ ids, (s.die d).aborts = id :: ids → s.mayTurn d 6 = true → exec (.abortRequestDelivery d) s =
      .next ((s.slotsWith id).foldl (fun s g => s.modSlot g fun x => { x with abort := true })
        ((s.turned d 6).modDie d fun x => { x with aborts := ids })))
    ∧ (x.slice = some l → x.abort = true → x.dispatching = false → x.live.gsize = 0 → x.failing = false →
        s.stopped (clusterOf g) = false → x.region.res.tiles = [] → x.region.kept.tiles = [] →
        (x.wait.isSome || x.soloWait.isSome || x.barred) = true →
        ∃ t, exec (.sliceAbort g) s = .next t ∧ (t.slot g).wait = some (.leave (.failed 3 0 0))
          ∧ (t.slot g).live = x.region.ckpt.restored x.live ∧ (t.slot g).region.stores = [] ∧ (t.slot g).region.effects = []
          ∧ (t.slot g).stat.last = 6 ∧ t.mem = s.mem)
    ∧ ((x.wait.isSome || x.soloWait.isSome || x.barred) = false → exec (.sliceAbort g) s = .next s)
    ∧ (x.runs = true → x.leaves = false → x.abort = false → x.live.gsize = 0 → s.standsStill g = false → s.exhausted g = true →
        (x.live.ta = true ∨ ∀ c ∈ x.async, asyncKey 0x2C0 ≤ asyncKey c.1) →
        let kept := x.keeps true && !s.tallocs g
        let r := if kept then x.live else x.region.ckpt.restored x.live
        ∃ t, exec (.budgetExhausted g) s = .next t ∧ (t.slot g).wait = some (.leave .budget) ∧ t.mem = s.mem
          ∧ (t.slot g).live = { r with
              epc := x.region.first &&& 0xFFFFFFFC, cause := causeWord true kept false 0x2C0, tval := 0, status := withBit r.status 9 true }
          ∧ (t.slot g).region.stores = [] ∧ (t.slot g).region.effects = []
          ∧ ∀ w ∈ (t.pull (clusterOf g)).watches, w.slot = g → w.slice ≠ x.sliceId)
    ∧ (∀ m, firstEntry ((s.die d).queued.filter fun l => !s.dropped l) = some l → s.man.stage = 7 → s.mayTurn d 4 = true →
        s.seat l = none → firstPreempt (s.preemptable l) = some (m, k) → exec (.preemptRequest d) s =
          .next ((s.slotsWith k.id).foldl (fun s g => (s.postAsync g 0x2C1 (BitVec.ofNat 32 l.prio)).modSlot g fun x =>
            { x with preempt := some (s.ckOf (clusterOf g)) }) (s.turned d 5)))
    ∧ (∀ t, x.slice = some l → x.preempt = some t → t + 32768 ≤ s.ckOf (clusterOf g) → x.failing = false →
        exec (.preemptTimeout g) s = .next ((s.slotsWith l.id).foldl (fun s m => s.failOn m 4 0 0) s))
    ∧ (∀ reason state code, x.region.res.tiles = [] → x.region.kept.tiles = [] →
        let t := s.failOn g reason state code
        (t.slot g).wait = some (.leave (.failed reason state code)) ∧ (t.slot g).live = x.region.ckpt.restored x.live
          ∧ (t.slot g).region.stores = [] ∧ (t.slot g).region.effects = [] ∧ (t.slot g).solo = none ∧ (t.slot g).stat.last = 6
          ∧ t.mem = s.mem ∧ ∀ m, m ≠ g → t.slot m = s.slot m)
    ∧ (s.interrupts g = true ↔ x.leaves = false ∧ (s.dueCause g).isSome = true)
    ∧ (s.dueCause g = firstAsync ((if s.exhausted g then [(0x2C0, 0)] else []) ++ if x.live.ta then [] else x.async))
    ∧ (x.slice = some l → x.wait = some (.leave h) → s.slotsWith l.id = [g] → s.interrupts g = true → exec (.sliceLeave g) s = .next s)
    ∧ (x.slice = some l → x.wait = some (.leave h) → s.slotsWith l.id = [g] → s.abortDue l = false → s.interrupts g = false →
        let u := ((s.prepareLeave g h).settle (clusterOf g)).settle (taskCluster (l.target / 64))
        let k := ((u.slot g).slice).getD l
        u.clear g h = true → u.mayLeave k h = true →
        exec (.sliceLeave g) s = .next (if h.fails k then u.attemptRecord k.target 1 (.leave g) fun v => v.leave [g] k h
          else (if h.requeues k then u.turned (l.target / 64) 2 else u).leave [g] k h)))
  ∧ ∀ (s : State) (g : Nat) (l : Slice) (h : Leave),
    let d := l.target / 64
    let x := s.slot g
    let t := s.leave [g] l h
    let held := s.binds g l.id && h.keeps
    let away (entry : Word) : Slice := { l with
      entry := entry, left := l.leftAt (s.ckOf (clusterOf g)), since := none, pulling := []
      place := if held then placeSlotOnly g else l.place }
    ((t.slot g).slice = none ∧ (t.slot g).wait = none ∧ (t.slot g).live = x.live ∧ (t.slot g).async = [] ∧ (t.slot g).fails = []
      ∧ (t.slot g).loads = [] ∧ (t.slot g).pages = [] ∧ (t.slot g).parked = none ∧ (t.slot g).halted = false ∧ (t.slot g).region.stores = []
      ∧ (t.slot g).region.effects = [] ∧ (t.slot g).heldFor = (if held then some l.id else none)
      ∧ (t.slot g).arrivals = if held then x.arrivals else [])
    ∧ (h.keeps = false → (t.core (g / 4)).rings.all (fun r => r.2.slot != g || !r.2.isOpen) = true
        ∧ ∀ o ∈ (t.mat (clusterOf g)).owner, o.2.1 ≠ g)
    ∧ (h = .retire → (t.die d).queued = (s.die d).queued ∧ (t.die d).timed = (s.die d).timed)
    ∧ (∀ entry a0, h = .yield entry a0 → (t.die d).queued = (s.die d).queued ++ [{ away entry with args := l.args.set 0 a0 }])
    ∧ (∀ entry due, h = .sleep entry due → (t.die d).timed = (s.die d).timed ++ [(max due (s.podUs + 1), away entry)])
    ∧ (h = .budget → flagREQ l.flags = true → l.attempt < flagMAXR l.flags → (t.die d).queued = (s.die d).queued ++
        [{ l with attempt := l.attempt + 1, left := l.budget.toNat, since := none, pins := [], pulling := [] }])
    ∧ (∀ reason state code, let gc := taskCluster d
        let q := s.queue l.target
        let a := flatRam gc (q.flog.toNat - 0x10000000)
        let ws := placed a (leBytes 4 (q.logged + 1)) ++ placed (a + 64 + 16 * (q.logged % 2 ^ q.flogn))
          (leBytes 4 (reason * 2 ^ 24 + l.attempt % 256 * 2 ^ 16 + l.sid.toNat) ++ leBytes 4 (l.last.getD 0xFFFFFFFF)
            ++ leBytes 4 (state * 2 ^ 24 + code % 1024) ++ leBytes 4 ((s.cluster gc).commits + 1))
        (q.flog ≠ 0 → (s.cluster gc).fenced = false → s.writesSealed ws = false → s.failSlice l reason state code =
          (s.setQueue l.target { q with logged := q.logged + 1 }).agentCommit gc 4 ws [])
        ∧ (q.flog = 0 → s.failSlice l reason state code = s))

/-- R353, R364, R366, R369, R372: the steps of ports and requests: a port trains with all four lanes or not at all, takes a new key for
each direction, drops a flit that fails and goes down at the eighth in a row or with a lane; flits that leave or arrive are counted, with
a new key before 2^48; a request is sent again 12, 24, 36 and 48 us after its first send, on another up port where there is one, and ends
with 0x42 after 60 us; a peer reported down or silent is failed, and stays failed when its endpoint comes up. Where the spec leaves a
choice, it is the model's (log entries 1, 26, 33, 57 and 68). -/
def Obligations.PortSteps : Prop :=
  ∀ (s : State) (k lanes n chip t : Nat) (r : Request),
    let p := s.port k
    let renewed (c : LinkKey) : LinkKey := { keys := c.keys + 1, flits := 0 }
    (k < 16 → 5 ≤ s.man.stage → s.man.trip = false → ∃ u, exec (.linkTraining k lanes) s = .next u
      ∧ u.port k = (if lanes = 4 then { p with up := true, tx := renewed p.tx, rx := renewed p.rx, failed := 0 } else p)
      ∧ (∀ j, j ≠ k → u.port j = s.port j) ∧ u.mem = s.mem ∧ u.slots = s.slots)
    ∧ (p.up = true → ∃ u, exec (.linkRekey k) s = .next u ∧ u.port k = { p with tx := renewed p.tx, rx := renewed p.rx }
      ∧ ∀ j, j ≠ k → u.port j = s.port j)
    ∧ (∀ c : LinkKey, let m := Config.flits n % 2 ^ 16
        c.count n = if c.flits + m < 2 ^ 48 then { c with flits := c.flits + m } else { keys := c.keys + 1, flits := m })
    ∧ ((s.sendOn k n).port k = { p with tx := p.tx.count n } ∧ (s.hearOn k n).port k = { p with rx := p.rx.count n })
    ∧ (p.up = true → ∀ again : Bool, let failed := (if again then p.failed else 0) + 1
        ∃ u, exec (.flitTagFail k again) s = .next u
          ∧ u.port k = (if failed < 8 then { p with failed := failed, dropped := p.dropped + 1 }
            else { p with up := false, failed := 0, dropped := p.dropped + 1 })
          ∧ u.man.logseq = s.man.logseq + (if failed < 8 then 0 else 1) ∧ ∀ j, j ≠ k → u.port j = s.port j)
    ∧ (∃ u, exec (.portLaneLoss k) s = .next u ∧ u.port k = { p with up := false } ∧ ∀ j, j ≠ k → u.port j = s.port j)
    ∧ (s.reqs[n]? = some r → r.first = some t →
        (exec (.requestRetry n) s = .next (if r.asked ≠ .watch ∧ r.sends ≤ 4 ∧ t + usUnits (12 * r.sends) ≤ s.now
            ∧ s.now < t + usUnits 48 + ckUnits 2 then s.resend r else s))
        ∧ exec (.requestTimeout n) s = .next (if r.asked ≠ .watch ∧ r.asked ≠ .attest ∧ t + usUnits 60 ≤ s.now then
            (s.endRequest r).answerOp r.gc r.id r.asked (.fail 0x42) else s))
    ∧ (∀ j, s.choosePort (some r.port) = some j → s.resend r = { s.sendOn j r.bytes with
        reqs := s.reqs.map fun q => if q = r then { q with last := s.now, sends := q.sends + 1, port := j } else q })
    ∧ (∀ j i, s.choosePort (some i) = some j → (s.port j).up = true
        ∧ ((∃ l, l < 16 ∧ l ≠ i ∧ (s.port l).up = true) → j ≠ i ∧ ∀ l, l < 16 → l ≠ i → (s.port l).up = true → s.load j ≤ s.load l))
    ∧ (chip ≠ s.chip → ∃ u, exec (.peerEndpointDown chip) s = .next u ∧ (u.peer chip).failed = true ∧ (u.peer chip).up = false
        ∧ (u.reqs.all fun q => q.chip != chip) = true ∧ u.mem = s.mem)
    ∧ (s.sentTo chip ≠ [] → max (s.peer chip).answered (s.peer chip).busySince + usUnits 100 ≤ s.now →
        ∃ u, exec (.peerSilenceTimeout chip) s = .next u ∧ (u.peer chip).failed = true
          ∧ (u.reqs.all fun q => q.chip != chip) = true)
    ∧ ∃ u, exec (.peerEndpointUp chip) s = .next u ∧ (u.peer chip).failed = (s.peer chip).failed ∧ (u.peer chip).up = true

/-- R355, R357, R359-R363, R368, R376, R409: the requests of peers: a read within its key's range and its rights is answered with the
owner's bytes and a refused one with an error response and a violation; writes and atomics are refused whatever their key; a command
acts when all its parts have come and is refused from a chip that is not Punosko, and one that is late or at a port that is down does
not arrive; revoked keys are freed; a nonce is answered with a report, and the report of a partner decides the CKREG that waits for it.
The order of the checks, the kinds and reasons of the refusals, and the settling of a cluster before a step are the model's choice
(log entries 1, 24, 26, 45, 68, 71 and 76). -/
def Obligations.PeerRequestSteps : Prop :=
  (∀ (s0 : State) (h : PeerHeader) (gc d : Nat),
    let owner := h.key % 4096
    (∀ q, let s := s0.arriving h (peerBytes q)
      (s.hears h = false → exec (.peerRequestArrival h q) s0 = .next s)
      ∧ (s.hears h = true →
          ((s.cluster owner).fenced = true →
            exec (.peerRequestArrival h q) s0 = .next (s.emit (.answer h.chip h.rid 0x43 [] [] false)))
          ∧ ((s.cluster owner).fenced = false → h.high ≠ 0 → ∀ kind,
              ((∃ len, q = .read .plain len) ∧ kind = Ask.read.kind) ∨ (q = .write ∧ kind = 5) ∨ (q = .atomic ∧ kind = 6) →
              exec (.peerRequestArrival h q) s0 = .next (s.refusePeer h kind 1))
          ∧ ((s.cluster owner).fenced = false → h.high = 0 →
              (∀ len k, q = .read .plain len → s.keyFault owner h.key h.chip .read h.off len = none → s.keyOf owner h.key = some k →
                len ∈ [32, 64, 128, 256] → h.off % len = 0 → s.faultyIn [(k.base + h.off, len)] = none →
                s.absentIn [(k.base + h.off, len)] = none →
                exec (.peerRequestArrival h q) s0 = .next (s.emit (.answer h.chip h.rid 0x00 (s.ownBytes (k.base + h.off) len)
                  (if s.foreign h.chip then [] else (linesOfRows [k.base + h.off] len).map (s.stamp owner))
                  ((List.range len).any fun i => s.isDiscarded (k.base + h.off + i)))))
              ∧ (∀ len n, q = .read .plain len → s.keyFault owner h.key h.chip .read h.off len = some n →
                  exec (.peerRequestArrival h q) s0 = .next (s.refusePeer h Ask.read.kind n))
              ∧ (∀ len, q = .read .plain len → s.keyFault owner h.key h.chip .read h.off len = none → (s.keyOf owner h.key).isSome = true →
                  len ∉ [32, 64, 128, 256] ∨ h.off % len ≠ 0 →
                  exec (.peerRequestArrival h q) s0 = .next (s.refusePeer h Ask.read.kind 4))
              ∧ (∀ kind, (q = .write ∧ kind = 5) ∨ (q = .atomic ∧ kind = 6) →
                  exec (.peerRequestArrival h q) s0 = .next (s.refusePeer h kind (match s.keyOf owner h.key with
                    | none => 1
                    | some e => if e.revoked.isSome then 2 else 3))))))
    ∧ (let s := s0.arriving h 64
       (s.hears h = false → ∀ part count c, exec (.commandPartArrival h part count c) s0 = .next s)
       ∧ (s.hears h = true →
          (∀ part count c, s.foreign h.chip = true ∨ h.high ≠ 0 → exec (.commandPartArrival h part count c) s0 = .next (s.refusePeer h 5 3))
          ∧ (s.foreign h.chip = false → h.high = 0 → s0.partsOf h.chip h.rid = none → ∀ c,
              let first : Parts := { chip := h.chip, rid := h.rid, got := [0], first := s0.now }
              let dropped : State := s.dropParts h.chip h.rid
              (exec (.commandPartArrival h 0 1 c) s0 = .next ({ dropped with parts := dropped.parts ++ [first] }.performCommand h c))
              ∧ ∀ count, 1 < count → count ≤ 16 → ∃ u, exec (.commandPartArrival h 0 count c) s0 = .next u
                ∧ u.partsOf h.chip h.rid = some first ∧ u.mem = s.mem ∧ u.out = s.out)
          ∧ (s.foreign h.chip = true ∨ h.high ≠ 0 → ∀ nonce,
              exec (.attestationRequest h nonce) s0 = .next (s.refusePeer h 5 3))
          ∧ (s.foreign h.chip = false → h.high = 0 → ∀ nonce, ∃ t, exec (.attestationRequest h nonce) s0 = .next t ∧ t.mem = s.mem
              ∧ t.man.reports = s.man.reports + 1 ∧ (h.port < 16 → s.man.trip = false → t.out = s.out ++ [.report h.chip (s.report nonce)]))))
    ∧ (∀ p, s0.partsOf h.chip h.rid = some p → p.first + usUnits 12 ≤ s0.now →
        ∃ u, exec (.commandReassemblyTimeout h.chip h.rid) s0 = .next u ∧ u.partsOf h.chip h.rid = none ∧ u.mem = s0.mem)
    ∧ (∃ u, exec (.keyEntryFree gc) s0 = .next u ∧ u.mem = s0.mem
        ∧ (u.cluster gc).keys = (s0.cluster gc).keys.filter fun e => match e.revoked with | some t => s0.now < t + usUnits 64 | none => true)
    ∧ (let w := s0.settle (taskCluster d)
       ∀ l v vs, (w.die d).viol = some l → l.waiting = v :: vs →
        (w.writesSealed (l.bytes d v) = false →
          s0.closes w (taskCluster d) (agentAsk 4 .violation (linesOf (l.bytes d v))) (.violationRecord d) fun x =>
            (x.modDie d fun x => { x with viol := some { l with waiting := vs, written := l.written + 1 } }).agentCommit
              (taskCluster d) 4 (l.bytes d v) [])
        ∧ (w.writesSealed (l.bytes d v) = true → exec (.violationRecord d) s0 =
            .next (w.modDie d fun x => { x with viol := some { l with waiting := vs } }))))
  ∧ (∀ (s : State) (chip feed gc g st : Nat) (override : Bool) (a : Attest), a.ckreg = some (gc, g, st, override) →
    let done (u : State) (n : Nat) : State := u.pushDone gc { engine := 5, slot := g, st := st, state := n, disc := false, no := a.id }
    ((s.attests.find? fun a => a.chip == chip && s.attestSent a) = some a →
      let u := (s.peerAnswer gc a.id .attest (.line [] 0 false)).dropAttest a
      exec (.attestationReportArrival chip feed) s = .next (
        if feed = Config.feedId.toNat then
          if override then done ((u.addPartner chip).logMachine 0x3E4 chip [2]) 0x01 else done (u.logMachine 0x3E4 chip [1]) 0x40
        else if 16 ≤ (u.partners.filter (· != chip)).length then done u 0x80 else done (u.addPartner chip) 0x00))
    ∧ ((s.attests.find? fun a => a.chip == chip && a.ckreg.isSome && a.since + usUnits 100 ≤ s.now) = some a →
        exec (.attestationTimeout chip) s = .next (done ((s.dropAttest a).dropRequests gc a.id) 0x43))
    ∧ (s.addPartner chip).partners = if s.partners.contains chip then s.partners else s.partners ++ [chip])

/-- R384-R387, R390, R393, R399-R401: the steps of the translation engine and the host port: walks, invalidations, doorbells, the
host's submissions and their completions, region kicks, takes and gives, and the host's answers about its pages. Where the spec
leaves a choice, it is the model's (log entries 1, 17, 18, 29, 30, 43, 71 and 72). -/
def Obligations.HostSteps : Prop :=
  ∀ (s : State) (g gc id n pasid page : Nat) (v : Word),
    (∀ w, (s.slot g).walk = some w → w.failed = none → ∃ t, exec (.translationWalkDone g) s = .next t
      ∧ (match s.walk (g / 4) w.addr with
        | .leaf p => (t.slot g).walk = none ∧ (t.slot g).pages = (s.slot g).pages ++ [p]
            ∧ (t.cluster (clusterOf g)).xcache.head? = some p
        | .fault => (t.slot g).walk = some { w with failed := some false } ∧ t.clusters = s.clusters
        | .malformed => (t.slot g).walk = some { w with failed := some true } ∧ t.clusters = s.clusters) ∧ t.mem = s.mem)
    ∧ (∀ x all addr len, s.xlatOf gc id = some x → x.op = .invalidate all addr len →
        exec (.invalidateComplete gc id) s = .next (((s.dropRange all addr len).endXlat gc x 0x00).settle gc))
    ∧ (4 ≤ s.man.stage → ∃ t, exec (.sqDoorbell v) s = .next t ∧ t.host = { s.host with sqtail := v } ∧ t.mem = s.mem)
    ∧ (4 ≤ s.man.stage → ∃ t, exec (.cqheadWrite v) s = .next t
        ∧ t.host = (if (s.host.cqtail - v).toNat ≤ s.host.ringSize then { s.host with cqhead := v } else s.host))
    ∧ (∀ entry : List Word, let target := entry.getD 0 0
        let d := target.toNat / 64
        let u := s.settle (taskCluster d)
        let sid := bits (entry.getD 1 0) 16 16
        let enters (w : State) : State :=
          let r := (w.turned d 2).submitRecord target.toNat (entry.drop 1) none 0xFFFFFFFF w.host.domain w.host.rt
          r.2.completeEntry sid r.1.1 r.1.2
        let refused := u.refusesEntry target.toNat ((u.queue target.toNat).expand (entry.drop 1)) u.host.domain u.host.rt
        let fenced := (u.cluster (taskCluster d)).fenced
        (s.mayTake = true → badTarget target = true → exec (.hostSubmissionTake entry) s = .next (s.completeEntry sid 0x81 0))
        ∧ (s.mayTake = true → badTarget target = false →
          (fenced = true ∨ (u.mayTurn d 2 = true ∧ refused.isSome = true) → exec (.hostSubmissionTake entry) s = .next (enters u))
          ∧ (fenced = false → u.mayTurn d 2 = true → refused = none →
              s.closes u (taskCluster d) (agentAsk 4 (.hostEntry entry) []) (.hostSubmissionTake entry) enters)))
    ∧ (∀ sid state number, let t := s.completeEntry sid state number
        t.host.sqhead = s.host.sqhead + 1 ∧ t.host.cqtail = s.host.cqtail + 1 ∧ t.mem = s.mem
        ∧ t.out = s.out ++ [.completion (s.host.cqbase.toNat + 16 * (s.host.cqtail.toNat % s.host.ringSize))
            [BitVec.ofNat 32 (sid * 2 ^ 16 + state * 2 ^ 8), s.host.sqhead, BitVec.ofNat 32 number, 0], .msix 0])
    ∧ (4 ≤ s.man.stage → n < 64 → (s.region n).state = 0 →
        exec (.regionKick n 1) s = .next ((s.setHostRegion n { s.region n with state := 1 }).giveKicked n))
    ∧ (∀ x m proxy offset addr since, s.xlatOf gc id = some x → x.op = .take m proxy offset addr since →
        since + usUnits 1000 ≤ s.now → exec (.hovrKickTimeout gc id) s = .next (s.endXlat gc x 0x42))
    ∧ (∀ x m proxy addr a, s.xlatOf gc id = some x → x.op = .give m proxy addr → (s.region m).alia = some a → s.drained a = true →
        exec (.hovrGiveDrainDone gc id) s =
          .next ((((s.setHostRegion m { s.region m with state := 0, alia := none }).dropRange true addr a.len).emit (.msix 1)).endXlat
            gc x 0x00))
    ∧ (∀ r, s.pageRequest pasid page = some r →
        (∃ t, exec (.hostPageResponse pasid page true) s = .next t ∧ t.host.ats = ((pasid, page) :: s.host.ats).take 4096
          ∧ t.host.pri = s.host.pri.filter (· != r) ∧ t.mem = s.mem)
        ∧ exec (.hostPageResponse pasid page false) s = .next ((s.dropRequest r).failPage pasid page)
        ∧ (r.since + usUnits 100 ≤ s.now → exec (.hostPageTimeout pasid page) s = .next ((s.dropRequest r).failPage pasid page)))
    ∧ (∀ a pc, (s.slot g).hostWait = some (pasid, page, a, pc) →
        ((s.failPage pasid page).slot g).hostWait = none
        ∧ ((s.failPage pasid page).slot g).fails = (s.slot g).fails ++ [(0x387, a, pc, (s.slot g).region.no)])
    ∧ (∀ first count, ∃ t, exec (.atsInvalidation pasid first count) s = .next t ∧ t.mem = s.mem
        ∧ ∀ e, e ∈ t.host.ats ↔ e ∈ s.host.ats ∧ ¬ (e.1 = pasid ∧ first ≤ e.2 ∧ e.2 < first + count))
    ∧ (∀ x k lines rest, (s.region n).alia = some x → x.through = (k, lines) :: rest →
        let s1 : State := s.setHostRegion n { s.region n with alia := some { x with through := rest } }
        let due := s1.host.tokens.filter fun t => !s1.outward t.1 t.2.1
        let s2 := due.foldl (fun s t => s.modSlot t.2.2.1 fun y => y.withToken t.2.2.2.1 t.2.2.2.2)
          { s1 with host := { s1.host with tokens := s1.host.tokens.filter fun t => s1.outward t.1 t.2.1 } }
        let ready (e : WatchEntry) : Option (Nat × Nat) := e.hit.filter fun h => !s2.outward x.proxy h.2
        exec (.hostWriteThroughDone n) s = .next ((s2.cluster x.proxy).watchers.foldl
          (fun s e => match ready e with | some h => s.answerWatch e h.1 h.2 | none => s)
          (s2.modCluster x.proxy fun c => { c with watchers := c.watchers.filter fun e => (ready e).isNone })))

/-- R405, R406: management requests: a request that is being performed takes its result by the first rule that applies (the bring-up
state, a reserved bit, a value out of range), has the effect of its OP otherwise, or is refused by Husk's policy, and is reported once
in MBSTAT with MSI-X vector 2. A violation log that is placed begins anew, with its first line zeroed. Where the spec leaves a choice, it is the model's (log entries 1, 31, 66, 68 and 71). -/
def Obligations.ManagementRequests : Prop :=
  ∀ s : State,
    let a (i : Nat) : Nat := (s.mbArg i).toNat
    let d := a 0 / 64
    (∀ off v, 4 ≤ s.man.stage → ∃ t, exec (.barRegisterWrite off v) s = .next t ∧ t.mem = s.mem ∧ t.slots = s.slots
      ∧ (off = 0x0080 → t.man = s.man.command v) ∧ (off = 0x0024 → t.barRead 0x0024 = v)
      ∧ (∀ i < 8, off = 0x00A0 + 4 * i → s.man.busy = false → t.mbArg i = v))
    ∧ (∀ op masks body, s.mbRuns op = true →
        (s.man.stage ≠ 7 → op ∉ [0x02, 0x03, 0x05, 0x09] → s.perform op masks body = s.mbResult 0x03)
        ∧ (s.man.stage = 7 → s.mbReserved masks = true → s.perform op masks body = s.mbResult 0x02)
        ∧ (s.man.stage = 7 → s.mbReserved masks = false → s.perform op masks body = body s))
    ∧ (s.man.stage = 7 →
      (s.mbRuns 0x01 = true → s.mbReserved [0x3FF, 0x8000FFFF, 0x1FFF, 0xFFFFFFFF, 0xF] = false → d < Config.dies → a 2 ≤ 4096 →
        2 ≤ a 4 → a 4 ≤ 10 → a 3 = 0 ∨ logPlace (a 3) (a 4) = true →
        exec .mbQueueDescriptor s = .next ((s.settle (taskCluster d)).writeQueue (a 0) (bit (s.mbArg 1) 31) (bits (s.mbArg 1) 0 16) (a 2)
          (s.mbArg 3) (a 4)))
      ∧ (s.mbRuns 0x02 = true → s.mbReserved [0x3FF, 0x3, 0xFFFFFFFF, 0xFFFFFFFF] = false →
          (∀ check, a 1 = 0 ∨ a 1 = 2 → ∃ t, exec (.mbPeerEntry check) s = .next t ∧ t.man.mbres = some 0x00
            ∧ (t.peer (a 0)).kind = (if a 1 = 0 then .absent else .foreign) ∧ (t.peer (a 0)).ident = a 2 + 2 ^ 32 * a 3)
          ∧ (∀ feed, a 1 = 1 → ∃ t, exec (.mbPeerEntry (some (some feed))) s = .next t ∧ t.man.mbres = some 0x00
            ∧ (t.peer (a 0)).kind = .punosko ∧ (t.peer (a 0)).feed = feed)
          ∧ (a 1 = 1 → ∃ t, exec (.mbPeerEntry (some none)) s = .next t ∧ t.man.mbres = some 0x04 ∧ (t.peer (a 0)).kind = .foreign))
      ∧ (s.mbRuns 0x03 = true → s.mbReserved [0xFFF, 0x3FFFF] = false → a 0 < Config.clusters → isMem (a 0) = true →
          a 1 * 0x4000 + 0x10000 ≤ hbmSize → ∃ t, exec .mbPageTableRoot s = .next t ∧ t.root = (a 0, a 1) ∧ t.man.mbres = some 0x00
            ∧ t.mem = s.mem ∧ t.slots = s.slots ∧ ∀ c, (t.core c).plb = [])
      ∧ (s.mbRuns 0x04 = true → s.mbReserved [0xF, 0xFFFFFFFF, 0xF] = false → a 0 < Config.dies → 2 ≤ a 2 → a 2 ≤ 10 →
          logPlace (a 1) (a 2) = true →
          let tc := taskCluster (a 0)
          let u := s.settle tc
          let log (v : State) : ViolLog :=
            { addr := s.mbArg 1, logn := a 2, written := 0, dropped := 0,
              waiting := match (v.die (a 0)).viol with | some l => l.waiting | none => [] }
          let place (v : State) : State :=
            ((v.modDie (a 0) fun x => { x with viol := some (log v) }).zeroLog (a 0) (s.mbArg 1)).mbResult 0x00
          ((u.cluster tc).fenced = true → exec .mbViolationLogPlace s = .next (place u))
          ∧ ((u.cluster tc).fenced = false →
              s.closes u tc (agentAsk 4 .manage (linesOf (logZeros (a 0) (s.mbArg 1)))) .mbViolationLogPlace place)
          ∧ ∀ v : State, let ws := placed (flatRam tc (a 1 - 0x10000000)) (List.replicate 64 0)
              (v.cluster tc).fenced = false → v.writesSealed ws = false →
              v.zeroLog (a 0) (s.mbArg 1) = v.agentCommit tc 4 ws [])
      ∧ (s.mbRuns 0x05 = true → s.mbReserved [0xFFFF, 0x1] = false → ∃ t, exec .mbHostSubmissionDomain s = .next t
          ∧ t.host = { s.host with domain := a 0, rt := bit (s.mbArg 1) 0 } ∧ t.man.mbres = some 0x00 ∧ t.mem = s.mem)
      ∧ (s.mbRuns 0x06 = true → s.mbReserved [0xFFFFFFFF] = false → a 0 < Config.slots →
          ((s.slot (a 0)).halted = false → exec .mbResetHaltedSlot s = .next (s.mbResult 0x03))
          ∧ ∀ l code, (s.slot (a 0)).halted = true → (s.slot (a 0)).slice = some l →
            let gs := s.slotsWith l.id
            let k := ((s.slot (gs.headD (a 0))).slice).getD l
            let tc := taskCluster (k.target / 64)
            l.target = k.target → l.id ∉ (s.die (l.target / 64)).aborts → s.requests (clusterOf (a 0)) = [] → s.requests tc = [] →
            s.stopped tc = false →
            let work := Work.leave (gs.headD (a 0))
            s.keepsLog k.target = false ∨ s.grants tc (agentAsk 4 work (s.recordLines k.target 1)) = true →
            (∀ m ∈ gs, let y := s.slot m
              let p := s.pull (clusterOf m)
              y.wait = some (.leave (.failed 7 0 code)) ∧ y.live.pend = 0 ∧ y.arrivals = [] ∧ (s.mat (clusterOf m)).ofSlot m = []
                ∧ (∀ w ∈ p.watches, w.slot ≠ m) ∧ (∀ o ∈ p.ops, o.slot ≠ m) ∧ (∀ x ∈ p.sends, x.slot ≠ m)
                ∧ (∀ x ∈ p.subs, x.slot ≠ m) ∧ (∀ x ∈ p.xlats, x.slot ≠ m)
                ∧ ∀ d ∈ (s.cluster (clusterOf m)).ready, d.2.slot ≠ m) →
            let t := (if s.keepsLog k.target then s.unasked tc work else s).leave gs k (.failed 7 0 code)
            exec .mbResetHaltedSlot s = .next (t.mbResult 0x00) ∧ (t.slot (a 0)).halted = false ∧ (t.slot (a 0)).slice = none)
      ∧ (s.mbRuns 0x07 = true → s.mbReserved [0xFFF] = false → a 0 < Config.clusters → exec .mbFenceCluster s =
          .next ((if (s.cluster (a 0)).fenced then s.logMachine 0x3E1 (a 0) [2] else s.fence (a 0) 2).mbResult 0x00))
      ∧ (s.mbRuns 0x08 = true → s.mbReserved [0x3FF] = false → (s.peer (a 0)).up = true → (s.peer (a 0)).kind ≠ .punosko →
          ∀ check, ∃ t, exec (.mbClearPeerFailure check) s = .next t ∧ (t.peer (a 0)).failed = false ∧ t.man.mbres = some 0x00)
      ∧ (s.mbRuns 0x09 = true → s.mbReserved (List.replicate 8 0xFFFFFFFF) = false → ∃ t, exec .mbAttestationReport s = .next t
          ∧ t.man.mbrep = s.report ((List.range 8).flatMap fun i => leBytes 4 (s.mbArg i).toNat) ∧ t.man.mbres = some 0x00)
      ∧ (s.mbRuns s.man.op = true → 9 < s.man.op → exec .mbUnknownOp s = .next (s.mbResult 0x02)))
    ∧ (∀ r, s.man.mbres = some r → r < 256 → ∃ t, exec .mbRequestDone s = .next t ∧ t.man.busy = false ∧ t.man.mbres = none
        ∧ t.barRead 0x0084 = BitVec.ofNat 32 (r * 2 ^ 16 + bits s.man.mbcmd 16 16) ∧ t.out = s.out ++ [.msix 2])
    ∧ (s.man.busy = true → s.man.mbres = none → s.refuseRequest = s.mbResult 0x01)

/-- R404, R408, R411, R412, R414-R416, R419: the steps of Taproot: mode requests, clock changes of the dies, module reset and bring-up,
power, temperature, margin plans, pod time and counted errors. A change of XSTK or LEASE reaches each cluster within 10 us, and a
request that is made while one is being applied is applied after it. Husk reads the logs of a memory cluster 288 and no other memory. Where the
spec leaves a choice, it is the model's (log entries 1, 32 and 66). -/
def Obligations.TaprootSteps : Prop :=
  ∀ (s : State) (d n gc g : Nat) (v : Word),
    let fresh : Prop := ∀ t, s.man.modeAt = some t → t = s.now ∨ t + usUnits 10 ≤ s.now
    (4 ≤ s.man.stage → s.man.pending = false → s.man.held = false → fresh → let req := modeWrite s.man.modereq v
      (∃ t, exec (.modeXstkRequest v) s = .next t ∧ t.man.modereq = req ∧ t.mode = merge s.mode req 0x04 ∧ t.mem = s.mem)
      ∧ (∃ t, exec (.modeLeaseRequest v) s = .next t ∧ t.man.modereq = req ∧ t.mode = merge s.mode req 0x08 ∧ t.mem = s.mem)
      ∧ (∃ t, exec (.modeRlimRequest v) s = .next t ∧ t.man.modereq = req ∧ t.mode = merge s.mode req 0x10 ∧ t.mem = s.mem)
      ∧ ∃ t, exec (.modeClkRequest v) s = .next t ∧ t.man.modereq = req ∧ t.mode = merge s.mode req 0x03
        ∧ t.man.pending = (bits t.mode 0 2 != bits s.mode 0 2) ∧ t.mem = s.mem)
    ∧ (4 ≤ s.man.stage → s.man.pending = true ∨ ¬fresh → let req := modeWrite s.man.modereq v
        ∀ i ∈ [.modeXstkRequest v, .modeLeaseRequest v, .modeRlimRequest v, .modeClkRequest v], ∃ t, exec i s = .next t
          ∧ t.man.modereq = req ∧ t.man.held = true ∧ t.man.pending = s.man.pending ∧ t.mode = s.mode ∧ t.mem = s.mem)
    ∧ (let u := s.setMode v
       u.mode = v ∧ (∀ t, s.man.modeAt = some t → t + usUnits 10 ≤ s.now → s.modeOf gc = s.mode)
        ∧ (s.man.modeAt = none → s.modeOf gc = s.mode)
        ∧ (v &&& 0xC ≠ s.mode &&& 0xC → u.man.modeAt = some s.now ∧ u.man.wasMode = s.mode
            ∧ (u.modeOf gc = s.mode ∨ u.modeOf gc = v)))
    ∧ (d < Config.dies → s.man.trip = false → (s.man.held = false ∨ s.man.pending = true) → (∀ e < Config.dies, (s.die e).since ≤ s.now) →
        let x := (s.die d).planned
        (if s.man.pending then d = s.man.nextDie
          else if (s.die d).newPlan.isSome then ∀ e < d, (s.die e).newPlan = none
          else (s.die d).mode ≠ (s.die d).target (bits s.mode 0 2)) →
        ∃ t, exec (.dieClockSwitch d n) s = .next t ∧ (t.die d).mode = x.target (bits s.mode 0 2)
          ∧ (t.die d).plan = (s.die d).newPlan.getD (s.die d).plan ∧ (t.die d).newPlan = none
          ∧ (t.die d).ck = s.ckDie d ∧ (t.die d).since = s.now + min n (usUnits 8) ∧ (∀ e, e ≠ d → t.die e = s.die e)
          ∧ (s.man.pending = true → d + 1 < Config.dies → t.man.nextDie = d + 1 ∧ t.mode = s.mode)
          ∧ (s.man.pending = true → d + 1 = Config.dies →
              (s.man.held = false → t.mode = s.mode ∧ t.man.pending = false)
              ∧ (s.man.held = true → s.man.modeAt = none → t.mode = s.man.modereq ∧ t.man.held = false
                  ∧ t.man.pending = (bits s.man.modereq 0 2 != bits s.mode 0 2))))
    ∧ (∃ t, exec .moduleReset s = .next t ∧ t.man.stage = 0 ∧ t.mem = [] ∧ t.clusters = [] ∧ t.resets = s.resets + 1
        ∧ ∀ g, (t.slot g).slice = none)
    ∧ (s.man.fail = false → s.man.trip = false →
        (∀ image, s.man.stage = 0 → ∃ t, exec (.bringupState (.image image)) s = .next t
          ∧ t.man.stage = (if accepted 1 image then 1 else 0) ∧ t.man.fail = !accepted 1 image
          ∧ t.man.monitor = (if accepted 1 image then bodyDigest image else s.man.monitor)
          ∧ t.man.logseq = s.man.logseq + (if accepted 1 image then 0 else 1))
        ∧ (s.man.stage = 3 → ∃ t, exec (.bringupState .done) s = .next t ∧ t.man.stage = 4 ∧ t.mem = [])
        ∧ (∀ chip ns, s.man.stage = 5 → ∃ t, exec (.bringupState (.locked chip ns)) s = .next t ∧ t.man.stage = 6 ∧ t.chip = chip
          ∧ t.podBase = max s.podNs ns ∧ t.podSince = s.now))
    ∧ (s.man.trip = false → ∀ top, top < Config.dies → let u := s.modMan fun m => { m with samples := (n :: m.samples).take 100 }
        (u.man.meanAbove 6000000 = true → ∃ t, exec (.powerSample n top) s = .next t ∧ t.man.coolSince = none
          ∧ let r := modeRank ((s.die top).target (bits s.mode 0 2))
            (t.die top).lowered = (if r = 0 then (s.die top).lowered else some (r - 1))
            ∧ t.man.logseq = s.man.logseq + (if r = 0 then 0 else 1))
        ∧ (u.man.meanAbove 6000000 = false → u.man.meanBelow 5700000 = false →
          exec (.powerSample n top) s = .next (u.modMan fun m => { m with coolSince := none }))
        ∧ (∀ t, u.man.meanBelow 5700000 = true → u.man.meanAbove 6000000 = false → s.man.coolSince = some t → t + usUnits 100000 ≤ s.now →
            exec (.powerSample n top) s = .next (u.raiseDie.modMan fun m => { m with coolSince := some s.now })))
    ∧ (d < Config.dies → (s.die d).lowered.isSome = true → (∀ e < d, (s.die e).lowered = none) →
        s.raiseDie = s.limitDie d ((s.die d).raised (bits s.mode 0 2)))
    ∧ (∀ (x : Die) clk l, x.lowered = some l →
        (∀ r, x.raised clk = some r → l < r ∧ r < x.best clk ∧ x.enables (rankMode r) = true
          ∧ ∀ q, l < q → q < r → x.enables (rankMode q) = false)
        ∧ (x.raised clk = none → ∀ r, l < r → r < x.best clk → x.enables (rankMode r) = false)
        ∧ x.best clk ≤ modeRank clk ∧ ∀ r, x.best clk < r → r ≤ modeRank clk → x.enables (rankMode r) = false)
    ∧ (∀ a : HuskAccess, let f := flatRam a.gc (a.addr - 0x10000000)
        let logged := s.logRefusal a.gc { kind := if a.write then 5 else 1, reason := 3, chip := s.chip, who := 0xFFFFFFFF, key := 0, addr := a.addr }
        (s.cluster a.gc).fenced = false →
        (a.write = false → a.gc = taskCluster (dieOf a.gc) → s.inLogs (dieOf a.gc) a.addr a.len = true → s.faultyIn [(f, a.len)] = none →
          s.huskTurn a = s.emit (.husk a.gc a.addr
            (.line (s.ownBytes f a.len) 0 ((List.range a.len).any fun i => s.isDiscarded (f + i)))))
        ∧ (a.write = true ∨ a.gc ≠ taskCluster (dieOf a.gc) ∨ s.inLogs (dieOf a.gc) a.addr a.len = false →
            s.huskTurn a = logged.emit (.husk a.gc a.addr (.fail 0x40))))
    ∧ (d < Config.dies → ∃ t, exec (.droopTrip d n) s = .next t ∧ (t.die d).ck = s.ckDie d ∧ (t.die d).since = s.now + n
        ∧ (t.die d).mode = (s.die d).mode)
    ∧ (d < Config.dies → (s.die d).hot = false → 1050 ≤ n → ∃ t, exec (.thermalHold d n) s = .next t ∧ (t.die d).hot = true
        ∧ t.man.logseq = s.man.logseq + 1 ∧ t.mem = s.mem)
    ∧ ((s.die d).hot = true → n < 950 → ∃ t, exec (.thermalRelease d n) s = .next t ∧ (t.die d).hot = false
        ∧ t.man.logseq = s.man.logseq + 1)
    ∧ (d < Config.dies → s.man.trip = false → 1150 ≤ n → ∃ t, exec (.thermalTrip d n) s = .next t ∧ t.man.trip = true
        ∧ (∀ k, (t.port k).up = false) ∧ .aer ∈ t.out ∧ t.mem = s.mem)
    ∧ (∀ slack, s.man.stage = 7 → s.man.trip = false → s.man.marks < s.poweredHours / 1000 →
        ∃ t, exec (.marginReplan slack) s = .next t ∧ t.man.plans = s.man.plans + 1 ∧ t.man.marks = s.man.marks + 1
          ∧ ∀ e < Config.dies, (t.die e).plan = (s.die e).plan ∧ (t.die e).newPlan = some ((List.range 3).map fun m =>
              let v := nominal m + 5 * (((20 - leastSlack ((slack.getD e []).getD m [])).toNat + 3) / 4)
              (v, decide (v ≤ 500))))
    ∧ (∀ rate : Int, rate.natAbs ≤ 100 → ∃ t, exec (.podTimeDiscipline rate n) s = .next t ∧ t.podBase = s.podNs + n
        ∧ t.podSince = s.now ∧ t.podRate = rate ∧ t.mem = s.mem)
    ∧ (∀ hbm : Bool, let m := if hbm then ((s.cluster gc).soft.1, (s.cluster gc).soft.2 + 1)
          else ((s.cluster gc).soft.1 + 1, (s.cluster gc).soft.2)
        ∃ t, exec (.softErrorCorrected gc hbm) s = .next t ∧ t.mem = s.mem
          ∧ (t.cluster gc).soft = (if m.1 + m.2 < 65536 then m else (0, 0))
          ∧ t.man.logseq = s.man.logseq + (if m.1 + m.2 < 65536 then 0 else 1))
    ∧ ((s.slot g).slice.isSome = true → 1 ≤ n → n ≤ 5 → s.man.trip = false → (s.cluster (clusterOf g)).fenced = false →
        exec (.registerUncorrectable g n) s = .next ((s.postAsync g 0x3C0 (BitVec.ofNat 32 n)).logMachine 0x3C0 g [n]))

/-- R47, R52-R58, R64-R66: words written out from the encoding tables decode to what they stand for: ADD s4, s8, s14; ADDI s1, s2,
-1; LD.i32 s7, 8(s3); ST.i8 s7, 1(s3); CSRW STATUS, s5; BEQ s1, s2, +4; TRAP 3; RGN; MWLD s1, s2, s3 with the format code 4; PULL,
SEND and RKREG of s4, s6, s8 and s10; VFMA.f32 v0, v1, s5, p0; VSHLI v2, v3, 31, p0; QADD q1, q2, q3; VNOP; the word of zeros is
none. Where the spec leaves a choice, it is the model's (log entry 2). -/
def Obligations.DecodeSpecWords : Prop :=
  decodeTableWord 32 0x01221C00 = some (.add 4 8 14)
    ∧ decodeTableWord 32 0x0208BFFF = some (.addi 1 2 0x3FFF)
    ∧ decodeTableWord 32 0x1C38C008 = some (.ldI32 7 3 8)
    ∧ decodeTableWord 32 0x1D38C001 = some (.stI8 7 3 1)
    ∧ decodeTableWord 32 0x0A015000 = some (.csrw 0 5 0)
    ∧ decodeTableWord 32 0x10088004 = some (.beq 1 2 4)
    ∧ decodeTableWord 32 0x2F000003 = some (.trap 0 3)
    ∧ decodeTableWord 32 0x31000000 = some .rgn
    ∧ decodeTableWord 32 0x32088640 = some (.mwld 1 2 3 4)
    ∧ decodeTableWord 32 0x332190A1 = some (.pull 4 6 8 10)
    ∧ decodeTableWord 32 0x372190A2 = some (.send 4 6 8 10)
    ∧ decodeTableWord 32 0x392190A0 = some (.rkreg 4 6 8 10)
    ∧ decodeTableWord 32 0x91800394 = some (.vfmaF32 0 1 101 0)
    ∧ decodeTableWord 32 0x8B82067C = some (.vshli 2 3 31 0)
    ∧ decodeTableWord 32 0xB014C000 = some (.qadd 1 2 3)
    ∧ decodeTableWord 32 0xFF800000 = some (.vnop 0)
    ∧ decodeTableWord 32 0x00000000 = none

/-- R47, R64-R66: decode and encode agree: the word of every instruction that has one and whose fields are as the spec allows
decodes to that instruction, with every operand at every value, and its S bit is the one it was given. (Rows that share a word are
told apart by registers at execution; `canon` names the row that the decoder gives for them.) Where the spec leaves a choice, it is
the model's (log entry 54). -/
def Obligations.EncodeThenDecode : Prop :=
  ∀ (solo : Bool) (i : Instr) (w : Word), i.wf = true → encode solo i = some w →
    decodeWord w = .ok i.canon ∧ soloBit w = solo

/-- R47, R64-R67: decoding drops no bit of a word: encoding the instruction that a word decodes to, with the word's S bit, gives the
word. -/
def Obligations.DecodeThenEncode : Prop :=
  ∀ (w : Word) (i : Instr), decodeWord w = .ok i → encode (soloBit w) i = some w

/-- R56, R64-R70: the words that are no instruction. Those of an unassigned major raise 0x004 and of an unassigned opcode 0x005,
whatever their other bits; the majors of engines that a memory core lacks raise 0x00E there, and no other word differs there; reserved
hints and NOPs raise nothing. An unassigned value of a selecting field raises 0x006; a reserved field that is not 0, the selecting
fields being assigned, 0x007; then the operand fields raise 0x008 for a vector specifier 73-95, 0x009 for a destination 96-127, and
0x00A for a register outside the range that the instruction allows. The order of the operand fields of one word is the model's (log
entry 10). -/
def Obligations.UnassignedWords : Prop :=
  ∀ w : Word,
    let f := fld w.toNat
    let cause (c : Nat) : Prop := causeAt false w = some (BitVec.ofNat 10 c)
    let out (lo hi x : Nat) : Prop := x < lo ∨ hi < x
    let none_ (x : Nat) : Prop := 73 ≤ x ∧ x ≤ 95
    (classBit w = false → f 24 6 ∈ [0x00, 0x0B, 0x0F, 0x3B] → ∀ mem, causeAt mem w = some 0x004)
    ∧ (classBit w = true → 0x3B ≤ f 23 7 ∧ f 23 7 ≤ 0x3F ∨ 0x52 ≤ f 23 7 ∧ f 23 7 ≤ 0x57
        ∨ 0x5A ≤ f 23 7 ∧ f 23 7 ≤ 0x5F ∨ 0x64 ≤ f 23 7 ∧ f 23 7 ≤ 0x77 → ∀ mem, causeAt mem w = some 0x005)
    ∧ (classBit w = false → f 24 6 ∈ [0x20, 0x27, 0x32, 0x36] → causeAt true w = some 0x00E)
    ∧ (classBit w = true ∨ f 24 6 ∉ [0x20, 0x27, 0x32, 0x36] → causeAt true w = causeAt false w)
    ∧ (classBit w = false → 0x3C ≤ f 24 6 → ∀ mem, causeAt mem w = none)
    ∧ (classBit w = true → 0x78 ≤ f 23 7 → ∀ mem, causeAt mem w = none)
    ∧ (classBit w = false →
      (f 24 6 = 0x01 ∧ 31 ≤ f 0 9 ∨ f 24 6 = 0x06 ∧ f 5 2 = 3 ∨ f 24 6 = 0x0E ∧ 2 ≤ f 0 9 ∨ f 24 6 = 0x16 ∧ f 22 2 = 3
        ∨ f 24 6 ∈ [0x25, 0x26] ∧ f 2 2 = 3 ∨ f 24 6 = 0x2A ∧ 10 ≤ f 0 9 ∨ f 24 6 = 0x2C ∧ f 0 2 = 0 ∨ f 24 6 = 0x2E ∧ f 12 2 = 3
        ∨ f 24 6 = 0x31 ∧ 6 ≤ f 0 9 ∨ f 24 6 = 0x32 ∧ (14 ≤ f 0 4 ∨ f 0 4 = 0 ∧ 5 ≤ f 4 3) ∨ f 24 6 = 0x33 ∧ 8 ≤ f 0 4
        ∨ f 24 6 = 0x36 ∧ (5 ≤ f 0 4 ∨ f 0 4 = 3 ∧ 3 ≤ f 4 5) ∨ f 24 6 = 0x37 ∧ 6 ≤ f 0 4 ∨ f 24 6 = 0x38 ∧ 8 ≤ f 0 4
        ∨ f 24 6 ∈ [0x39, 0x3A] ∧ 4 ≤ f 0 4 → cause 0x006)
      ∧ (f 24 6 = 0x01 ∧ 27 ≤ f 0 9 ∧ f 0 9 ≤ 30 ∧ f 9 5 ≠ 0 ∨ f 24 6 = 0x06 ∧ f 5 2 ≠ 3 ∧ f 7 7 ≠ 0
        ∨ f 24 6 = 0x0A ∧ f 12 2 = 0 ∧ f 14 5 ≠ 0 ∨ f 24 6 = 0x0E ∧ f 0 9 < 2 ∧ (f 9 5 ≠ 0 ∨ f 0 9 = 0 ∧ f 19 5 ≠ 0)
        ∨ f 24 6 = 0x16 ∧ f 22 2 ≠ 3 ∧ f 14 5 ≠ 0 ∨ f 24 6 = 0x17 ∧ f 14 5 ≠ 0 ∨ f 24 6 ∈ [0x23, 0x24] ∧ f 0 5 ≠ 0
        ∨ f 24 6 ∈ [0x25, 0x26] ∧ f 2 2 ≠ 3 ∧ f 0 2 ≠ 0 ∨ f 24 6 ∈ [0x28, 0x29] ∧ f 10 3 ≠ 0 ∨ f 24 6 = 0x2B ∧ f 4 9 ≠ 0
        ∨ f 24 6 = 0x2C ∧ f 0 2 ≠ 0 ∧ f 2 22 ≠ 0 ∨ f 24 6 ∈ [0x2D, 0x30] ∧ f 0 24 ≠ 0
        ∨ f 24 6 = 0x2E ∧ f 12 2 ≠ 3 ∧ (f 9 3 ≠ 0 ∨ f 14 10 ≠ 0) ∨ f 24 6 = 0x2F ∧ (f 6 8 ≠ 0 ∨ f 19 5 ≠ 0)
        ∨ f 24 6 = 0x31 ∧ (f 0 9 < 2 ∧ f 9 15 ≠ 0 ∨ f 0 9 = 2 ∧ (f 9 5 ≠ 0 ∨ f 19 5 ≠ 0) ∨ f 0 9 = 3 ∧ f 9 10 ≠ 0)
        ∨ f 24 6 = 0x32 ∧ (f 0 4 = 0 ∧ f 4 3 < 5 ∧ (f 7 2 ≠ 0 ∨ f 4 3 < 3 ∧ f 9 5 ≠ 0) ∨ f 0 4 = 9 ∧ (f 5 4 ≠ 0 ∨ f 14 5 ≠ 0)
          ∨ f 0 4 = 10 ∧ f 7 2 ≠ 0 ∨ f 0 4 = 11 ∧ f 6 3 ≠ 0 ∨ f 0 4 = 12 ∧ f 4 15 ≠ 0 ∨ f 0 4 = 13 ∧ f 8 11 ≠ 0)
        ∨ f 24 6 = 0x33 ∧ (f 0 4 = 0 ∧ f 9 5 ≠ 0 ∨ f 0 4 = 6 ∧ (f 4 5 ≠ 0 ∨ f 19 5 ≠ 0) ∨ f 0 4 = 7 ∧ f 4 15 ≠ 0)
        ∨ f 24 6 = 0x35 ∧ f 0 9 ≠ 0
        ∨ f 24 6 = 0x36 ∧ (f 0 4 = 0 ∧ (f 9 5 ≠ 0 ∨ f 19 5 ≠ 0) ∨ f 0 4 = 3 ∧ f 4 5 < 3 ∧ f 9 5 ≠ 0
          ∨ f 0 4 = 4 ∧ (f 4 5 ≠ 0 ∨ f 19 5 ≠ 0))
        ∨ f 24 6 = 0x37 ∧ (f 0 4 = 0 ∧ f 4 5 ≠ 0 ∨ f 0 4 = 1 ∧ (f 4 10 ≠ 0 ∨ f 19 5 ≠ 0) ∨ f 0 4 ∈ [4, 5] ∧ f 4 10 ≠ 0)
        ∨ f 24 6 = 0x38 ∧ (f 0 4 ∈ [0, 1, 7] ∧ f 4 5 ≠ 0 ∨ f 0 4 ∈ [2, 4] ∧ (f 4 5 ≠ 0 ∨ f 19 5 ≠ 0) ∨ f 0 4 = 3 ∧ f 4 20 ≠ 0
          ∨ f 0 4 = 6 ∧ f 4 10 ≠ 0)
        ∨ f 24 6 = 0x39 ∧ (f 0 4 = 1 ∧ (f 4 10 ≠ 0 ∨ f 19 5 ≠ 0) ∨ f 0 4 = 2 ∧ f 4 5 ≠ 0 ∨ f 0 4 = 3 ∧ f 4 10 ≠ 0) → cause 0x007)
      ∧ (f 24 6 = 0x01 ∧ f 9 5 = 0 ∧ (f 0 9 = 29 ∧ 8 ≤ f 14 5 ∨ f 0 9 = 30 ∧ 8 ≤ f 19 5) ∨ f 24 6 = 0x17 ∧ f 14 5 = 0 ∧ f 19 5 = 0
        ∨ f 24 6 ∈ [0x28, 0x29] ∧ f 10 3 = 0 ∧ 8 ≤ f 18 6
        ∨ f 24 6 = 0x33 ∧ (f 0 4 = 0 ∧ f 9 5 = 0 ∧ out 4 28 (f 4 5) ∨ f 0 4 ∈ [1, 2, 3] ∧ out 4 28 (f 4 5)
          ∨ f 0 4 = 5 ∧ out 1 30 (f 4 5) ∨ f 0 4 = 7 ∧ f 4 15 = 0 ∧ f 19 5 = 0)
        ∨ f 24 6 = 0x36 ∧ (f 0 4 = 0 ∧ f 9 5 = 0 ∧ f 19 5 = 0 ∧ out 4 28 (f 4 5) ∨ f 0 4 ∈ [1, 2] ∧ f 19 5 = 0
          ∨ f 0 4 = 3 ∧ f 4 5 < 3 ∧ f 9 5 = 0 ∧ f 19 5 = 0)
        ∨ f 24 6 = 0x37 ∧ (f 0 4 = 0 ∧ f 4 5 = 0 ∧ f 19 5 = 0 ∨ f 0 4 = 2 ∧ out 1 28 (f 4 5) ∨ f 0 4 = 3 ∧ out 1 30 (f 4 5)
          ∨ f 0 4 ∈ [4, 5] ∧ f 4 10 = 0 ∧ f 19 5 = 0)
        ∨ f 24 6 = 0x38 ∧ (f 0 4 = 4 ∧ f 4 5 = 0 ∧ f 19 5 = 0 ∧ out 1 30 (f 9 5) ∨ f 0 4 = 5 ∧ out 1 30 (f 4 5)
          ∨ f 0 4 = 6 ∧ f 4 10 = 0 ∧ f 19 5 = 0)
        ∨ f 24 6 = 0x39 ∧ f 0 4 = 0 ∧ f 19 5 = 0
        ∨ f 24 6 = 0x3A ∧ (f 0 4 = 0 ∧ out 1 29 (f 4 5) ∨ f 0 4 = 3 ∧ out 1 30 (f 4 5)) → cause 0x00A))
    ∧ (classBit w = true →
      let codes := [0, 1, 2, 3, 4, 5, 8, 9, 16, 17, 18, 19, 24, 25, 26, 27, 32, 33, 34, 35, 36, 37, 38, 39, 40, 41, 42, 43, 44, 45]
      let unary := f 23 7 ∈ [0x1B, 0x27, 0x34, 0x35, 0x38, 0x39, 0x3A, 0x40, 0x41, 0x42, 0x43, 0x44, 0x50]
      let binary := f 23 7 < 0x17 ∨ f 23 7 ∈ [0x1F, 0x20, 0x21, 0x22, 0x23, 0x24, 0x25, 0x26, 0x28, 0x29, 0x2A, 0x2B, 0x2C, 0x2D,
        0x33, 0x36, 0x37, 0x45, 0x49, 0x4A]
      let shifts := f 23 7 ∈ [0x17, 0x18, 0x19, 0x47, 0x48]
      let compare := f 23 7 ∈ [0x1C, 0x1D, 0x1E, 0x2E, 0x2F, 0x30, 0x31]
      let logic := f 23 7 ∈ [0x4B, 0x4C, 0x4D] ∧ f 0 2 = 0
      let one := unary ∧ f 2 7 = 0 ∨ shifts ∧ f 7 2 = 0 ∨ f 23 7 = 0x1A ∨ f 23 7 = 0x32 ∧ f 2 7 ∈ codes ∨ f 23 7 = 0x46 ∧ f 6 3 = 0
      let dest := one ∨ binary ∨ f 23 7 = 0x4F ∧ f 2 7 = 0 ∨ f 23 7 = 0x51 ∧ f 9 7 = 0 ∨ f 23 7 = 0x58 ∧ f 2 14 = 0
      let answer := f 23 7 = 0x61 ∧ f 2 5 = 4 ∧ f 20 3 < 2 ∨ f 23 7 = 0x63 ∧ f 20 3 = 0 ∧ (f 2 5 = 0 ∧ f 14 3 < 3
        ∨ f 2 5 ∈ [1, 2] ∧ f 14 3 = 0)
      (f 23 7 = 0x32 ∧ f 2 7 ∉ codes ∨ f 23 7 = 0x59 ∧ 3 ≤ f 16 7 ∨ f 23 7 = 0x60 ∧ 5 ≤ f 2 5
        ∨ f 23 7 = 0x61 ∧ (5 ≤ f 2 5 ∨ f 2 5 = 2 ∧ 4 ≤ f 14 3 ∨ f 2 5 = 4 ∧ 2 ≤ f 20 3) ∨ f 23 7 = 0x62 ∧ f 2 5 ≠ 0
        ∨ f 23 7 = 0x63 ∧ (3 ≤ f 2 5 ∨ f 2 5 = 0 ∧ 3 ≤ f 14 3) → cause 0x006)
      ∧ (unary ∧ f 2 7 ≠ 0 ∨ f 23 7 = 0x4F ∧ f 2 7 ≠ 0 ∨ shifts ∧ f 7 2 ≠ 0 ∨ f 23 7 = 0x46 ∧ f 6 3 ≠ 0
        ∨ f 23 7 ∈ [0x4B, 0x4C, 0x4D] ∧ f 0 2 ≠ 0 ∨ f 23 7 = 0x4E ∧ f 0 9 ≠ 0 ∨ f 23 7 = 0x51 ∧ f 9 7 ≠ 0
        ∨ f 23 7 = 0x58 ∧ f 2 14 ≠ 0 ∨ f 23 7 = 0x59 ∧ f 16 7 < 3 ∧ (f 0 2 ≠ 0 ∨ f 16 7 ≠ 0 ∧ f 9 7 ≠ 96)
        ∨ f 23 7 = 0x60 ∧ f 2 5 < 5 ∧ (f 0 2 ≠ 0 ∨ f 7 7 ≠ 0)
        ∨ f 23 7 = 0x61 ∧ (f 2 5 = 0 ∧ (f 0 2 ≠ 0 ∨ f 14 3 ≠ 0) ∨ f 2 5 ∈ [1, 3] ∧ (f 0 2 ≠ 0 ∨ f 7 10 ≠ 0)
          ∨ f 2 5 = 2 ∧ f 14 3 < 4 ∧ (f 0 2 ≠ 0 ∨ f 7 7 ≠ 0))
        ∨ f 23 7 = 0x62 ∧ f 2 5 = 0 ∧ (f 0 2 ≠ 0 ∨ f 14 3 ≠ 0)
        ∨ f 23 7 = 0x63 ∧ (f 2 5 = 0 ∧ f 14 3 < 3 ∧ f 20 3 ≠ 0 ∨ f 2 5 ∈ [1, 2] ∧ (f 14 3 ≠ 0 ∨ f 20 3 ≠ 0)) → cause 0x007)
      ∧ (dest ∧ none_ (f 16 7) ∨ answer ∧ none_ (f 7 7) ∨ one ∧ f 16 7 < 73 ∧ none_ (f 9 7)
        ∨ binary ∧ f 16 7 < 73 ∧ (none_ (f 9 7) ∨ none_ (f 2 7)) ∨ compare ∧ f 16 7 < 8 ∧ (none_ (f 9 7) ∨ none_ (f 2 7))
        ∨ f 23 7 = 0x61 ∧ f 2 5 = 0 ∧ f 0 2 = 0 ∧ f 14 3 = 0 ∧ none_ (f 7 7) → cause 0x008)
      ∧ (dest ∧ 96 ≤ f 16 7 ∨ answer ∧ 96 ≤ f 7 7 → cause 0x009)
      ∧ (compare ∧ 8 ≤ f 16 7 ∨ logic ∧ (8 ≤ f 16 7 ∨ 8 ≤ f 9 7 ∨ 8 ≤ f 2 7)
        ∨ f 23 7 = 0x4E ∧ f 0 9 = 0 ∧ (8 ≤ f 16 7 ∨ 8 ≤ f 9 7) ∨ f 23 7 = 0x4F ∧ f 2 7 = 0 ∧ f 16 7 < 73 ∧ 8 ≤ f 9 7
        ∨ f 23 7 = 0x59 ∧ f 0 2 = 0 ∧ (f 16 7 = 0 ∧ (f 9 7 < 96 ∨ f 2 7 < 96) ∨ f 16 7 ∈ [1, 2] ∧ f 9 7 = 96 ∧ f 2 7 < 96)
        ∨ f 23 7 = 0x62 ∧ f 2 5 = 0 ∧ f 0 2 = 0 ∧ f 14 3 = 0 ∧ 64 < f 7 7 + (f 17 3 + 1) + (f 17 3 + 2) / 2 → cause 0x00A))

/-- R48, R49, R51, R68: a step runs the decoded instruction: with a slot's turn next and nothing that the slot waits for, the bytes
at its pc, as memory stood at its region's opening, are one solo word or a pair, and the step is the execution of what they decode
to; a word that is refused raises its cause, the A-word's first. Both words of a pair read the registers as they stood before it, and
the A-word's effect comes before the B-word's, which gathers its flags on a status that the A-word writes; a control transfer takes
effect after the pair; a cause of either word, the A-word's first, leaves no effect of either. With an event next, the step is that
event, or Husk's access or refusal; with an empty agenda a due commit, else a slot's turn. Where the spec leaves a choice, it is the model's (log entries 1, 9,
66 and 71). -/
def Obligations.StepRunsDecodedWord : Prop :=
  (∀ (s t : State) (g a : Nat) (ts : List Turn),
    let x := t.slot g
    let w := loadWord x.region.code a
    let v := loadWord x.region.code (a + 4)
    let mem := isMem t.myCluster
    (∀ i, s.agenda = .event i :: ts → step s = exec i { s with agenda := ts })
    ∧ (∀ h, s.agenda = .husk h :: ts → step s = .next ({ s with agenda := ts }.huskTurn h))
    ∧ (s.agenda = .policy :: ts → step s = .next { s with agenda := ts }.refuseRequest)
    ∧ (s.agenda = [] → ∀ gc, s.dueCommit = some gc → step s = exec (.commit gc) s)
    ∧ (s.agenda = [] → s.dueCommit = none → s.nextSlot = some g → step s = slotTurn g { s with cur := g })
    ∧ (s.agenda = [] → s.dueCommit = none → s.nextSlot = none → step s = .next (s.tick s.cur 1))
    ∧ (s.agenda = .slot g :: ts → State.ready { s with agenda := ts, cur := g } g = .bundle t →
      (codePlace g x.pc = none → step s = .next (t.decodeCause 0x00B x.pc))
      ∧ (codePlace g x.pc = some a →
        (x.pc.toNat % 4 ≠ 0 → step s = .next (t.decodeCause 0x001 x.pc))
        ∧ (x.pc.toNat % 4 = 0 → t.faultyIn [(a, 4)] = none →
          (soloBit w = true →
            (∀ i, causeAt mem w = none → decodeWord w = .ok i → step s = exec i t)
            ∧ (∀ c, causeAt mem w = some c → step s = exec (.illegalInstruction c w) t))
          ∧ (soloBit w = false → x.pc.toNat % 8 ≠ 0 → step s = .next (t.decodeCause 0x001 x.pc))
          ∧ (soloBit w = false → x.pc.toNat % 8 = 0 →
            (classBit w = true → step s = .next (t.decodeCause 0x002 x.pc))
            ∧ (classBit w = false → t.faultyIn [(a + 4, 4)] = none →
              (classBit v = false ∨ soloBit v = true → step s = .next (t.decodeCause 0x003 x.pc))
              ∧ (classBit v = true → soloBit v = false →
                (∀ i j, causeAt mem w = none → causeAt mem v = none → decodeWord w = .ok i → decodeWord v = .ok j →
                  step s = .next (runBundle 8 (pairBody i j) t))
                ∧ (∀ c, causeAt mem w = some c → step s = exec (.illegalInstruction c w) t)
                ∧ (∀ c, causeAt mem w = none → causeAt mem v = some c → step s = exec (.illegalInstruction c v) t)))))))
    ∧ ((s.slot g).runs = true → (s.slot g).wait = none → (s.slot g).soloWait = none → (s.slot g).live.gsize = 0 →
        (s.slot g).takes = none → (s.slot g).fails = [] → (s.slot g).barred = false → s.exhausted g = false → s.man.trip = false →
        (s.cluster (clusterOf g)).fenced = false → s.stopped (clusterOf g) = false →
        s.ready g = .bundle ((s.startBudget g).modSlot g Slot.unbarred)))
  ∧ (∀ (s : State) (i j : Instr) (u v : Uses) (h k : Regs → Except (Nat × Word) (Regs → Regs)),
    let act (h : Regs → Except (Nat × Word) (Regs → Regs)) (s : State) : State :=
      match h s.src with | .ok f => s.modLive f | .error c => s.raise c.1 c.2
    let r := s.me.live
    let t := runBundle 8 (pairBody i j) s
    (∀ t, exec i t = word u (act h) t) → (∀ t, exec j t = word v (act k) t) → s.free u → s.me.idle v →
      (∀ f g, h r = .ok f → k r = .ok g →
          t = (s.modLive fun x => g (f x)).ended (1 + ((u.reads ++ v.reads).eraseDups.length - 2)) (s.me.pc + 8))
        ∧ (∀ c, h r = .error c → t = s.faulted c.1 c.2)
        ∧ (∀ f c, h r = .ok f → k r = .error c → t = s.faulted c.1 c.2))
  ∧ ∀ (s : State) (c : BitVec 5) (d a b : BitVec 7) (g : BitVec 2) (o : BitVec 24),
    let x (i : Nat) := laneOf (s.me.live.operand a) i
    let y (i : Nat) := laneOf (s.me.live.operand b) i
    let sum (i : Nat) := addF32 (x i) (y i)
    let ctr := s.me.live.rngctr
    let ck := sourceCk [a, b] + 40 * s.replays (s.me.live.preg g.toNat) [a, b] fun i => (sum i).tiny
    (s.free (useB d [a, b]) → s.me.idle (useS [0, c]) →
      runBundle 8 (pairBody (.csrw 0 c 0x000) (.vaddF32 d a b g)) s =
        ((s.csrPut 0x000 (merge s.me.live.status (s.x c) 0x0001021F)).putLanes d g sum).ended ck (s.me.pc + 8))
    ∧ (s.free (useB d []) → s.me.idle (useS [0, c]) → ctr ≠ 0xFFFFFFFF →
      runBundle 8 (pairBody (.csrw 0 c 0x022) (.vrng d g)) s =
        ((s.putLanes d g fun i => plain (rngLane s.me.live.rngkey ctr i)).modLive fun r => { r with rngctr := ctr + 1 }).ended 1
          (s.me.pc + 8))
    ∧ (s.free (useB d [a, b]) → s.me.idle (useS [31]) →
      runBundle 8 (pairBody (.jal o) (.vaddF32 d a b g)) s =
        ((s.wS 31 (s.me.pc + 8)).putLanes d g sum).ended ck (s.me.pc + BitVec.ofInt 32 (4 * o.toInt)))

/-- R7, R44: nothing stops the machine: whatever its state, a step gives a next state. Every error of the spec is an exception, an
error token, a logged refusal or a failed slice, after which the module goes on. Where the spec leaves a choice, it is the model's
(log entry 1). -/
def Obligations.EveryStepCompletes : Prop :=
  ∀ s : State, ∃ t, step s = .next t

/-- R6, R14 and the model's canonical form (log entry 1): every step of every agent keeps device memory in its canonical form: addresses
rising, and no byte listed that an unlisted address reads as. -/
def Obligations.MemoryStaysCanonical : Prop :=
  ∀ s t : State, Memory.wf s.mem = true → step s = .next t → Memory.wf t.mem = true

/-- R201, R202, R221, R310, R353, R399, R408, R411 and the reset columns of the register tables: the module right after reset. Where
the spec leaves a choice, it is the model's (log entry 5). -/
def Obligations.ResetState : Prop :=
  let s := State.reset
  (∀ g, let x := s.slot g
    x.slice = none ∧ x.live.status = 0 ∧ x.live.cause = 0 ∧ x.live.epc = 0 ∧ x.live.tval = 0 ∧ x.live.tvec = 0 ∧ x.live.hwin = 0
      ∧ x.live.bscale = 0 ∧ x.live.qtagc = 1 ∧ x.live.rngkey = 0 ∧ x.live.rngctr = 0 ∧ x.live.barm = 0 ∧ x.xpc = 0 ∧ x.plbcfg = 0
      ∧ (∀ n, x.live.bulb n = Bulb.reset))
    ∧ (∀ gc, let c := s.cluster gc
      c.commits = 0 ∧ c.fenced = false ∧ c.mat.owner = [] ∧ c.ringOpens = 0 ∧ c.keys = [] ∧ c.seals = [] ∧ c.traceCtl = 1)
    ∧ (∀ k, (s.port k).up = false) ∧ (∀ chip, (s.peer chip).kind = .absent) ∧ (∀ n, (s.region n).state = 0)
    ∧ (∀ a, loadByte s.mem a = 0) ∧ s.man.stage = 0 ∧ s.man.busy = false ∧ s.man.logseq = 0 ∧ s.mode = 0
    ∧ Memory.wf s.mem = true
end

