-- ==== Sys2Proof/Laws/Store.lean ====
section
/-!
SUPPORT. The laws of the finite maps and of device memory: what a read finds after a write, and that every write keeps the
canonical form of memory.
-/

namespace Sys2Proof.Machine

/-! ## Finite maps -/

@[simp] theorem mfind_nil {α : Type} (k : Nat) : mfind ([] : FMap α) k = none := rfl

theorem mfind_mput_same {α : Type} (m : FMap α) (k : Nat) (v : α) : mfind (mput m k v) k = some v := by
  induction m with
  | nil => simp [mput, mfind]
  | cons c m ih =>
    obtain ⟨j, w⟩ := c
    simp only [mput]
    split
    · simp [mfind]
    · split
      · simp [mfind]
      · rw [mfind, if_neg (by omega), ih]

theorem mfind_mput_other {α : Type} (m : FMap α) {j k : Nat} (v : α) (h : j ≠ k) : mfind (mput m k v) j = mfind m j := by
  induction m with
  | nil => simp [mput, mfind, Ne.symm h]
  | cons c m ih =>
    obtain ⟨i, w⟩ := c
    simp only [mput]
    split
    · simp [mfind, Ne.symm h]
    · split
      · subst_vars; simp [mfind, Ne.symm h]
      · simp [mfind, ih]

@[simp] theorem mget_mput_same {α : Type} (m : FMap α) (k : Nat) (v d : α) : mget (mput m k v) k d = v := by
  simp [mget, mfind_mput_same]

theorem mget_mput_other {α : Type} (m : FMap α) {j k : Nat} (v d : α) (h : j ≠ k) :
    mget (mput m k v) j d = mget m j d := by
  simp [mget, mfind_mput_other m v h]

@[simp] theorem mput_mput {α : Type} (m : FMap α) (k : Nat) (v w : α) : mput (mput m k v) k w = mput m k w := by
  induction m with
  | nil => simp [mput]
  | cons c m ih =>
    obtain ⟨j, x⟩ := c
    simp only [mput]
    split
    · simp [mput]
    · split
      · simp [mput]
      · rename_i h1 h2
        simp [mput, h1, h2, ih]

theorem mfind_mdel_other {α : Type} (m : FMap α) {j k : Nat} (h : j ≠ k) : mfind (mdel m k) j = mfind m j := by
  induction m with
  | nil => rfl
  | cons c m ih =>
    obtain ⟨i, w⟩ := c
    simp only [mdel] at ih ⊢
    by_cases hi : i = k
    · subst hi
      simp [mfind, Ne.symm h, ih]
    · simp [hi, mfind, ih]

theorem mfind_mdel_same {α : Type} (m : FMap α) (k : Nat) : mfind (mdel m k) k = none := by
  induction m with
  | nil => rfl
  | cons c m ih =>
    obtain ⟨i, w⟩ := c
    simp only [mdel] at ih ⊢
    by_cases hi : i = k
    · simp [hi, ih]
    · simp [hi, mfind, ih]

theorem mem_mput {α : Type} (m : FMap α) (k : Nat) (v : α) {c : Nat × α} (h : c ∈ mput m k v) : c = (k, v) ∨ c ∈ m := by
  induction m with
  | nil => simpa [mput] using h
  | cons d m ih =>
    obtain ⟨j, w⟩ := d
    simp only [mput] at h
    split at h
    · simpa using h
    · split at h
      · rcases List.mem_cons.mp h with h | h
        · exact .inl h
        · exact .inr (List.mem_cons_of_mem _ h)
      · rcases List.mem_cons.mp h with h | h
        · exact .inr (h ▸ List.mem_cons_self)
        · exact (ih h).imp id (List.mem_cons_of_mem _)

theorem pairwise_mput {α : Type} (m : FMap α) (k : Nat) (v : α) (h : m.Pairwise fun x y => x.1 < y.1) :
    (mput m k v).Pairwise fun x y => x.1 < y.1 := by
  induction m with
  | nil => simp [mput]
  | cons c m ih =>
    obtain ⟨j, w⟩ := c
    obtain ⟨h1, h2⟩ := List.pairwise_cons.mp h
    simp only [mput]
    split
    · rename_i hk
      refine List.pairwise_cons.mpr ⟨fun d hd => ?_, h⟩
      rcases List.mem_cons.mp hd with rfl | hd
      · exact hk
      · exact Nat.lt_trans hk (h1 d hd)
    · split
      · subst_vars; exact List.pairwise_cons.mpr ⟨h1, h2⟩
      · refine List.pairwise_cons.mpr ⟨fun d hd => ?_, ih h2⟩
        rcases mem_mput m k v hd with rfl | hd
        · simp only; omega
        · exact h1 d hd

/-! ## Device memory -/

/-- Read after write. -/
theorem loadByte_storeByte (m : List Host.Cell) (a b : Nat) (x : Byte) :
    loadByte (storeByte m a x) b = if b = a then x else loadByte m b := by
  unfold loadByte storeByte
  split
  · rename_i hx
    by_cases h : b = a
    · subst h; rw [mfind_mdel_same, if_pos rfl, hx]; rfl
    · rw [mfind_mdel_other _ h, if_neg h]
  · by_cases h : b = a
    · subst h; rw [mfind_mput_same, if_pos rfl]; rfl
    · rw [mfind_mput_other _ _ h, if_neg h]

/-- A byte that no write of a list names reads as before. -/
theorem loadByte_storeBytes_other (ws : FMap Byte) (m : List Host.Cell) (b : Nat) (h : ∀ c ∈ ws, c.1 ≠ b) :
    loadByte (storeBytes m ws) b = loadByte m b := by
  unfold storeBytes
  induction ws generalizing m with
  | nil => rfl
  | cons c ws ih =>
    rw [List.foldl_cons, ih _ fun d hd => h d (List.mem_cons_of_mem _ hd), loadByte_storeByte,
      if_neg (Ne.symm (h c List.mem_cons_self))]

theorem storeByte_wf (m : List Host.Cell) (a : Nat) (x : Byte) (h : Memory.wf m = true) : Memory.wf (storeByte m a x) = true := by
  simp only [Memory.wf, Bool.and_eq_true, decide_eq_true_eq, List.all_eq_true] at h ⊢
  unfold storeByte
  split
  · exact ⟨h.1.filter _, fun c hc => h.2 c (List.mem_filter.mp hc).1⟩
  · rename_i hx
    refine ⟨pairwise_mput m a x h.1, fun c hc => ?_⟩
    rcases mem_mput m a x hc with rfl | hc
    · simpa using hx
    · exact h.2 c hc

/-- Every list of writes keeps the canonical form. -/
theorem storeBytes_wf (ws : FMap Byte) (m : List Host.Cell) (h : Memory.wf m = true) : Memory.wf (storeBytes m ws) = true := by
  unfold storeBytes
  induction ws generalizing m with
  | nil => exact h
  | cons c ws ih => exact ih _ (storeByte_wf m c.1 c.2 h)

theorem nil_wf : Memory.wf [] = true := rfl

/-- Memory after reset has the canonical form. -/
theorem reset_wf : Memory.wf State.reset.mem = true := rfl

/-! ## Numbers of the parts -/

/-- The slot of a cluster, a core and a slot index. -/
theorem slot_parts (g : Nat) : (clusterOf g * 8 + coreOf g) * 4 + g % 4 = g := by
  unfold clusterOf coreOf; omega

end Sys2Proof.Machine
end

