-- ==== Sys2Proof/Laws/State.lean ====
section
/-!
SUPPORT. The laws of the updates of a state: each changes one field, and a part that has been written reads back.
-/

namespace Sys2Proof.Machine

/-! ## What an update leaves -/

@[simp] theorem mem_setSlot (s : State) (g : Nat) (x : Slot) : (s.setSlot g x).mem = s.mem := rfl
@[simp] theorem faulty_setSlot (s : State) (g : Nat) (x : Slot) : (s.setSlot g x).faulty = s.faulty := rfl
@[simp] theorem cores_setSlot (s : State) (g : Nat) (x : Slot) : (s.setSlot g x).cores = s.cores := rfl
@[simp] theorem clusters_setSlot (s : State) (g : Nat) (x : Slot) : (s.setSlot g x).clusters = s.clusters := rfl
@[simp] theorem dies_setSlot (s : State) (g : Nat) (x : Slot) : (s.setSlot g x).dies = s.dies := rfl
@[simp] theorem phases_setSlot (s : State) (g : Nat) (x : Slot) : (s.setSlot g x).phases = s.phases := rfl
@[simp] theorem ports_setSlot (s : State) (g : Nat) (x : Slot) : (s.setSlot g x).ports = s.ports := rfl
@[simp] theorem peers_setSlot (s : State) (g : Nat) (x : Slot) : (s.setSlot g x).peers = s.peers := rfl
@[simp] theorem chip_setSlot (s : State) (g : Nat) (x : Slot) : (s.setSlot g x).chip = s.chip := rfl
@[simp] theorem reqs_setSlot (s : State) (g : Nat) (x : Slot) : (s.setSlot g x).reqs = s.reqs := rfl
@[simp] theorem parts_setSlot (s : State) (g : Nat) (x : Slot) : (s.setSlot g x).parts = s.parts := rfl
@[simp] theorem orders_setSlot (s : State) (g : Nat) (x : Slot) : (s.setSlot g x).orders = s.orders := rfl
@[simp] theorem partners_setSlot (s : State) (g : Nat) (x : Slot) : (s.setSlot g x).partners = s.partners := rfl
@[simp] theorem attests_setSlot (s : State) (g : Nat) (x : Slot) : (s.setSlot g x).attests = s.attests := rfl
@[simp] theorem root_setSlot (s : State) (g : Nat) (x : Slot) : (s.setSlot g x).root = s.root := rfl
@[simp] theorem host_setSlot (s : State) (g : Nat) (x : Slot) : (s.setSlot g x).host = s.host := rfl
@[simp] theorem man_setSlot (s : State) (g : Nat) (x : Slot) : (s.setSlot g x).man = s.man := rfl
@[simp] theorem slices_setSlot (s : State) (g : Nat) (x : Slot) : (s.setSlot g x).slices = s.slices := rfl
@[simp] theorem resets_setSlot (s : State) (g : Nat) (x : Slot) : (s.setSlot g x).resets = s.resets := rfl
@[simp] theorem now_setSlot (s : State) (g : Nat) (x : Slot) : (s.setSlot g x).now = s.now := rfl
@[simp] theorem podBase_setSlot (s : State) (g : Nat) (x : Slot) : (s.setSlot g x).podBase = s.podBase := rfl
@[simp] theorem podSince_setSlot (s : State) (g : Nat) (x : Slot) : (s.setSlot g x).podSince = s.podSince := rfl
@[simp] theorem podRate_setSlot (s : State) (g : Nat) (x : Slot) : (s.setSlot g x).podRate = s.podRate := rfl
@[simp] theorem mode_setSlot (s : State) (g : Nat) (x : Slot) : (s.setSlot g x).mode = s.mode := rfl
@[simp] theorem out_setSlot (s : State) (g : Nat) (x : Slot) : (s.setSlot g x).out = s.out := rfl
@[simp] theorem agenda_setSlot (s : State) (g : Nat) (x : Slot) : (s.setSlot g x).agenda = s.agenda := rfl
@[simp] theorem cur_setSlot (s : State) (g : Nat) (x : Slot) : (s.setSlot g x).cur = s.cur := rfl
@[simp] theorem bundle_setSlot (s : State) (g : Nat) (x : Slot) : (s.setSlot g x).bundle = s.bundle := rfl
@[simp] theorem lateLoads_setSlot (s : State) (g : Nat) (x : Slot) : (s.setSlot g x).lateLoads = s.lateLoads := rfl

@[simp] theorem mem_modSlot (s : State) (g : Nat) (f : Slot → Slot) : (s.modSlot g f).mem = s.mem := rfl
@[simp] theorem faulty_modSlot (s : State) (g : Nat) (f : Slot → Slot) : (s.modSlot g f).faulty = s.faulty := rfl
@[simp] theorem cores_modSlot (s : State) (g : Nat) (f : Slot → Slot) : (s.modSlot g f).cores = s.cores := rfl
@[simp] theorem clusters_modSlot (s : State) (g : Nat) (f : Slot → Slot) : (s.modSlot g f).clusters = s.clusters := rfl
@[simp] theorem dies_modSlot (s : State) (g : Nat) (f : Slot → Slot) : (s.modSlot g f).dies = s.dies := rfl
@[simp] theorem phases_modSlot (s : State) (g : Nat) (f : Slot → Slot) : (s.modSlot g f).phases = s.phases := rfl
@[simp] theorem ports_modSlot (s : State) (g : Nat) (f : Slot → Slot) : (s.modSlot g f).ports = s.ports := rfl
@[simp] theorem peers_modSlot (s : State) (g : Nat) (f : Slot → Slot) : (s.modSlot g f).peers = s.peers := rfl
@[simp] theorem chip_modSlot (s : State) (g : Nat) (f : Slot → Slot) : (s.modSlot g f).chip = s.chip := rfl
@[simp] theorem reqs_modSlot (s : State) (g : Nat) (f : Slot → Slot) : (s.modSlot g f).reqs = s.reqs := rfl
@[simp] theorem parts_modSlot (s : State) (g : Nat) (f : Slot → Slot) : (s.modSlot g f).parts = s.parts := rfl
@[simp] theorem orders_modSlot (s : State) (g : Nat) (f : Slot → Slot) : (s.modSlot g f).orders = s.orders := rfl
@[simp] theorem partners_modSlot (s : State) (g : Nat) (f : Slot → Slot) : (s.modSlot g f).partners = s.partners := rfl
@[simp] theorem attests_modSlot (s : State) (g : Nat) (f : Slot → Slot) : (s.modSlot g f).attests = s.attests := rfl
@[simp] theorem root_modSlot (s : State) (g : Nat) (f : Slot → Slot) : (s.modSlot g f).root = s.root := rfl
@[simp] theorem host_modSlot (s : State) (g : Nat) (f : Slot → Slot) : (s.modSlot g f).host = s.host := rfl
@[simp] theorem man_modSlot (s : State) (g : Nat) (f : Slot → Slot) : (s.modSlot g f).man = s.man := rfl
@[simp] theorem slices_modSlot (s : State) (g : Nat) (f : Slot → Slot) : (s.modSlot g f).slices = s.slices := rfl
@[simp] theorem resets_modSlot (s : State) (g : Nat) (f : Slot → Slot) : (s.modSlot g f).resets = s.resets := rfl
@[simp] theorem now_modSlot (s : State) (g : Nat) (f : Slot → Slot) : (s.modSlot g f).now = s.now := rfl
@[simp] theorem podBase_modSlot (s : State) (g : Nat) (f : Slot → Slot) : (s.modSlot g f).podBase = s.podBase := rfl
@[simp] theorem podSince_modSlot (s : State) (g : Nat) (f : Slot → Slot) : (s.modSlot g f).podSince = s.podSince := rfl
@[simp] theorem podRate_modSlot (s : State) (g : Nat) (f : Slot → Slot) : (s.modSlot g f).podRate = s.podRate := rfl
@[simp] theorem mode_modSlot (s : State) (g : Nat) (f : Slot → Slot) : (s.modSlot g f).mode = s.mode := rfl
@[simp] theorem out_modSlot (s : State) (g : Nat) (f : Slot → Slot) : (s.modSlot g f).out = s.out := rfl
@[simp] theorem agenda_modSlot (s : State) (g : Nat) (f : Slot → Slot) : (s.modSlot g f).agenda = s.agenda := rfl
@[simp] theorem cur_modSlot (s : State) (g : Nat) (f : Slot → Slot) : (s.modSlot g f).cur = s.cur := rfl
@[simp] theorem bundle_modSlot (s : State) (g : Nat) (f : Slot → Slot) : (s.modSlot g f).bundle = s.bundle := rfl
@[simp] theorem lateLoads_modSlot (s : State) (g : Nat) (f : Slot → Slot) : (s.modSlot g f).lateLoads = s.lateLoads := rfl

@[simp] theorem mem_modMe (s : State) (f : Slot → Slot) : (s.modMe f).mem = s.mem := rfl
@[simp] theorem faulty_modMe (s : State) (f : Slot → Slot) : (s.modMe f).faulty = s.faulty := rfl
@[simp] theorem cores_modMe (s : State) (f : Slot → Slot) : (s.modMe f).cores = s.cores := rfl
@[simp] theorem clusters_modMe (s : State) (f : Slot → Slot) : (s.modMe f).clusters = s.clusters := rfl
@[simp] theorem dies_modMe (s : State) (f : Slot → Slot) : (s.modMe f).dies = s.dies := rfl
@[simp] theorem phases_modMe (s : State) (f : Slot → Slot) : (s.modMe f).phases = s.phases := rfl
@[simp] theorem ports_modMe (s : State) (f : Slot → Slot) : (s.modMe f).ports = s.ports := rfl
@[simp] theorem peers_modMe (s : State) (f : Slot → Slot) : (s.modMe f).peers = s.peers := rfl
@[simp] theorem chip_modMe (s : State) (f : Slot → Slot) : (s.modMe f).chip = s.chip := rfl
@[simp] theorem reqs_modMe (s : State) (f : Slot → Slot) : (s.modMe f).reqs = s.reqs := rfl
@[simp] theorem parts_modMe (s : State) (f : Slot → Slot) : (s.modMe f).parts = s.parts := rfl
@[simp] theorem orders_modMe (s : State) (f : Slot → Slot) : (s.modMe f).orders = s.orders := rfl
@[simp] theorem partners_modMe (s : State) (f : Slot → Slot) : (s.modMe f).partners = s.partners := rfl
@[simp] theorem attests_modMe (s : State) (f : Slot → Slot) : (s.modMe f).attests = s.attests := rfl
@[simp] theorem root_modMe (s : State) (f : Slot → Slot) : (s.modMe f).root = s.root := rfl
@[simp] theorem host_modMe (s : State) (f : Slot → Slot) : (s.modMe f).host = s.host := rfl
@[simp] theorem man_modMe (s : State) (f : Slot → Slot) : (s.modMe f).man = s.man := rfl
@[simp] theorem slices_modMe (s : State) (f : Slot → Slot) : (s.modMe f).slices = s.slices := rfl
@[simp] theorem resets_modMe (s : State) (f : Slot → Slot) : (s.modMe f).resets = s.resets := rfl
@[simp] theorem now_modMe (s : State) (f : Slot → Slot) : (s.modMe f).now = s.now := rfl
@[simp] theorem podBase_modMe (s : State) (f : Slot → Slot) : (s.modMe f).podBase = s.podBase := rfl
@[simp] theorem podSince_modMe (s : State) (f : Slot → Slot) : (s.modMe f).podSince = s.podSince := rfl
@[simp] theorem podRate_modMe (s : State) (f : Slot → Slot) : (s.modMe f).podRate = s.podRate := rfl
@[simp] theorem mode_modMe (s : State) (f : Slot → Slot) : (s.modMe f).mode = s.mode := rfl
@[simp] theorem out_modMe (s : State) (f : Slot → Slot) : (s.modMe f).out = s.out := rfl
@[simp] theorem agenda_modMe (s : State) (f : Slot → Slot) : (s.modMe f).agenda = s.agenda := rfl
@[simp] theorem cur_modMe (s : State) (f : Slot → Slot) : (s.modMe f).cur = s.cur := rfl
@[simp] theorem bundle_modMe (s : State) (f : Slot → Slot) : (s.modMe f).bundle = s.bundle := rfl
@[simp] theorem lateLoads_modMe (s : State) (f : Slot → Slot) : (s.modMe f).lateLoads = s.lateLoads := rfl

@[simp] theorem mem_modLive (s : State) (f : Regs → Regs) : (s.modLive f).mem = s.mem := rfl
@[simp] theorem faulty_modLive (s : State) (f : Regs → Regs) : (s.modLive f).faulty = s.faulty := rfl
@[simp] theorem cores_modLive (s : State) (f : Regs → Regs) : (s.modLive f).cores = s.cores := rfl
@[simp] theorem clusters_modLive (s : State) (f : Regs → Regs) : (s.modLive f).clusters = s.clusters := rfl
@[simp] theorem dies_modLive (s : State) (f : Regs → Regs) : (s.modLive f).dies = s.dies := rfl
@[simp] theorem phases_modLive (s : State) (f : Regs → Regs) : (s.modLive f).phases = s.phases := rfl
@[simp] theorem ports_modLive (s : State) (f : Regs → Regs) : (s.modLive f).ports = s.ports := rfl
@[simp] theorem peers_modLive (s : State) (f : Regs → Regs) : (s.modLive f).peers = s.peers := rfl
@[simp] theorem chip_modLive (s : State) (f : Regs → Regs) : (s.modLive f).chip = s.chip := rfl
@[simp] theorem reqs_modLive (s : State) (f : Regs → Regs) : (s.modLive f).reqs = s.reqs := rfl
@[simp] theorem parts_modLive (s : State) (f : Regs → Regs) : (s.modLive f).parts = s.parts := rfl
@[simp] theorem orders_modLive (s : State) (f : Regs → Regs) : (s.modLive f).orders = s.orders := rfl
@[simp] theorem partners_modLive (s : State) (f : Regs → Regs) : (s.modLive f).partners = s.partners := rfl
@[simp] theorem attests_modLive (s : State) (f : Regs → Regs) : (s.modLive f).attests = s.attests := rfl
@[simp] theorem root_modLive (s : State) (f : Regs → Regs) : (s.modLive f).root = s.root := rfl
@[simp] theorem host_modLive (s : State) (f : Regs → Regs) : (s.modLive f).host = s.host := rfl
@[simp] theorem man_modLive (s : State) (f : Regs → Regs) : (s.modLive f).man = s.man := rfl
@[simp] theorem slices_modLive (s : State) (f : Regs → Regs) : (s.modLive f).slices = s.slices := rfl
@[simp] theorem resets_modLive (s : State) (f : Regs → Regs) : (s.modLive f).resets = s.resets := rfl
@[simp] theorem now_modLive (s : State) (f : Regs → Regs) : (s.modLive f).now = s.now := rfl
@[simp] theorem podBase_modLive (s : State) (f : Regs → Regs) : (s.modLive f).podBase = s.podBase := rfl
@[simp] theorem podSince_modLive (s : State) (f : Regs → Regs) : (s.modLive f).podSince = s.podSince := rfl
@[simp] theorem podRate_modLive (s : State) (f : Regs → Regs) : (s.modLive f).podRate = s.podRate := rfl
@[simp] theorem mode_modLive (s : State) (f : Regs → Regs) : (s.modLive f).mode = s.mode := rfl
@[simp] theorem out_modLive (s : State) (f : Regs → Regs) : (s.modLive f).out = s.out := rfl
@[simp] theorem agenda_modLive (s : State) (f : Regs → Regs) : (s.modLive f).agenda = s.agenda := rfl
@[simp] theorem cur_modLive (s : State) (f : Regs → Regs) : (s.modLive f).cur = s.cur := rfl
@[simp] theorem bundle_modLive (s : State) (f : Regs → Regs) : (s.modLive f).bundle = s.bundle := rfl
@[simp] theorem lateLoads_modLive (s : State) (f : Regs → Regs) : (s.modLive f).lateLoads = s.lateLoads := rfl

@[simp] theorem mem_setCluster (s : State) (gc : Nat) (x : Cluster) : (s.setCluster gc x).mem = s.mem := rfl
@[simp] theorem faulty_setCluster (s : State) (gc : Nat) (x : Cluster) : (s.setCluster gc x).faulty = s.faulty := rfl
@[simp] theorem slots_setCluster (s : State) (gc : Nat) (x : Cluster) : (s.setCluster gc x).slots = s.slots := rfl
@[simp] theorem cores_setCluster (s : State) (gc : Nat) (x : Cluster) : (s.setCluster gc x).cores = s.cores := rfl
@[simp] theorem dies_setCluster (s : State) (gc : Nat) (x : Cluster) : (s.setCluster gc x).dies = s.dies := rfl
@[simp] theorem phases_setCluster (s : State) (gc : Nat) (x : Cluster) : (s.setCluster gc x).phases = s.phases := rfl
@[simp] theorem ports_setCluster (s : State) (gc : Nat) (x : Cluster) : (s.setCluster gc x).ports = s.ports := rfl
@[simp] theorem peers_setCluster (s : State) (gc : Nat) (x : Cluster) : (s.setCluster gc x).peers = s.peers := rfl
@[simp] theorem chip_setCluster (s : State) (gc : Nat) (x : Cluster) : (s.setCluster gc x).chip = s.chip := rfl
@[simp] theorem reqs_setCluster (s : State) (gc : Nat) (x : Cluster) : (s.setCluster gc x).reqs = s.reqs := rfl
@[simp] theorem parts_setCluster (s : State) (gc : Nat) (x : Cluster) : (s.setCluster gc x).parts = s.parts := rfl
@[simp] theorem orders_setCluster (s : State) (gc : Nat) (x : Cluster) : (s.setCluster gc x).orders = s.orders := rfl
@[simp] theorem partners_setCluster (s : State) (gc : Nat) (x : Cluster) : (s.setCluster gc x).partners = s.partners := rfl
@[simp] theorem attests_setCluster (s : State) (gc : Nat) (x : Cluster) : (s.setCluster gc x).attests = s.attests := rfl
@[simp] theorem root_setCluster (s : State) (gc : Nat) (x : Cluster) : (s.setCluster gc x).root = s.root := rfl
@[simp] theorem host_setCluster (s : State) (gc : Nat) (x : Cluster) : (s.setCluster gc x).host = s.host := rfl
@[simp] theorem man_setCluster (s : State) (gc : Nat) (x : Cluster) : (s.setCluster gc x).man = s.man := rfl
@[simp] theorem slices_setCluster (s : State) (gc : Nat) (x : Cluster) : (s.setCluster gc x).slices = s.slices := rfl
@[simp] theorem resets_setCluster (s : State) (gc : Nat) (x : Cluster) : (s.setCluster gc x).resets = s.resets := rfl
@[simp] theorem now_setCluster (s : State) (gc : Nat) (x : Cluster) : (s.setCluster gc x).now = s.now := rfl
@[simp] theorem podBase_setCluster (s : State) (gc : Nat) (x : Cluster) : (s.setCluster gc x).podBase = s.podBase := rfl
@[simp] theorem podSince_setCluster (s : State) (gc : Nat) (x : Cluster) : (s.setCluster gc x).podSince = s.podSince := rfl
@[simp] theorem podRate_setCluster (s : State) (gc : Nat) (x : Cluster) : (s.setCluster gc x).podRate = s.podRate := rfl
@[simp] theorem mode_setCluster (s : State) (gc : Nat) (x : Cluster) : (s.setCluster gc x).mode = s.mode := rfl
@[simp] theorem out_setCluster (s : State) (gc : Nat) (x : Cluster) : (s.setCluster gc x).out = s.out := rfl
@[simp] theorem agenda_setCluster (s : State) (gc : Nat) (x : Cluster) : (s.setCluster gc x).agenda = s.agenda := rfl
@[simp] theorem cur_setCluster (s : State) (gc : Nat) (x : Cluster) : (s.setCluster gc x).cur = s.cur := rfl
@[simp] theorem bundle_setCluster (s : State) (gc : Nat) (x : Cluster) : (s.setCluster gc x).bundle = s.bundle := rfl
@[simp] theorem lateLoads_setCluster (s : State) (gc : Nat) (x : Cluster) : (s.setCluster gc x).lateLoads = s.lateLoads := rfl

@[simp] theorem mem_modCluster (s : State) (gc : Nat) (f : Cluster → Cluster) : (s.modCluster gc f).mem = s.mem := rfl
@[simp] theorem faulty_modCluster (s : State) (gc : Nat) (f : Cluster → Cluster) : (s.modCluster gc f).faulty = s.faulty := rfl
@[simp] theorem slots_modCluster (s : State) (gc : Nat) (f : Cluster → Cluster) : (s.modCluster gc f).slots = s.slots := rfl
@[simp] theorem cores_modCluster (s : State) (gc : Nat) (f : Cluster → Cluster) : (s.modCluster gc f).cores = s.cores := rfl
@[simp] theorem dies_modCluster (s : State) (gc : Nat) (f : Cluster → Cluster) : (s.modCluster gc f).dies = s.dies := rfl
@[simp] theorem phases_modCluster (s : State) (gc : Nat) (f : Cluster → Cluster) : (s.modCluster gc f).phases = s.phases := rfl
@[simp] theorem ports_modCluster (s : State) (gc : Nat) (f : Cluster → Cluster) : (s.modCluster gc f).ports = s.ports := rfl
@[simp] theorem peers_modCluster (s : State) (gc : Nat) (f : Cluster → Cluster) : (s.modCluster gc f).peers = s.peers := rfl
@[simp] theorem chip_modCluster (s : State) (gc : Nat) (f : Cluster → Cluster) : (s.modCluster gc f).chip = s.chip := rfl
@[simp] theorem reqs_modCluster (s : State) (gc : Nat) (f : Cluster → Cluster) : (s.modCluster gc f).reqs = s.reqs := rfl
@[simp] theorem parts_modCluster (s : State) (gc : Nat) (f : Cluster → Cluster) : (s.modCluster gc f).parts = s.parts := rfl
@[simp] theorem orders_modCluster (s : State) (gc : Nat) (f : Cluster → Cluster) : (s.modCluster gc f).orders = s.orders := rfl
@[simp] theorem partners_modCluster (s : State) (gc : Nat) (f : Cluster → Cluster) : (s.modCluster gc f).partners = s.partners := rfl
@[simp] theorem attests_modCluster (s : State) (gc : Nat) (f : Cluster → Cluster) : (s.modCluster gc f).attests = s.attests := rfl
@[simp] theorem root_modCluster (s : State) (gc : Nat) (f : Cluster → Cluster) : (s.modCluster gc f).root = s.root := rfl
@[simp] theorem host_modCluster (s : State) (gc : Nat) (f : Cluster → Cluster) : (s.modCluster gc f).host = s.host := rfl
@[simp] theorem man_modCluster (s : State) (gc : Nat) (f : Cluster → Cluster) : (s.modCluster gc f).man = s.man := rfl
@[simp] theorem slices_modCluster (s : State) (gc : Nat) (f : Cluster → Cluster) : (s.modCluster gc f).slices = s.slices := rfl
@[simp] theorem resets_modCluster (s : State) (gc : Nat) (f : Cluster → Cluster) : (s.modCluster gc f).resets = s.resets := rfl
@[simp] theorem now_modCluster (s : State) (gc : Nat) (f : Cluster → Cluster) : (s.modCluster gc f).now = s.now := rfl
@[simp] theorem podBase_modCluster (s : State) (gc : Nat) (f : Cluster → Cluster) : (s.modCluster gc f).podBase = s.podBase := rfl
@[simp] theorem podSince_modCluster (s : State) (gc : Nat) (f : Cluster → Cluster) : (s.modCluster gc f).podSince = s.podSince := rfl
@[simp] theorem podRate_modCluster (s : State) (gc : Nat) (f : Cluster → Cluster) : (s.modCluster gc f).podRate = s.podRate := rfl
@[simp] theorem mode_modCluster (s : State) (gc : Nat) (f : Cluster → Cluster) : (s.modCluster gc f).mode = s.mode := rfl
@[simp] theorem out_modCluster (s : State) (gc : Nat) (f : Cluster → Cluster) : (s.modCluster gc f).out = s.out := rfl
@[simp] theorem agenda_modCluster (s : State) (gc : Nat) (f : Cluster → Cluster) : (s.modCluster gc f).agenda = s.agenda := rfl
@[simp] theorem cur_modCluster (s : State) (gc : Nat) (f : Cluster → Cluster) : (s.modCluster gc f).cur = s.cur := rfl
@[simp] theorem bundle_modCluster (s : State) (gc : Nat) (f : Cluster → Cluster) : (s.modCluster gc f).bundle = s.bundle := rfl
@[simp] theorem lateLoads_modCluster (s : State) (gc : Nat) (f : Cluster → Cluster) : (s.modCluster gc f).lateLoads = s.lateLoads := rfl

@[simp] theorem mem_modPull (s : State) (gc : Nat) (f : PullUnit → PullUnit) : (s.modPull gc f).mem = s.mem := rfl
@[simp] theorem faulty_modPull (s : State) (gc : Nat) (f : PullUnit → PullUnit) : (s.modPull gc f).faulty = s.faulty := rfl
@[simp] theorem slots_modPull (s : State) (gc : Nat) (f : PullUnit → PullUnit) : (s.modPull gc f).slots = s.slots := rfl
@[simp] theorem cores_modPull (s : State) (gc : Nat) (f : PullUnit → PullUnit) : (s.modPull gc f).cores = s.cores := rfl
@[simp] theorem dies_modPull (s : State) (gc : Nat) (f : PullUnit → PullUnit) : (s.modPull gc f).dies = s.dies := rfl
@[simp] theorem phases_modPull (s : State) (gc : Nat) (f : PullUnit → PullUnit) : (s.modPull gc f).phases = s.phases := rfl
@[simp] theorem ports_modPull (s : State) (gc : Nat) (f : PullUnit → PullUnit) : (s.modPull gc f).ports = s.ports := rfl
@[simp] theorem peers_modPull (s : State) (gc : Nat) (f : PullUnit → PullUnit) : (s.modPull gc f).peers = s.peers := rfl
@[simp] theorem chip_modPull (s : State) (gc : Nat) (f : PullUnit → PullUnit) : (s.modPull gc f).chip = s.chip := rfl
@[simp] theorem reqs_modPull (s : State) (gc : Nat) (f : PullUnit → PullUnit) : (s.modPull gc f).reqs = s.reqs := rfl
@[simp] theorem parts_modPull (s : State) (gc : Nat) (f : PullUnit → PullUnit) : (s.modPull gc f).parts = s.parts := rfl
@[simp] theorem orders_modPull (s : State) (gc : Nat) (f : PullUnit → PullUnit) : (s.modPull gc f).orders = s.orders := rfl
@[simp] theorem partners_modPull (s : State) (gc : Nat) (f : PullUnit → PullUnit) : (s.modPull gc f).partners = s.partners := rfl
@[simp] theorem attests_modPull (s : State) (gc : Nat) (f : PullUnit → PullUnit) : (s.modPull gc f).attests = s.attests := rfl
@[simp] theorem root_modPull (s : State) (gc : Nat) (f : PullUnit → PullUnit) : (s.modPull gc f).root = s.root := rfl
@[simp] theorem host_modPull (s : State) (gc : Nat) (f : PullUnit → PullUnit) : (s.modPull gc f).host = s.host := rfl
@[simp] theorem man_modPull (s : State) (gc : Nat) (f : PullUnit → PullUnit) : (s.modPull gc f).man = s.man := rfl
@[simp] theorem slices_modPull (s : State) (gc : Nat) (f : PullUnit → PullUnit) : (s.modPull gc f).slices = s.slices := rfl
@[simp] theorem resets_modPull (s : State) (gc : Nat) (f : PullUnit → PullUnit) : (s.modPull gc f).resets = s.resets := rfl
@[simp] theorem now_modPull (s : State) (gc : Nat) (f : PullUnit → PullUnit) : (s.modPull gc f).now = s.now := rfl
@[simp] theorem podBase_modPull (s : State) (gc : Nat) (f : PullUnit → PullUnit) : (s.modPull gc f).podBase = s.podBase := rfl
@[simp] theorem podSince_modPull (s : State) (gc : Nat) (f : PullUnit → PullUnit) : (s.modPull gc f).podSince = s.podSince := rfl
@[simp] theorem podRate_modPull (s : State) (gc : Nat) (f : PullUnit → PullUnit) : (s.modPull gc f).podRate = s.podRate := rfl
@[simp] theorem mode_modPull (s : State) (gc : Nat) (f : PullUnit → PullUnit) : (s.modPull gc f).mode = s.mode := rfl
@[simp] theorem out_modPull (s : State) (gc : Nat) (f : PullUnit → PullUnit) : (s.modPull gc f).out = s.out := rfl
@[simp] theorem agenda_modPull (s : State) (gc : Nat) (f : PullUnit → PullUnit) : (s.modPull gc f).agenda = s.agenda := rfl
@[simp] theorem cur_modPull (s : State) (gc : Nat) (f : PullUnit → PullUnit) : (s.modPull gc f).cur = s.cur := rfl
@[simp] theorem bundle_modPull (s : State) (gc : Nat) (f : PullUnit → PullUnit) : (s.modPull gc f).bundle = s.bundle := rfl
@[simp] theorem lateLoads_modPull (s : State) (gc : Nat) (f : PullUnit → PullUnit) : (s.modPull gc f).lateLoads = s.lateLoads := rfl

@[simp] theorem mem_modMat (s : State) (gc : Nat) (f : Matrix → Matrix) : (s.modMat gc f).mem = s.mem := rfl
@[simp] theorem faulty_modMat (s : State) (gc : Nat) (f : Matrix → Matrix) : (s.modMat gc f).faulty = s.faulty := rfl
@[simp] theorem slots_modMat (s : State) (gc : Nat) (f : Matrix → Matrix) : (s.modMat gc f).slots = s.slots := rfl
@[simp] theorem cores_modMat (s : State) (gc : Nat) (f : Matrix → Matrix) : (s.modMat gc f).cores = s.cores := rfl
@[simp] theorem dies_modMat (s : State) (gc : Nat) (f : Matrix → Matrix) : (s.modMat gc f).dies = s.dies := rfl
@[simp] theorem phases_modMat (s : State) (gc : Nat) (f : Matrix → Matrix) : (s.modMat gc f).phases = s.phases := rfl
@[simp] theorem ports_modMat (s : State) (gc : Nat) (f : Matrix → Matrix) : (s.modMat gc f).ports = s.ports := rfl
@[simp] theorem peers_modMat (s : State) (gc : Nat) (f : Matrix → Matrix) : (s.modMat gc f).peers = s.peers := rfl
@[simp] theorem chip_modMat (s : State) (gc : Nat) (f : Matrix → Matrix) : (s.modMat gc f).chip = s.chip := rfl
@[simp] theorem reqs_modMat (s : State) (gc : Nat) (f : Matrix → Matrix) : (s.modMat gc f).reqs = s.reqs := rfl
@[simp] theorem parts_modMat (s : State) (gc : Nat) (f : Matrix → Matrix) : (s.modMat gc f).parts = s.parts := rfl
@[simp] theorem orders_modMat (s : State) (gc : Nat) (f : Matrix → Matrix) : (s.modMat gc f).orders = s.orders := rfl
@[simp] theorem partners_modMat (s : State) (gc : Nat) (f : Matrix → Matrix) : (s.modMat gc f).partners = s.partners := rfl
@[simp] theorem attests_modMat (s : State) (gc : Nat) (f : Matrix → Matrix) : (s.modMat gc f).attests = s.attests := rfl
@[simp] theorem root_modMat (s : State) (gc : Nat) (f : Matrix → Matrix) : (s.modMat gc f).root = s.root := rfl
@[simp] theorem host_modMat (s : State) (gc : Nat) (f : Matrix → Matrix) : (s.modMat gc f).host = s.host := rfl
@[simp] theorem man_modMat (s : State) (gc : Nat) (f : Matrix → Matrix) : (s.modMat gc f).man = s.man := rfl
@[simp] theorem slices_modMat (s : State) (gc : Nat) (f : Matrix → Matrix) : (s.modMat gc f).slices = s.slices := rfl
@[simp] theorem resets_modMat (s : State) (gc : Nat) (f : Matrix → Matrix) : (s.modMat gc f).resets = s.resets := rfl
@[simp] theorem now_modMat (s : State) (gc : Nat) (f : Matrix → Matrix) : (s.modMat gc f).now = s.now := rfl
@[simp] theorem podBase_modMat (s : State) (gc : Nat) (f : Matrix → Matrix) : (s.modMat gc f).podBase = s.podBase := rfl
@[simp] theorem podSince_modMat (s : State) (gc : Nat) (f : Matrix → Matrix) : (s.modMat gc f).podSince = s.podSince := rfl
@[simp] theorem podRate_modMat (s : State) (gc : Nat) (f : Matrix → Matrix) : (s.modMat gc f).podRate = s.podRate := rfl
@[simp] theorem mode_modMat (s : State) (gc : Nat) (f : Matrix → Matrix) : (s.modMat gc f).mode = s.mode := rfl
@[simp] theorem out_modMat (s : State) (gc : Nat) (f : Matrix → Matrix) : (s.modMat gc f).out = s.out := rfl
@[simp] theorem agenda_modMat (s : State) (gc : Nat) (f : Matrix → Matrix) : (s.modMat gc f).agenda = s.agenda := rfl
@[simp] theorem cur_modMat (s : State) (gc : Nat) (f : Matrix → Matrix) : (s.modMat gc f).cur = s.cur := rfl
@[simp] theorem bundle_modMat (s : State) (gc : Nat) (f : Matrix → Matrix) : (s.modMat gc f).bundle = s.bundle := rfl
@[simp] theorem lateLoads_modMat (s : State) (gc : Nat) (f : Matrix → Matrix) : (s.modMat gc f).lateLoads = s.lateLoads := rfl

@[simp] theorem mem_modWatch (s : State) (gc id : Nat) (f : Watch → Watch) : (s.modWatch gc id f).mem = s.mem := rfl
@[simp] theorem faulty_modWatch (s : State) (gc id : Nat) (f : Watch → Watch) : (s.modWatch gc id f).faulty = s.faulty := rfl
@[simp] theorem slots_modWatch (s : State) (gc id : Nat) (f : Watch → Watch) : (s.modWatch gc id f).slots = s.slots := rfl
@[simp] theorem cores_modWatch (s : State) (gc id : Nat) (f : Watch → Watch) : (s.modWatch gc id f).cores = s.cores := rfl
@[simp] theorem dies_modWatch (s : State) (gc id : Nat) (f : Watch → Watch) : (s.modWatch gc id f).dies = s.dies := rfl
@[simp] theorem phases_modWatch (s : State) (gc id : Nat) (f : Watch → Watch) : (s.modWatch gc id f).phases = s.phases := rfl
@[simp] theorem ports_modWatch (s : State) (gc id : Nat) (f : Watch → Watch) : (s.modWatch gc id f).ports = s.ports := rfl
@[simp] theorem peers_modWatch (s : State) (gc id : Nat) (f : Watch → Watch) : (s.modWatch gc id f).peers = s.peers := rfl
@[simp] theorem chip_modWatch (s : State) (gc id : Nat) (f : Watch → Watch) : (s.modWatch gc id f).chip = s.chip := rfl
@[simp] theorem reqs_modWatch (s : State) (gc id : Nat) (f : Watch → Watch) : (s.modWatch gc id f).reqs = s.reqs := rfl
@[simp] theorem parts_modWatch (s : State) (gc id : Nat) (f : Watch → Watch) : (s.modWatch gc id f).parts = s.parts := rfl
@[simp] theorem orders_modWatch (s : State) (gc id : Nat) (f : Watch → Watch) : (s.modWatch gc id f).orders = s.orders := rfl
@[simp] theorem partners_modWatch (s : State) (gc id : Nat) (f : Watch → Watch) : (s.modWatch gc id f).partners = s.partners := rfl
@[simp] theorem attests_modWatch (s : State) (gc id : Nat) (f : Watch → Watch) : (s.modWatch gc id f).attests = s.attests := rfl
@[simp] theorem root_modWatch (s : State) (gc id : Nat) (f : Watch → Watch) : (s.modWatch gc id f).root = s.root := rfl
@[simp] theorem host_modWatch (s : State) (gc id : Nat) (f : Watch → Watch) : (s.modWatch gc id f).host = s.host := rfl
@[simp] theorem man_modWatch (s : State) (gc id : Nat) (f : Watch → Watch) : (s.modWatch gc id f).man = s.man := rfl
@[simp] theorem slices_modWatch (s : State) (gc id : Nat) (f : Watch → Watch) : (s.modWatch gc id f).slices = s.slices := rfl
@[simp] theorem resets_modWatch (s : State) (gc id : Nat) (f : Watch → Watch) : (s.modWatch gc id f).resets = s.resets := rfl
@[simp] theorem now_modWatch (s : State) (gc id : Nat) (f : Watch → Watch) : (s.modWatch gc id f).now = s.now := rfl
@[simp] theorem podBase_modWatch (s : State) (gc id : Nat) (f : Watch → Watch) : (s.modWatch gc id f).podBase = s.podBase := rfl
@[simp] theorem podSince_modWatch (s : State) (gc id : Nat) (f : Watch → Watch) : (s.modWatch gc id f).podSince = s.podSince := rfl
@[simp] theorem podRate_modWatch (s : State) (gc id : Nat) (f : Watch → Watch) : (s.modWatch gc id f).podRate = s.podRate := rfl
@[simp] theorem mode_modWatch (s : State) (gc id : Nat) (f : Watch → Watch) : (s.modWatch gc id f).mode = s.mode := rfl
@[simp] theorem out_modWatch (s : State) (gc id : Nat) (f : Watch → Watch) : (s.modWatch gc id f).out = s.out := rfl
@[simp] theorem agenda_modWatch (s : State) (gc id : Nat) (f : Watch → Watch) : (s.modWatch gc id f).agenda = s.agenda := rfl
@[simp] theorem cur_modWatch (s : State) (gc id : Nat) (f : Watch → Watch) : (s.modWatch gc id f).cur = s.cur := rfl
@[simp] theorem bundle_modWatch (s : State) (gc id : Nat) (f : Watch → Watch) : (s.modWatch gc id f).bundle = s.bundle := rfl
@[simp] theorem lateLoads_modWatch (s : State) (gc id : Nat) (f : Watch → Watch) : (s.modWatch gc id f).lateLoads = s.lateLoads := rfl

@[simp] theorem mem_setPart (s : State) (gc k : Nat) (p : Partition) : (s.setPart gc k p).mem = s.mem := rfl
@[simp] theorem faulty_setPart (s : State) (gc k : Nat) (p : Partition) : (s.setPart gc k p).faulty = s.faulty := rfl
@[simp] theorem slots_setPart (s : State) (gc k : Nat) (p : Partition) : (s.setPart gc k p).slots = s.slots := rfl
@[simp] theorem cores_setPart (s : State) (gc k : Nat) (p : Partition) : (s.setPart gc k p).cores = s.cores := rfl
@[simp] theorem dies_setPart (s : State) (gc k : Nat) (p : Partition) : (s.setPart gc k p).dies = s.dies := rfl
@[simp] theorem phases_setPart (s : State) (gc k : Nat) (p : Partition) : (s.setPart gc k p).phases = s.phases := rfl
@[simp] theorem ports_setPart (s : State) (gc k : Nat) (p : Partition) : (s.setPart gc k p).ports = s.ports := rfl
@[simp] theorem peers_setPart (s : State) (gc k : Nat) (p : Partition) : (s.setPart gc k p).peers = s.peers := rfl
@[simp] theorem chip_setPart (s : State) (gc k : Nat) (p : Partition) : (s.setPart gc k p).chip = s.chip := rfl
@[simp] theorem reqs_setPart (s : State) (gc k : Nat) (p : Partition) : (s.setPart gc k p).reqs = s.reqs := rfl
@[simp] theorem parts_setPart (s : State) (gc k : Nat) (p : Partition) : (s.setPart gc k p).parts = s.parts := rfl
@[simp] theorem orders_setPart (s : State) (gc k : Nat) (p : Partition) : (s.setPart gc k p).orders = s.orders := rfl
@[simp] theorem partners_setPart (s : State) (gc k : Nat) (p : Partition) : (s.setPart gc k p).partners = s.partners := rfl
@[simp] theorem attests_setPart (s : State) (gc k : Nat) (p : Partition) : (s.setPart gc k p).attests = s.attests := rfl
@[simp] theorem root_setPart (s : State) (gc k : Nat) (p : Partition) : (s.setPart gc k p).root = s.root := rfl
@[simp] theorem host_setPart (s : State) (gc k : Nat) (p : Partition) : (s.setPart gc k p).host = s.host := rfl
@[simp] theorem man_setPart (s : State) (gc k : Nat) (p : Partition) : (s.setPart gc k p).man = s.man := rfl
@[simp] theorem slices_setPart (s : State) (gc k : Nat) (p : Partition) : (s.setPart gc k p).slices = s.slices := rfl
@[simp] theorem resets_setPart (s : State) (gc k : Nat) (p : Partition) : (s.setPart gc k p).resets = s.resets := rfl
@[simp] theorem now_setPart (s : State) (gc k : Nat) (p : Partition) : (s.setPart gc k p).now = s.now := rfl
@[simp] theorem podBase_setPart (s : State) (gc k : Nat) (p : Partition) : (s.setPart gc k p).podBase = s.podBase := rfl
@[simp] theorem podSince_setPart (s : State) (gc k : Nat) (p : Partition) : (s.setPart gc k p).podSince = s.podSince := rfl
@[simp] theorem podRate_setPart (s : State) (gc k : Nat) (p : Partition) : (s.setPart gc k p).podRate = s.podRate := rfl
@[simp] theorem mode_setPart (s : State) (gc k : Nat) (p : Partition) : (s.setPart gc k p).mode = s.mode := rfl
@[simp] theorem out_setPart (s : State) (gc k : Nat) (p : Partition) : (s.setPart gc k p).out = s.out := rfl
@[simp] theorem agenda_setPart (s : State) (gc k : Nat) (p : Partition) : (s.setPart gc k p).agenda = s.agenda := rfl
@[simp] theorem cur_setPart (s : State) (gc k : Nat) (p : Partition) : (s.setPart gc k p).cur = s.cur := rfl
@[simp] theorem bundle_setPart (s : State) (gc k : Nat) (p : Partition) : (s.setPart gc k p).bundle = s.bundle := rfl
@[simp] theorem lateLoads_setPart (s : State) (gc k : Nat) (p : Partition) : (s.setPart gc k p).lateLoads = s.lateLoads := rfl

@[simp] theorem mem_pushDone (s : State) (gc : Nat) (d : Done) : (s.pushDone gc d).mem = s.mem := rfl
@[simp] theorem faulty_pushDone (s : State) (gc : Nat) (d : Done) : (s.pushDone gc d).faulty = s.faulty := rfl
@[simp] theorem slots_pushDone (s : State) (gc : Nat) (d : Done) : (s.pushDone gc d).slots = s.slots := rfl
@[simp] theorem cores_pushDone (s : State) (gc : Nat) (d : Done) : (s.pushDone gc d).cores = s.cores := rfl
@[simp] theorem dies_pushDone (s : State) (gc : Nat) (d : Done) : (s.pushDone gc d).dies = s.dies := rfl
@[simp] theorem phases_pushDone (s : State) (gc : Nat) (d : Done) : (s.pushDone gc d).phases = s.phases := rfl
@[simp] theorem ports_pushDone (s : State) (gc : Nat) (d : Done) : (s.pushDone gc d).ports = s.ports := rfl
@[simp] theorem peers_pushDone (s : State) (gc : Nat) (d : Done) : (s.pushDone gc d).peers = s.peers := rfl
@[simp] theorem chip_pushDone (s : State) (gc : Nat) (d : Done) : (s.pushDone gc d).chip = s.chip := rfl
@[simp] theorem reqs_pushDone (s : State) (gc : Nat) (d : Done) : (s.pushDone gc d).reqs = s.reqs := rfl
@[simp] theorem parts_pushDone (s : State) (gc : Nat) (d : Done) : (s.pushDone gc d).parts = s.parts := rfl
@[simp] theorem orders_pushDone (s : State) (gc : Nat) (d : Done) : (s.pushDone gc d).orders = s.orders := rfl
@[simp] theorem partners_pushDone (s : State) (gc : Nat) (d : Done) : (s.pushDone gc d).partners = s.partners := rfl
@[simp] theorem attests_pushDone (s : State) (gc : Nat) (d : Done) : (s.pushDone gc d).attests = s.attests := rfl
@[simp] theorem root_pushDone (s : State) (gc : Nat) (d : Done) : (s.pushDone gc d).root = s.root := rfl
@[simp] theorem host_pushDone (s : State) (gc : Nat) (d : Done) : (s.pushDone gc d).host = s.host := rfl
@[simp] theorem man_pushDone (s : State) (gc : Nat) (d : Done) : (s.pushDone gc d).man = s.man := rfl
@[simp] theorem slices_pushDone (s : State) (gc : Nat) (d : Done) : (s.pushDone gc d).slices = s.slices := rfl
@[simp] theorem resets_pushDone (s : State) (gc : Nat) (d : Done) : (s.pushDone gc d).resets = s.resets := rfl
@[simp] theorem now_pushDone (s : State) (gc : Nat) (d : Done) : (s.pushDone gc d).now = s.now := rfl
@[simp] theorem podBase_pushDone (s : State) (gc : Nat) (d : Done) : (s.pushDone gc d).podBase = s.podBase := rfl
@[simp] theorem podSince_pushDone (s : State) (gc : Nat) (d : Done) : (s.pushDone gc d).podSince = s.podSince := rfl
@[simp] theorem podRate_pushDone (s : State) (gc : Nat) (d : Done) : (s.pushDone gc d).podRate = s.podRate := rfl
@[simp] theorem mode_pushDone (s : State) (gc : Nat) (d : Done) : (s.pushDone gc d).mode = s.mode := rfl
@[simp] theorem out_pushDone (s : State) (gc : Nat) (d : Done) : (s.pushDone gc d).out = s.out := rfl
@[simp] theorem agenda_pushDone (s : State) (gc : Nat) (d : Done) : (s.pushDone gc d).agenda = s.agenda := rfl
@[simp] theorem cur_pushDone (s : State) (gc : Nat) (d : Done) : (s.pushDone gc d).cur = s.cur := rfl
@[simp] theorem bundle_pushDone (s : State) (gc : Nat) (d : Done) : (s.pushDone gc d).bundle = s.bundle := rfl
@[simp] theorem lateLoads_pushDone (s : State) (gc : Nat) (d : Done) : (s.pushDone gc d).lateLoads = s.lateLoads := rfl

@[simp] theorem mem_modCore (s : State) (c : Nat) (f : Core → Core) : (s.modCore c f).mem = s.mem := rfl
@[simp] theorem faulty_modCore (s : State) (c : Nat) (f : Core → Core) : (s.modCore c f).faulty = s.faulty := rfl
@[simp] theorem slots_modCore (s : State) (c : Nat) (f : Core → Core) : (s.modCore c f).slots = s.slots := rfl
@[simp] theorem clusters_modCore (s : State) (c : Nat) (f : Core → Core) : (s.modCore c f).clusters = s.clusters := rfl
@[simp] theorem dies_modCore (s : State) (c : Nat) (f : Core → Core) : (s.modCore c f).dies = s.dies := rfl
@[simp] theorem phases_modCore (s : State) (c : Nat) (f : Core → Core) : (s.modCore c f).phases = s.phases := rfl
@[simp] theorem ports_modCore (s : State) (c : Nat) (f : Core → Core) : (s.modCore c f).ports = s.ports := rfl
@[simp] theorem peers_modCore (s : State) (c : Nat) (f : Core → Core) : (s.modCore c f).peers = s.peers := rfl
@[simp] theorem chip_modCore (s : State) (c : Nat) (f : Core → Core) : (s.modCore c f).chip = s.chip := rfl
@[simp] theorem reqs_modCore (s : State) (c : Nat) (f : Core → Core) : (s.modCore c f).reqs = s.reqs := rfl
@[simp] theorem parts_modCore (s : State) (c : Nat) (f : Core → Core) : (s.modCore c f).parts = s.parts := rfl
@[simp] theorem orders_modCore (s : State) (c : Nat) (f : Core → Core) : (s.modCore c f).orders = s.orders := rfl
@[simp] theorem partners_modCore (s : State) (c : Nat) (f : Core → Core) : (s.modCore c f).partners = s.partners := rfl
@[simp] theorem attests_modCore (s : State) (c : Nat) (f : Core → Core) : (s.modCore c f).attests = s.attests := rfl
@[simp] theorem root_modCore (s : State) (c : Nat) (f : Core → Core) : (s.modCore c f).root = s.root := rfl
@[simp] theorem host_modCore (s : State) (c : Nat) (f : Core → Core) : (s.modCore c f).host = s.host := rfl
@[simp] theorem man_modCore (s : State) (c : Nat) (f : Core → Core) : (s.modCore c f).man = s.man := rfl
@[simp] theorem slices_modCore (s : State) (c : Nat) (f : Core → Core) : (s.modCore c f).slices = s.slices := rfl
@[simp] theorem resets_modCore (s : State) (c : Nat) (f : Core → Core) : (s.modCore c f).resets = s.resets := rfl
@[simp] theorem now_modCore (s : State) (c : Nat) (f : Core → Core) : (s.modCore c f).now = s.now := rfl
@[simp] theorem podBase_modCore (s : State) (c : Nat) (f : Core → Core) : (s.modCore c f).podBase = s.podBase := rfl
@[simp] theorem podSince_modCore (s : State) (c : Nat) (f : Core → Core) : (s.modCore c f).podSince = s.podSince := rfl
@[simp] theorem podRate_modCore (s : State) (c : Nat) (f : Core → Core) : (s.modCore c f).podRate = s.podRate := rfl
@[simp] theorem mode_modCore (s : State) (c : Nat) (f : Core → Core) : (s.modCore c f).mode = s.mode := rfl
@[simp] theorem out_modCore (s : State) (c : Nat) (f : Core → Core) : (s.modCore c f).out = s.out := rfl
@[simp] theorem agenda_modCore (s : State) (c : Nat) (f : Core → Core) : (s.modCore c f).agenda = s.agenda := rfl
@[simp] theorem cur_modCore (s : State) (c : Nat) (f : Core → Core) : (s.modCore c f).cur = s.cur := rfl
@[simp] theorem bundle_modCore (s : State) (c : Nat) (f : Core → Core) : (s.modCore c f).bundle = s.bundle := rfl
@[simp] theorem lateLoads_modCore (s : State) (c : Nat) (f : Core → Core) : (s.modCore c f).lateLoads = s.lateLoads := rfl

@[simp] theorem mem_setDie (s : State) (d : Nat) (x : Die) : (s.setDie d x).mem = s.mem := rfl
@[simp] theorem faulty_setDie (s : State) (d : Nat) (x : Die) : (s.setDie d x).faulty = s.faulty := rfl
@[simp] theorem slots_setDie (s : State) (d : Nat) (x : Die) : (s.setDie d x).slots = s.slots := rfl
@[simp] theorem cores_setDie (s : State) (d : Nat) (x : Die) : (s.setDie d x).cores = s.cores := rfl
@[simp] theorem clusters_setDie (s : State) (d : Nat) (x : Die) : (s.setDie d x).clusters = s.clusters := rfl
@[simp] theorem phases_setDie (s : State) (d : Nat) (x : Die) : (s.setDie d x).phases = s.phases := rfl
@[simp] theorem ports_setDie (s : State) (d : Nat) (x : Die) : (s.setDie d x).ports = s.ports := rfl
@[simp] theorem peers_setDie (s : State) (d : Nat) (x : Die) : (s.setDie d x).peers = s.peers := rfl
@[simp] theorem chip_setDie (s : State) (d : Nat) (x : Die) : (s.setDie d x).chip = s.chip := rfl
@[simp] theorem reqs_setDie (s : State) (d : Nat) (x : Die) : (s.setDie d x).reqs = s.reqs := rfl
@[simp] theorem parts_setDie (s : State) (d : Nat) (x : Die) : (s.setDie d x).parts = s.parts := rfl
@[simp] theorem orders_setDie (s : State) (d : Nat) (x : Die) : (s.setDie d x).orders = s.orders := rfl
@[simp] theorem partners_setDie (s : State) (d : Nat) (x : Die) : (s.setDie d x).partners = s.partners := rfl
@[simp] theorem attests_setDie (s : State) (d : Nat) (x : Die) : (s.setDie d x).attests = s.attests := rfl
@[simp] theorem root_setDie (s : State) (d : Nat) (x : Die) : (s.setDie d x).root = s.root := rfl
@[simp] theorem host_setDie (s : State) (d : Nat) (x : Die) : (s.setDie d x).host = s.host := rfl
@[simp] theorem man_setDie (s : State) (d : Nat) (x : Die) : (s.setDie d x).man = s.man := rfl
@[simp] theorem slices_setDie (s : State) (d : Nat) (x : Die) : (s.setDie d x).slices = s.slices := rfl
@[simp] theorem resets_setDie (s : State) (d : Nat) (x : Die) : (s.setDie d x).resets = s.resets := rfl
@[simp] theorem now_setDie (s : State) (d : Nat) (x : Die) : (s.setDie d x).now = s.now := rfl
@[simp] theorem podBase_setDie (s : State) (d : Nat) (x : Die) : (s.setDie d x).podBase = s.podBase := rfl
@[simp] theorem podSince_setDie (s : State) (d : Nat) (x : Die) : (s.setDie d x).podSince = s.podSince := rfl
@[simp] theorem podRate_setDie (s : State) (d : Nat) (x : Die) : (s.setDie d x).podRate = s.podRate := rfl
@[simp] theorem mode_setDie (s : State) (d : Nat) (x : Die) : (s.setDie d x).mode = s.mode := rfl
@[simp] theorem out_setDie (s : State) (d : Nat) (x : Die) : (s.setDie d x).out = s.out := rfl
@[simp] theorem agenda_setDie (s : State) (d : Nat) (x : Die) : (s.setDie d x).agenda = s.agenda := rfl
@[simp] theorem cur_setDie (s : State) (d : Nat) (x : Die) : (s.setDie d x).cur = s.cur := rfl
@[simp] theorem bundle_setDie (s : State) (d : Nat) (x : Die) : (s.setDie d x).bundle = s.bundle := rfl
@[simp] theorem lateLoads_setDie (s : State) (d : Nat) (x : Die) : (s.setDie d x).lateLoads = s.lateLoads := rfl

@[simp] theorem mem_modDie (s : State) (d : Nat) (f : Die → Die) : (s.modDie d f).mem = s.mem := rfl
@[simp] theorem faulty_modDie (s : State) (d : Nat) (f : Die → Die) : (s.modDie d f).faulty = s.faulty := rfl
@[simp] theorem slots_modDie (s : State) (d : Nat) (f : Die → Die) : (s.modDie d f).slots = s.slots := rfl
@[simp] theorem cores_modDie (s : State) (d : Nat) (f : Die → Die) : (s.modDie d f).cores = s.cores := rfl
@[simp] theorem clusters_modDie (s : State) (d : Nat) (f : Die → Die) : (s.modDie d f).clusters = s.clusters := rfl
@[simp] theorem phases_modDie (s : State) (d : Nat) (f : Die → Die) : (s.modDie d f).phases = s.phases := rfl
@[simp] theorem ports_modDie (s : State) (d : Nat) (f : Die → Die) : (s.modDie d f).ports = s.ports := rfl
@[simp] theorem peers_modDie (s : State) (d : Nat) (f : Die → Die) : (s.modDie d f).peers = s.peers := rfl
@[simp] theorem chip_modDie (s : State) (d : Nat) (f : Die → Die) : (s.modDie d f).chip = s.chip := rfl
@[simp] theorem reqs_modDie (s : State) (d : Nat) (f : Die → Die) : (s.modDie d f).reqs = s.reqs := rfl
@[simp] theorem parts_modDie (s : State) (d : Nat) (f : Die → Die) : (s.modDie d f).parts = s.parts := rfl
@[simp] theorem orders_modDie (s : State) (d : Nat) (f : Die → Die) : (s.modDie d f).orders = s.orders := rfl
@[simp] theorem partners_modDie (s : State) (d : Nat) (f : Die → Die) : (s.modDie d f).partners = s.partners := rfl
@[simp] theorem attests_modDie (s : State) (d : Nat) (f : Die → Die) : (s.modDie d f).attests = s.attests := rfl
@[simp] theorem root_modDie (s : State) (d : Nat) (f : Die → Die) : (s.modDie d f).root = s.root := rfl
@[simp] theorem host_modDie (s : State) (d : Nat) (f : Die → Die) : (s.modDie d f).host = s.host := rfl
@[simp] theorem man_modDie (s : State) (d : Nat) (f : Die → Die) : (s.modDie d f).man = s.man := rfl
@[simp] theorem slices_modDie (s : State) (d : Nat) (f : Die → Die) : (s.modDie d f).slices = s.slices := rfl
@[simp] theorem resets_modDie (s : State) (d : Nat) (f : Die → Die) : (s.modDie d f).resets = s.resets := rfl
@[simp] theorem now_modDie (s : State) (d : Nat) (f : Die → Die) : (s.modDie d f).now = s.now := rfl
@[simp] theorem podBase_modDie (s : State) (d : Nat) (f : Die → Die) : (s.modDie d f).podBase = s.podBase := rfl
@[simp] theorem podSince_modDie (s : State) (d : Nat) (f : Die → Die) : (s.modDie d f).podSince = s.podSince := rfl
@[simp] theorem podRate_modDie (s : State) (d : Nat) (f : Die → Die) : (s.modDie d f).podRate = s.podRate := rfl
@[simp] theorem mode_modDie (s : State) (d : Nat) (f : Die → Die) : (s.modDie d f).mode = s.mode := rfl
@[simp] theorem out_modDie (s : State) (d : Nat) (f : Die → Die) : (s.modDie d f).out = s.out := rfl
@[simp] theorem agenda_modDie (s : State) (d : Nat) (f : Die → Die) : (s.modDie d f).agenda = s.agenda := rfl
@[simp] theorem cur_modDie (s : State) (d : Nat) (f : Die → Die) : (s.modDie d f).cur = s.cur := rfl
@[simp] theorem bundle_modDie (s : State) (d : Nat) (f : Die → Die) : (s.modDie d f).bundle = s.bundle := rfl
@[simp] theorem lateLoads_modDie (s : State) (d : Nat) (f : Die → Die) : (s.modDie d f).lateLoads = s.lateLoads := rfl

@[simp] theorem mem_setQueue (s : State) (t : Nat) (q : Queue) : (s.setQueue t q).mem = s.mem := rfl
@[simp] theorem faulty_setQueue (s : State) (t : Nat) (q : Queue) : (s.setQueue t q).faulty = s.faulty := rfl
@[simp] theorem slots_setQueue (s : State) (t : Nat) (q : Queue) : (s.setQueue t q).slots = s.slots := rfl
@[simp] theorem cores_setQueue (s : State) (t : Nat) (q : Queue) : (s.setQueue t q).cores = s.cores := rfl
@[simp] theorem clusters_setQueue (s : State) (t : Nat) (q : Queue) : (s.setQueue t q).clusters = s.clusters := rfl
@[simp] theorem phases_setQueue (s : State) (t : Nat) (q : Queue) : (s.setQueue t q).phases = s.phases := rfl
@[simp] theorem ports_setQueue (s : State) (t : Nat) (q : Queue) : (s.setQueue t q).ports = s.ports := rfl
@[simp] theorem peers_setQueue (s : State) (t : Nat) (q : Queue) : (s.setQueue t q).peers = s.peers := rfl
@[simp] theorem chip_setQueue (s : State) (t : Nat) (q : Queue) : (s.setQueue t q).chip = s.chip := rfl
@[simp] theorem reqs_setQueue (s : State) (t : Nat) (q : Queue) : (s.setQueue t q).reqs = s.reqs := rfl
@[simp] theorem parts_setQueue (s : State) (t : Nat) (q : Queue) : (s.setQueue t q).parts = s.parts := rfl
@[simp] theorem orders_setQueue (s : State) (t : Nat) (q : Queue) : (s.setQueue t q).orders = s.orders := rfl
@[simp] theorem partners_setQueue (s : State) (t : Nat) (q : Queue) : (s.setQueue t q).partners = s.partners := rfl
@[simp] theorem attests_setQueue (s : State) (t : Nat) (q : Queue) : (s.setQueue t q).attests = s.attests := rfl
@[simp] theorem root_setQueue (s : State) (t : Nat) (q : Queue) : (s.setQueue t q).root = s.root := rfl
@[simp] theorem host_setQueue (s : State) (t : Nat) (q : Queue) : (s.setQueue t q).host = s.host := rfl
@[simp] theorem man_setQueue (s : State) (t : Nat) (q : Queue) : (s.setQueue t q).man = s.man := rfl
@[simp] theorem slices_setQueue (s : State) (t : Nat) (q : Queue) : (s.setQueue t q).slices = s.slices := rfl
@[simp] theorem resets_setQueue (s : State) (t : Nat) (q : Queue) : (s.setQueue t q).resets = s.resets := rfl
@[simp] theorem now_setQueue (s : State) (t : Nat) (q : Queue) : (s.setQueue t q).now = s.now := rfl
@[simp] theorem podBase_setQueue (s : State) (t : Nat) (q : Queue) : (s.setQueue t q).podBase = s.podBase := rfl
@[simp] theorem podSince_setQueue (s : State) (t : Nat) (q : Queue) : (s.setQueue t q).podSince = s.podSince := rfl
@[simp] theorem podRate_setQueue (s : State) (t : Nat) (q : Queue) : (s.setQueue t q).podRate = s.podRate := rfl
@[simp] theorem mode_setQueue (s : State) (t : Nat) (q : Queue) : (s.setQueue t q).mode = s.mode := rfl
@[simp] theorem out_setQueue (s : State) (t : Nat) (q : Queue) : (s.setQueue t q).out = s.out := rfl
@[simp] theorem agenda_setQueue (s : State) (t : Nat) (q : Queue) : (s.setQueue t q).agenda = s.agenda := rfl
@[simp] theorem cur_setQueue (s : State) (t : Nat) (q : Queue) : (s.setQueue t q).cur = s.cur := rfl
@[simp] theorem bundle_setQueue (s : State) (t : Nat) (q : Queue) : (s.setQueue t q).bundle = s.bundle := rfl
@[simp] theorem lateLoads_setQueue (s : State) (t : Nat) (q : Queue) : (s.setQueue t q).lateLoads = s.lateLoads := rfl

@[simp] theorem mem_modPort (s : State) (k : Nat) (f : Port → Port) : (s.modPort k f).mem = s.mem := rfl
@[simp] theorem faulty_modPort (s : State) (k : Nat) (f : Port → Port) : (s.modPort k f).faulty = s.faulty := rfl
@[simp] theorem slots_modPort (s : State) (k : Nat) (f : Port → Port) : (s.modPort k f).slots = s.slots := rfl
@[simp] theorem cores_modPort (s : State) (k : Nat) (f : Port → Port) : (s.modPort k f).cores = s.cores := rfl
@[simp] theorem clusters_modPort (s : State) (k : Nat) (f : Port → Port) : (s.modPort k f).clusters = s.clusters := rfl
@[simp] theorem dies_modPort (s : State) (k : Nat) (f : Port → Port) : (s.modPort k f).dies = s.dies := rfl
@[simp] theorem phases_modPort (s : State) (k : Nat) (f : Port → Port) : (s.modPort k f).phases = s.phases := rfl
@[simp] theorem peers_modPort (s : State) (k : Nat) (f : Port → Port) : (s.modPort k f).peers = s.peers := rfl
@[simp] theorem chip_modPort (s : State) (k : Nat) (f : Port → Port) : (s.modPort k f).chip = s.chip := rfl
@[simp] theorem reqs_modPort (s : State) (k : Nat) (f : Port → Port) : (s.modPort k f).reqs = s.reqs := rfl
@[simp] theorem parts_modPort (s : State) (k : Nat) (f : Port → Port) : (s.modPort k f).parts = s.parts := rfl
@[simp] theorem orders_modPort (s : State) (k : Nat) (f : Port → Port) : (s.modPort k f).orders = s.orders := rfl
@[simp] theorem partners_modPort (s : State) (k : Nat) (f : Port → Port) : (s.modPort k f).partners = s.partners := rfl
@[simp] theorem attests_modPort (s : State) (k : Nat) (f : Port → Port) : (s.modPort k f).attests = s.attests := rfl
@[simp] theorem root_modPort (s : State) (k : Nat) (f : Port → Port) : (s.modPort k f).root = s.root := rfl
@[simp] theorem host_modPort (s : State) (k : Nat) (f : Port → Port) : (s.modPort k f).host = s.host := rfl
@[simp] theorem man_modPort (s : State) (k : Nat) (f : Port → Port) : (s.modPort k f).man = s.man := rfl
@[simp] theorem slices_modPort (s : State) (k : Nat) (f : Port → Port) : (s.modPort k f).slices = s.slices := rfl
@[simp] theorem resets_modPort (s : State) (k : Nat) (f : Port → Port) : (s.modPort k f).resets = s.resets := rfl
@[simp] theorem now_modPort (s : State) (k : Nat) (f : Port → Port) : (s.modPort k f).now = s.now := rfl
@[simp] theorem podBase_modPort (s : State) (k : Nat) (f : Port → Port) : (s.modPort k f).podBase = s.podBase := rfl
@[simp] theorem podSince_modPort (s : State) (k : Nat) (f : Port → Port) : (s.modPort k f).podSince = s.podSince := rfl
@[simp] theorem podRate_modPort (s : State) (k : Nat) (f : Port → Port) : (s.modPort k f).podRate = s.podRate := rfl
@[simp] theorem mode_modPort (s : State) (k : Nat) (f : Port → Port) : (s.modPort k f).mode = s.mode := rfl
@[simp] theorem out_modPort (s : State) (k : Nat) (f : Port → Port) : (s.modPort k f).out = s.out := rfl
@[simp] theorem agenda_modPort (s : State) (k : Nat) (f : Port → Port) : (s.modPort k f).agenda = s.agenda := rfl
@[simp] theorem cur_modPort (s : State) (k : Nat) (f : Port → Port) : (s.modPort k f).cur = s.cur := rfl
@[simp] theorem bundle_modPort (s : State) (k : Nat) (f : Port → Port) : (s.modPort k f).bundle = s.bundle := rfl
@[simp] theorem lateLoads_modPort (s : State) (k : Nat) (f : Port → Port) : (s.modPort k f).lateLoads = s.lateLoads := rfl

@[simp] theorem mem_modPeer (s : State) (c : Nat) (f : Peer → Peer) : (s.modPeer c f).mem = s.mem := rfl
@[simp] theorem faulty_modPeer (s : State) (c : Nat) (f : Peer → Peer) : (s.modPeer c f).faulty = s.faulty := rfl
@[simp] theorem slots_modPeer (s : State) (c : Nat) (f : Peer → Peer) : (s.modPeer c f).slots = s.slots := rfl
@[simp] theorem cores_modPeer (s : State) (c : Nat) (f : Peer → Peer) : (s.modPeer c f).cores = s.cores := rfl
@[simp] theorem clusters_modPeer (s : State) (c : Nat) (f : Peer → Peer) : (s.modPeer c f).clusters = s.clusters := rfl
@[simp] theorem dies_modPeer (s : State) (c : Nat) (f : Peer → Peer) : (s.modPeer c f).dies = s.dies := rfl
@[simp] theorem phases_modPeer (s : State) (c : Nat) (f : Peer → Peer) : (s.modPeer c f).phases = s.phases := rfl
@[simp] theorem ports_modPeer (s : State) (c : Nat) (f : Peer → Peer) : (s.modPeer c f).ports = s.ports := rfl
@[simp] theorem chip_modPeer (s : State) (c : Nat) (f : Peer → Peer) : (s.modPeer c f).chip = s.chip := rfl
@[simp] theorem reqs_modPeer (s : State) (c : Nat) (f : Peer → Peer) : (s.modPeer c f).reqs = s.reqs := rfl
@[simp] theorem parts_modPeer (s : State) (c : Nat) (f : Peer → Peer) : (s.modPeer c f).parts = s.parts := rfl
@[simp] theorem orders_modPeer (s : State) (c : Nat) (f : Peer → Peer) : (s.modPeer c f).orders = s.orders := rfl
@[simp] theorem partners_modPeer (s : State) (c : Nat) (f : Peer → Peer) : (s.modPeer c f).partners = s.partners := rfl
@[simp] theorem attests_modPeer (s : State) (c : Nat) (f : Peer → Peer) : (s.modPeer c f).attests = s.attests := rfl
@[simp] theorem root_modPeer (s : State) (c : Nat) (f : Peer → Peer) : (s.modPeer c f).root = s.root := rfl
@[simp] theorem host_modPeer (s : State) (c : Nat) (f : Peer → Peer) : (s.modPeer c f).host = s.host := rfl
@[simp] theorem man_modPeer (s : State) (c : Nat) (f : Peer → Peer) : (s.modPeer c f).man = s.man := rfl
@[simp] theorem slices_modPeer (s : State) (c : Nat) (f : Peer → Peer) : (s.modPeer c f).slices = s.slices := rfl
@[simp] theorem resets_modPeer (s : State) (c : Nat) (f : Peer → Peer) : (s.modPeer c f).resets = s.resets := rfl
@[simp] theorem now_modPeer (s : State) (c : Nat) (f : Peer → Peer) : (s.modPeer c f).now = s.now := rfl
@[simp] theorem podBase_modPeer (s : State) (c : Nat) (f : Peer → Peer) : (s.modPeer c f).podBase = s.podBase := rfl
@[simp] theorem podSince_modPeer (s : State) (c : Nat) (f : Peer → Peer) : (s.modPeer c f).podSince = s.podSince := rfl
@[simp] theorem podRate_modPeer (s : State) (c : Nat) (f : Peer → Peer) : (s.modPeer c f).podRate = s.podRate := rfl
@[simp] theorem mode_modPeer (s : State) (c : Nat) (f : Peer → Peer) : (s.modPeer c f).mode = s.mode := rfl
@[simp] theorem out_modPeer (s : State) (c : Nat) (f : Peer → Peer) : (s.modPeer c f).out = s.out := rfl
@[simp] theorem agenda_modPeer (s : State) (c : Nat) (f : Peer → Peer) : (s.modPeer c f).agenda = s.agenda := rfl
@[simp] theorem cur_modPeer (s : State) (c : Nat) (f : Peer → Peer) : (s.modPeer c f).cur = s.cur := rfl
@[simp] theorem bundle_modPeer (s : State) (c : Nat) (f : Peer → Peer) : (s.modPeer c f).bundle = s.bundle := rfl
@[simp] theorem lateLoads_modPeer (s : State) (c : Nat) (f : Peer → Peer) : (s.modPeer c f).lateLoads = s.lateLoads := rfl

@[simp] theorem mem_keepRequests (s : State) (f : Request → Bool) : (s.keepRequests f).mem = s.mem := rfl
@[simp] theorem faulty_keepRequests (s : State) (f : Request → Bool) : (s.keepRequests f).faulty = s.faulty := rfl
@[simp] theorem slots_keepRequests (s : State) (f : Request → Bool) : (s.keepRequests f).slots = s.slots := rfl
@[simp] theorem cores_keepRequests (s : State) (f : Request → Bool) : (s.keepRequests f).cores = s.cores := rfl
@[simp] theorem clusters_keepRequests (s : State) (f : Request → Bool) : (s.keepRequests f).clusters = s.clusters := rfl
@[simp] theorem dies_keepRequests (s : State) (f : Request → Bool) : (s.keepRequests f).dies = s.dies := rfl
@[simp] theorem phases_keepRequests (s : State) (f : Request → Bool) : (s.keepRequests f).phases = s.phases := rfl
@[simp] theorem ports_keepRequests (s : State) (f : Request → Bool) : (s.keepRequests f).ports = s.ports := rfl
@[simp] theorem peers_keepRequests (s : State) (f : Request → Bool) : (s.keepRequests f).peers = s.peers := rfl
@[simp] theorem chip_keepRequests (s : State) (f : Request → Bool) : (s.keepRequests f).chip = s.chip := rfl
@[simp] theorem parts_keepRequests (s : State) (f : Request → Bool) : (s.keepRequests f).parts = s.parts := rfl
@[simp] theorem orders_keepRequests (s : State) (f : Request → Bool) : (s.keepRequests f).orders = s.orders := rfl
@[simp] theorem partners_keepRequests (s : State) (f : Request → Bool) : (s.keepRequests f).partners = s.partners := rfl
@[simp] theorem attests_keepRequests (s : State) (f : Request → Bool) : (s.keepRequests f).attests = s.attests := rfl
@[simp] theorem root_keepRequests (s : State) (f : Request → Bool) : (s.keepRequests f).root = s.root := rfl
@[simp] theorem host_keepRequests (s : State) (f : Request → Bool) : (s.keepRequests f).host = s.host := rfl
@[simp] theorem man_keepRequests (s : State) (f : Request → Bool) : (s.keepRequests f).man = s.man := rfl
@[simp] theorem slices_keepRequests (s : State) (f : Request → Bool) : (s.keepRequests f).slices = s.slices := rfl
@[simp] theorem resets_keepRequests (s : State) (f : Request → Bool) : (s.keepRequests f).resets = s.resets := rfl
@[simp] theorem now_keepRequests (s : State) (f : Request → Bool) : (s.keepRequests f).now = s.now := rfl
@[simp] theorem podBase_keepRequests (s : State) (f : Request → Bool) : (s.keepRequests f).podBase = s.podBase := rfl
@[simp] theorem podSince_keepRequests (s : State) (f : Request → Bool) : (s.keepRequests f).podSince = s.podSince := rfl
@[simp] theorem podRate_keepRequests (s : State) (f : Request → Bool) : (s.keepRequests f).podRate = s.podRate := rfl
@[simp] theorem mode_keepRequests (s : State) (f : Request → Bool) : (s.keepRequests f).mode = s.mode := rfl
@[simp] theorem out_keepRequests (s : State) (f : Request → Bool) : (s.keepRequests f).out = s.out := rfl
@[simp] theorem agenda_keepRequests (s : State) (f : Request → Bool) : (s.keepRequests f).agenda = s.agenda := rfl
@[simp] theorem cur_keepRequests (s : State) (f : Request → Bool) : (s.keepRequests f).cur = s.cur := rfl
@[simp] theorem bundle_keepRequests (s : State) (f : Request → Bool) : (s.keepRequests f).bundle = s.bundle := rfl
@[simp] theorem lateLoads_keepRequests (s : State) (f : Request → Bool) : (s.keepRequests f).lateLoads = s.lateLoads := rfl

@[simp] theorem mem_modHost (s : State) (f : HostPort → HostPort) : (s.modHost f).mem = s.mem := rfl
@[simp] theorem faulty_modHost (s : State) (f : HostPort → HostPort) : (s.modHost f).faulty = s.faulty := rfl
@[simp] theorem slots_modHost (s : State) (f : HostPort → HostPort) : (s.modHost f).slots = s.slots := rfl
@[simp] theorem cores_modHost (s : State) (f : HostPort → HostPort) : (s.modHost f).cores = s.cores := rfl
@[simp] theorem clusters_modHost (s : State) (f : HostPort → HostPort) : (s.modHost f).clusters = s.clusters := rfl
@[simp] theorem dies_modHost (s : State) (f : HostPort → HostPort) : (s.modHost f).dies = s.dies := rfl
@[simp] theorem phases_modHost (s : State) (f : HostPort → HostPort) : (s.modHost f).phases = s.phases := rfl
@[simp] theorem ports_modHost (s : State) (f : HostPort → HostPort) : (s.modHost f).ports = s.ports := rfl
@[simp] theorem peers_modHost (s : State) (f : HostPort → HostPort) : (s.modHost f).peers = s.peers := rfl
@[simp] theorem chip_modHost (s : State) (f : HostPort → HostPort) : (s.modHost f).chip = s.chip := rfl
@[simp] theorem reqs_modHost (s : State) (f : HostPort → HostPort) : (s.modHost f).reqs = s.reqs := rfl
@[simp] theorem parts_modHost (s : State) (f : HostPort → HostPort) : (s.modHost f).parts = s.parts := rfl
@[simp] theorem orders_modHost (s : State) (f : HostPort → HostPort) : (s.modHost f).orders = s.orders := rfl
@[simp] theorem partners_modHost (s : State) (f : HostPort → HostPort) : (s.modHost f).partners = s.partners := rfl
@[simp] theorem attests_modHost (s : State) (f : HostPort → HostPort) : (s.modHost f).attests = s.attests := rfl
@[simp] theorem root_modHost (s : State) (f : HostPort → HostPort) : (s.modHost f).root = s.root := rfl
@[simp] theorem man_modHost (s : State) (f : HostPort → HostPort) : (s.modHost f).man = s.man := rfl
@[simp] theorem slices_modHost (s : State) (f : HostPort → HostPort) : (s.modHost f).slices = s.slices := rfl
@[simp] theorem resets_modHost (s : State) (f : HostPort → HostPort) : (s.modHost f).resets = s.resets := rfl
@[simp] theorem now_modHost (s : State) (f : HostPort → HostPort) : (s.modHost f).now = s.now := rfl
@[simp] theorem podBase_modHost (s : State) (f : HostPort → HostPort) : (s.modHost f).podBase = s.podBase := rfl
@[simp] theorem podSince_modHost (s : State) (f : HostPort → HostPort) : (s.modHost f).podSince = s.podSince := rfl
@[simp] theorem podRate_modHost (s : State) (f : HostPort → HostPort) : (s.modHost f).podRate = s.podRate := rfl
@[simp] theorem mode_modHost (s : State) (f : HostPort → HostPort) : (s.modHost f).mode = s.mode := rfl
@[simp] theorem out_modHost (s : State) (f : HostPort → HostPort) : (s.modHost f).out = s.out := rfl
@[simp] theorem agenda_modHost (s : State) (f : HostPort → HostPort) : (s.modHost f).agenda = s.agenda := rfl
@[simp] theorem cur_modHost (s : State) (f : HostPort → HostPort) : (s.modHost f).cur = s.cur := rfl
@[simp] theorem bundle_modHost (s : State) (f : HostPort → HostPort) : (s.modHost f).bundle = s.bundle := rfl
@[simp] theorem lateLoads_modHost (s : State) (f : HostPort → HostPort) : (s.modHost f).lateLoads = s.lateLoads := rfl

@[simp] theorem mem_setHostRegion (s : State) (n : Nat) (r : RegionSlot) : (s.setHostRegion n r).mem = s.mem := rfl
@[simp] theorem faulty_setHostRegion (s : State) (n : Nat) (r : RegionSlot) : (s.setHostRegion n r).faulty = s.faulty := rfl
@[simp] theorem slots_setHostRegion (s : State) (n : Nat) (r : RegionSlot) : (s.setHostRegion n r).slots = s.slots := rfl
@[simp] theorem cores_setHostRegion (s : State) (n : Nat) (r : RegionSlot) : (s.setHostRegion n r).cores = s.cores := rfl
@[simp] theorem clusters_setHostRegion (s : State) (n : Nat) (r : RegionSlot) : (s.setHostRegion n r).clusters = s.clusters := rfl
@[simp] theorem dies_setHostRegion (s : State) (n : Nat) (r : RegionSlot) : (s.setHostRegion n r).dies = s.dies := rfl
@[simp] theorem phases_setHostRegion (s : State) (n : Nat) (r : RegionSlot) : (s.setHostRegion n r).phases = s.phases := rfl
@[simp] theorem ports_setHostRegion (s : State) (n : Nat) (r : RegionSlot) : (s.setHostRegion n r).ports = s.ports := rfl
@[simp] theorem peers_setHostRegion (s : State) (n : Nat) (r : RegionSlot) : (s.setHostRegion n r).peers = s.peers := rfl
@[simp] theorem chip_setHostRegion (s : State) (n : Nat) (r : RegionSlot) : (s.setHostRegion n r).chip = s.chip := rfl
@[simp] theorem reqs_setHostRegion (s : State) (n : Nat) (r : RegionSlot) : (s.setHostRegion n r).reqs = s.reqs := rfl
@[simp] theorem parts_setHostRegion (s : State) (n : Nat) (r : RegionSlot) : (s.setHostRegion n r).parts = s.parts := rfl
@[simp] theorem orders_setHostRegion (s : State) (n : Nat) (r : RegionSlot) : (s.setHostRegion n r).orders = s.orders := rfl
@[simp] theorem partners_setHostRegion (s : State) (n : Nat) (r : RegionSlot) : (s.setHostRegion n r).partners = s.partners := rfl
@[simp] theorem attests_setHostRegion (s : State) (n : Nat) (r : RegionSlot) : (s.setHostRegion n r).attests = s.attests := rfl
@[simp] theorem root_setHostRegion (s : State) (n : Nat) (r : RegionSlot) : (s.setHostRegion n r).root = s.root := rfl
@[simp] theorem man_setHostRegion (s : State) (n : Nat) (r : RegionSlot) : (s.setHostRegion n r).man = s.man := rfl
@[simp] theorem slices_setHostRegion (s : State) (n : Nat) (r : RegionSlot) : (s.setHostRegion n r).slices = s.slices := rfl
@[simp] theorem resets_setHostRegion (s : State) (n : Nat) (r : RegionSlot) : (s.setHostRegion n r).resets = s.resets := rfl
@[simp] theorem now_setHostRegion (s : State) (n : Nat) (r : RegionSlot) : (s.setHostRegion n r).now = s.now := rfl
@[simp] theorem podBase_setHostRegion (s : State) (n : Nat) (r : RegionSlot) : (s.setHostRegion n r).podBase = s.podBase := rfl
@[simp] theorem podSince_setHostRegion (s : State) (n : Nat) (r : RegionSlot) : (s.setHostRegion n r).podSince = s.podSince := rfl
@[simp] theorem podRate_setHostRegion (s : State) (n : Nat) (r : RegionSlot) : (s.setHostRegion n r).podRate = s.podRate := rfl
@[simp] theorem mode_setHostRegion (s : State) (n : Nat) (r : RegionSlot) : (s.setHostRegion n r).mode = s.mode := rfl
@[simp] theorem out_setHostRegion (s : State) (n : Nat) (r : RegionSlot) : (s.setHostRegion n r).out = s.out := rfl
@[simp] theorem agenda_setHostRegion (s : State) (n : Nat) (r : RegionSlot) : (s.setHostRegion n r).agenda = s.agenda := rfl
@[simp] theorem cur_setHostRegion (s : State) (n : Nat) (r : RegionSlot) : (s.setHostRegion n r).cur = s.cur := rfl
@[simp] theorem bundle_setHostRegion (s : State) (n : Nat) (r : RegionSlot) : (s.setHostRegion n r).bundle = s.bundle := rfl
@[simp] theorem lateLoads_setHostRegion (s : State) (n : Nat) (r : RegionSlot) : (s.setHostRegion n r).lateLoads = s.lateLoads := rfl

@[simp] theorem mem_modMan (s : State) (f : Manager → Manager) : (s.modMan f).mem = s.mem := rfl
@[simp] theorem faulty_modMan (s : State) (f : Manager → Manager) : (s.modMan f).faulty = s.faulty := rfl
@[simp] theorem slots_modMan (s : State) (f : Manager → Manager) : (s.modMan f).slots = s.slots := rfl
@[simp] theorem cores_modMan (s : State) (f : Manager → Manager) : (s.modMan f).cores = s.cores := rfl
@[simp] theorem clusters_modMan (s : State) (f : Manager → Manager) : (s.modMan f).clusters = s.clusters := rfl
@[simp] theorem dies_modMan (s : State) (f : Manager → Manager) : (s.modMan f).dies = s.dies := rfl
@[simp] theorem phases_modMan (s : State) (f : Manager → Manager) : (s.modMan f).phases = s.phases := rfl
@[simp] theorem ports_modMan (s : State) (f : Manager → Manager) : (s.modMan f).ports = s.ports := rfl
@[simp] theorem peers_modMan (s : State) (f : Manager → Manager) : (s.modMan f).peers = s.peers := rfl
@[simp] theorem chip_modMan (s : State) (f : Manager → Manager) : (s.modMan f).chip = s.chip := rfl
@[simp] theorem reqs_modMan (s : State) (f : Manager → Manager) : (s.modMan f).reqs = s.reqs := rfl
@[simp] theorem parts_modMan (s : State) (f : Manager → Manager) : (s.modMan f).parts = s.parts := rfl
@[simp] theorem orders_modMan (s : State) (f : Manager → Manager) : (s.modMan f).orders = s.orders := rfl
@[simp] theorem partners_modMan (s : State) (f : Manager → Manager) : (s.modMan f).partners = s.partners := rfl
@[simp] theorem attests_modMan (s : State) (f : Manager → Manager) : (s.modMan f).attests = s.attests := rfl
@[simp] theorem root_modMan (s : State) (f : Manager → Manager) : (s.modMan f).root = s.root := rfl
@[simp] theorem host_modMan (s : State) (f : Manager → Manager) : (s.modMan f).host = s.host := rfl
@[simp] theorem slices_modMan (s : State) (f : Manager → Manager) : (s.modMan f).slices = s.slices := rfl
@[simp] theorem resets_modMan (s : State) (f : Manager → Manager) : (s.modMan f).resets = s.resets := rfl
@[simp] theorem now_modMan (s : State) (f : Manager → Manager) : (s.modMan f).now = s.now := rfl
@[simp] theorem podBase_modMan (s : State) (f : Manager → Manager) : (s.modMan f).podBase = s.podBase := rfl
@[simp] theorem podSince_modMan (s : State) (f : Manager → Manager) : (s.modMan f).podSince = s.podSince := rfl
@[simp] theorem podRate_modMan (s : State) (f : Manager → Manager) : (s.modMan f).podRate = s.podRate := rfl
@[simp] theorem mode_modMan (s : State) (f : Manager → Manager) : (s.modMan f).mode = s.mode := rfl
@[simp] theorem out_modMan (s : State) (f : Manager → Manager) : (s.modMan f).out = s.out := rfl
@[simp] theorem agenda_modMan (s : State) (f : Manager → Manager) : (s.modMan f).agenda = s.agenda := rfl
@[simp] theorem cur_modMan (s : State) (f : Manager → Manager) : (s.modMan f).cur = s.cur := rfl
@[simp] theorem bundle_modMan (s : State) (f : Manager → Manager) : (s.modMan f).bundle = s.bundle := rfl
@[simp] theorem lateLoads_modMan (s : State) (f : Manager → Manager) : (s.modMan f).lateLoads = s.lateLoads := rfl

@[simp] theorem mem_logMachine (s : State) (c n : Nat) (l : List Nat) : (s.logMachine c n l).mem = s.mem := rfl
@[simp] theorem faulty_logMachine (s : State) (c n : Nat) (l : List Nat) : (s.logMachine c n l).faulty = s.faulty := rfl
@[simp] theorem slots_logMachine (s : State) (c n : Nat) (l : List Nat) : (s.logMachine c n l).slots = s.slots := rfl
@[simp] theorem cores_logMachine (s : State) (c n : Nat) (l : List Nat) : (s.logMachine c n l).cores = s.cores := rfl
@[simp] theorem clusters_logMachine (s : State) (c n : Nat) (l : List Nat) : (s.logMachine c n l).clusters = s.clusters := rfl
@[simp] theorem dies_logMachine (s : State) (c n : Nat) (l : List Nat) : (s.logMachine c n l).dies = s.dies := rfl
@[simp] theorem phases_logMachine (s : State) (c n : Nat) (l : List Nat) : (s.logMachine c n l).phases = s.phases := rfl
@[simp] theorem ports_logMachine (s : State) (c n : Nat) (l : List Nat) : (s.logMachine c n l).ports = s.ports := rfl
@[simp] theorem peers_logMachine (s : State) (c n : Nat) (l : List Nat) : (s.logMachine c n l).peers = s.peers := rfl
@[simp] theorem chip_logMachine (s : State) (c n : Nat) (l : List Nat) : (s.logMachine c n l).chip = s.chip := rfl
@[simp] theorem reqs_logMachine (s : State) (c n : Nat) (l : List Nat) : (s.logMachine c n l).reqs = s.reqs := rfl
@[simp] theorem parts_logMachine (s : State) (c n : Nat) (l : List Nat) : (s.logMachine c n l).parts = s.parts := rfl
@[simp] theorem orders_logMachine (s : State) (c n : Nat) (l : List Nat) : (s.logMachine c n l).orders = s.orders := rfl
@[simp] theorem partners_logMachine (s : State) (c n : Nat) (l : List Nat) : (s.logMachine c n l).partners = s.partners := rfl
@[simp] theorem attests_logMachine (s : State) (c n : Nat) (l : List Nat) : (s.logMachine c n l).attests = s.attests := rfl
@[simp] theorem root_logMachine (s : State) (c n : Nat) (l : List Nat) : (s.logMachine c n l).root = s.root := rfl
@[simp] theorem host_logMachine (s : State) (c n : Nat) (l : List Nat) : (s.logMachine c n l).host = s.host := rfl
@[simp] theorem slices_logMachine (s : State) (c n : Nat) (l : List Nat) : (s.logMachine c n l).slices = s.slices := rfl
@[simp] theorem resets_logMachine (s : State) (c n : Nat) (l : List Nat) : (s.logMachine c n l).resets = s.resets := rfl
@[simp] theorem now_logMachine (s : State) (c n : Nat) (l : List Nat) : (s.logMachine c n l).now = s.now := rfl
@[simp] theorem podBase_logMachine (s : State) (c n : Nat) (l : List Nat) : (s.logMachine c n l).podBase = s.podBase := rfl
@[simp] theorem podSince_logMachine (s : State) (c n : Nat) (l : List Nat) : (s.logMachine c n l).podSince = s.podSince := rfl
@[simp] theorem podRate_logMachine (s : State) (c n : Nat) (l : List Nat) : (s.logMachine c n l).podRate = s.podRate := rfl
@[simp] theorem mode_logMachine (s : State) (c n : Nat) (l : List Nat) : (s.logMachine c n l).mode = s.mode := rfl
@[simp] theorem out_logMachine (s : State) (c n : Nat) (l : List Nat) : (s.logMachine c n l).out = s.out := rfl
@[simp] theorem agenda_logMachine (s : State) (c n : Nat) (l : List Nat) : (s.logMachine c n l).agenda = s.agenda := rfl
@[simp] theorem cur_logMachine (s : State) (c n : Nat) (l : List Nat) : (s.logMachine c n l).cur = s.cur := rfl
@[simp] theorem bundle_logMachine (s : State) (c n : Nat) (l : List Nat) : (s.logMachine c n l).bundle = s.bundle := rfl
@[simp] theorem lateLoads_logMachine (s : State) (c n : Nat) (l : List Nat) : (s.logMachine c n l).lateLoads = s.lateLoads := rfl

@[simp] theorem mem_modBundle (s : State) (f : Bundle → Bundle) : (s.modBundle f).mem = s.mem := rfl
@[simp] theorem faulty_modBundle (s : State) (f : Bundle → Bundle) : (s.modBundle f).faulty = s.faulty := rfl
@[simp] theorem slots_modBundle (s : State) (f : Bundle → Bundle) : (s.modBundle f).slots = s.slots := rfl
@[simp] theorem cores_modBundle (s : State) (f : Bundle → Bundle) : (s.modBundle f).cores = s.cores := rfl
@[simp] theorem clusters_modBundle (s : State) (f : Bundle → Bundle) : (s.modBundle f).clusters = s.clusters := rfl
@[simp] theorem dies_modBundle (s : State) (f : Bundle → Bundle) : (s.modBundle f).dies = s.dies := rfl
@[simp] theorem phases_modBundle (s : State) (f : Bundle → Bundle) : (s.modBundle f).phases = s.phases := rfl
@[simp] theorem ports_modBundle (s : State) (f : Bundle → Bundle) : (s.modBundle f).ports = s.ports := rfl
@[simp] theorem peers_modBundle (s : State) (f : Bundle → Bundle) : (s.modBundle f).peers = s.peers := rfl
@[simp] theorem chip_modBundle (s : State) (f : Bundle → Bundle) : (s.modBundle f).chip = s.chip := rfl
@[simp] theorem reqs_modBundle (s : State) (f : Bundle → Bundle) : (s.modBundle f).reqs = s.reqs := rfl
@[simp] theorem parts_modBundle (s : State) (f : Bundle → Bundle) : (s.modBundle f).parts = s.parts := rfl
@[simp] theorem orders_modBundle (s : State) (f : Bundle → Bundle) : (s.modBundle f).orders = s.orders := rfl
@[simp] theorem partners_modBundle (s : State) (f : Bundle → Bundle) : (s.modBundle f).partners = s.partners := rfl
@[simp] theorem attests_modBundle (s : State) (f : Bundle → Bundle) : (s.modBundle f).attests = s.attests := rfl
@[simp] theorem root_modBundle (s : State) (f : Bundle → Bundle) : (s.modBundle f).root = s.root := rfl
@[simp] theorem host_modBundle (s : State) (f : Bundle → Bundle) : (s.modBundle f).host = s.host := rfl
@[simp] theorem man_modBundle (s : State) (f : Bundle → Bundle) : (s.modBundle f).man = s.man := rfl
@[simp] theorem slices_modBundle (s : State) (f : Bundle → Bundle) : (s.modBundle f).slices = s.slices := rfl
@[simp] theorem resets_modBundle (s : State) (f : Bundle → Bundle) : (s.modBundle f).resets = s.resets := rfl
@[simp] theorem now_modBundle (s : State) (f : Bundle → Bundle) : (s.modBundle f).now = s.now := rfl
@[simp] theorem podBase_modBundle (s : State) (f : Bundle → Bundle) : (s.modBundle f).podBase = s.podBase := rfl
@[simp] theorem podSince_modBundle (s : State) (f : Bundle → Bundle) : (s.modBundle f).podSince = s.podSince := rfl
@[simp] theorem podRate_modBundle (s : State) (f : Bundle → Bundle) : (s.modBundle f).podRate = s.podRate := rfl
@[simp] theorem mode_modBundle (s : State) (f : Bundle → Bundle) : (s.modBundle f).mode = s.mode := rfl
@[simp] theorem out_modBundle (s : State) (f : Bundle → Bundle) : (s.modBundle f).out = s.out := rfl
@[simp] theorem agenda_modBundle (s : State) (f : Bundle → Bundle) : (s.modBundle f).agenda = s.agenda := rfl
@[simp] theorem cur_modBundle (s : State) (f : Bundle → Bundle) : (s.modBundle f).cur = s.cur := rfl
@[simp] theorem lateLoads_modBundle (s : State) (f : Bundle → Bundle) : (s.modBundle f).lateLoads = s.lateLoads := rfl

/-! ## What an update writes -/

@[simp] theorem slot_modSlot (s : State) (k : Nat) (f : Slot → Slot) : (s.modSlot k f).slot k = f (s.slot k) := mget_mput_same _ _ _ _

theorem slot_modSlot_other (s : State) {j k : Nat} (f : Slot → Slot) (h : j ≠ k) : (s.modSlot k f).slot j = s.slot j :=
  mget_mput_other _ _ _ h

@[simp] theorem cluster_modCluster (s : State) (k : Nat) (f : Cluster → Cluster) : (s.modCluster k f).cluster k = f (s.cluster k) := mget_mput_same _ _ _ _

theorem cluster_modCluster_other (s : State) {j k : Nat} (f : Cluster → Cluster) (h : j ≠ k) : (s.modCluster k f).cluster j = s.cluster j :=
  mget_mput_other _ _ _ h

@[simp] theorem core_modCore (s : State) (k : Nat) (f : Core → Core) : (s.modCore k f).core k = f (s.core k) := mget_mput_same _ _ _ _

theorem core_modCore_other (s : State) {j k : Nat} (f : Core → Core) (h : j ≠ k) : (s.modCore k f).core j = s.core j :=
  mget_mput_other _ _ _ h

@[simp] theorem die_modDie (s : State) (k : Nat) (f : Die → Die) : (s.modDie k f).die k = f (s.die k) := mget_mput_same _ _ _ _

theorem die_modDie_other (s : State) {j k : Nat} (f : Die → Die) (h : j ≠ k) : (s.modDie k f).die j = s.die j :=
  mget_mput_other _ _ _ h

@[simp] theorem port_modPort (s : State) (k : Nat) (f : Port → Port) : (s.modPort k f).port k = f (s.port k) := mget_mput_same _ _ _ _

theorem port_modPort_other (s : State) {j k : Nat} (f : Port → Port) (h : j ≠ k) : (s.modPort k f).port j = s.port j :=
  mget_mput_other _ _ _ h

@[simp] theorem peer_modPeer (s : State) (k : Nat) (f : Peer → Peer) : (s.modPeer k f).peer k = f (s.peer k) := mget_mput_same _ _ _ _

theorem peer_modPeer_other (s : State) {j k : Nat} (f : Peer → Peer) (h : j ≠ k) : (s.modPeer k f).peer j = s.peer j :=
  mget_mput_other _ _ _ h

@[simp] theorem pull_modPull (s : State) (k : Nat) (f : PullUnit → PullUnit) : (s.modPull k f).pull k = f (s.pull k) := by
  simp [State.pull, State.modPull, State.modCluster, State.setCluster, State.cluster]

theorem pull_modPull_other (s : State) {j k : Nat} (f : PullUnit → PullUnit) (h : j ≠ k) : (s.modPull k f).pull j = s.pull j := by
  simp [State.pull, State.modPull, State.modCluster, State.setCluster, State.cluster, mget_mput_other _ _ _ h]

@[simp] theorem mat_modMat (s : State) (k : Nat) (f : Matrix → Matrix) : (s.modMat k f).mat k = f (s.mat k) := by
  simp [State.mat, State.modMat, State.modCluster, State.setCluster, State.cluster]

theorem mat_modMat_other (s : State) {j k : Nat} (f : Matrix → Matrix) (h : j ≠ k) : (s.modMat k f).mat j = s.mat j := by
  simp [State.mat, State.modMat, State.modCluster, State.setCluster, State.cluster, mget_mput_other _ _ _ h]

@[simp] theorem slot_setSlot (s : State) (g : Nat) (x : Slot) : (s.setSlot g x).slot g = x := mget_mput_same _ _ _ _

@[simp] theorem cluster_setCluster (s : State) (gc : Nat) (x : Cluster) : (s.setCluster gc x).cluster gc = x := mget_mput_same _ _ _ _

@[simp] theorem me_modMe (s : State) (f : Slot → Slot) : (s.modMe f).me = f s.me := mget_mput_same _ _ _ _

@[simp] theorem me_modLive (s : State) (f : Regs → Regs) : (s.modLive f).me = { s.me with live := f s.me.live } :=
  mget_mput_same _ _ _ _

@[simp] theorem region_setHostRegion (s : State) (n : Nat) (r : RegionSlot) : (s.setHostRegion n r).region n = r :=
  mget_mput_same _ _ _ _

@[simp] theorem host_modHost (s : State) (f : HostPort → HostPort) : (s.modHost f).host = f s.host := rfl

@[simp] theorem man_modMan (s : State) (f : Manager → Manager) : (s.modMan f).man = f s.man := rfl

@[simp] theorem reqs_keepRequests (s : State) (f : Request → Bool) : (s.keepRequests f).reqs = s.reqs.filter f := rfl

@[simp] theorem logseq_logMachine (s : State) (c n : Nat) (l : List Nat) : (s.logMachine c n l).man.logseq = s.man.logseq + 1 := rfl

@[simp] theorem bundle_modBundle (s : State) (f : Bundle → Bundle) : (s.modBundle f).bundle = some (f s.bundleD) := rfl

/-- With no bundle open, the sources are the live registers; with one, the registers as they stood before it. -/
theorem src_none (s : State) (h : s.bundle = none) : s.src = s.me.live := by simp [State.src, State.bundleD, h]

theorem src_some (s : State) (b : Bundle) (h : s.bundle = some b) : s.src = b.src := by simp [State.src, State.bundleD, h]

/-! ## Slots, clusters and the rest through an update of another kind -/

@[simp] theorem slot_setCluster_frame (s : State) (gc : Nat) (x : Cluster) (k : Nat) : (s.setCluster gc x).slot k = s.slot k := rfl
@[simp] theorem slot_modCluster_frame (s : State) (gc : Nat) (f : Cluster → Cluster) (k : Nat) : (s.modCluster gc f).slot k = s.slot k := rfl
@[simp] theorem slot_modPull_frame (s : State) (gc : Nat) (f : PullUnit → PullUnit) (k : Nat) : (s.modPull gc f).slot k = s.slot k := rfl
@[simp] theorem slot_modMat_frame (s : State) (gc : Nat) (f : Matrix → Matrix) (k : Nat) : (s.modMat gc f).slot k = s.slot k := rfl
@[simp] theorem slot_modWatch_frame (s : State) (gc id : Nat) (f : Watch → Watch) (k : Nat) : (s.modWatch gc id f).slot k = s.slot k := rfl
@[simp] theorem slot_setPart_frame (s : State) (gc k : Nat) (p : Partition) (j : Nat) : (s.setPart gc k p).slot j = s.slot j := rfl
@[simp] theorem slot_pushDone_frame (s : State) (gc : Nat) (d : Done) (k : Nat) : (s.pushDone gc d).slot k = s.slot k := rfl
@[simp] theorem slot_modCore_frame (s : State) (c : Nat) (f : Core → Core) (k : Nat) : (s.modCore c f).slot k = s.slot k := rfl
@[simp] theorem slot_setDie_frame (s : State) (d : Nat) (x : Die) (k : Nat) : (s.setDie d x).slot k = s.slot k := rfl
@[simp] theorem slot_modDie_frame (s : State) (d : Nat) (f : Die → Die) (k : Nat) : (s.modDie d f).slot k = s.slot k := rfl
@[simp] theorem slot_setQueue_frame (s : State) (t : Nat) (q : Queue) (k : Nat) : (s.setQueue t q).slot k = s.slot k := rfl
@[simp] theorem slot_modPort_frame (s : State) (k : Nat) (f : Port → Port) (j : Nat) : (s.modPort k f).slot j = s.slot j := rfl
@[simp] theorem slot_modPeer_frame (s : State) (c : Nat) (f : Peer → Peer) (k : Nat) : (s.modPeer c f).slot k = s.slot k := rfl
@[simp] theorem slot_keepRequests_frame (s : State) (f : Request → Bool) (k : Nat) : (s.keepRequests f).slot k = s.slot k := rfl
@[simp] theorem slot_modHost_frame (s : State) (f : HostPort → HostPort) (k : Nat) : (s.modHost f).slot k = s.slot k := rfl
@[simp] theorem slot_setHostRegion_frame (s : State) (n : Nat) (r : RegionSlot) (k : Nat) : (s.setHostRegion n r).slot k = s.slot k := rfl
@[simp] theorem slot_modMan_frame (s : State) (f : Manager → Manager) (k : Nat) : (s.modMan f).slot k = s.slot k := rfl
@[simp] theorem slot_logMachine_frame (s : State) (c n : Nat) (l : List Nat) (k : Nat) : (s.logMachine c n l).slot k = s.slot k := rfl
@[simp] theorem slot_modBundle_frame (s : State) (f : Bundle → Bundle) (k : Nat) : (s.modBundle f).slot k = s.slot k := rfl
@[simp] theorem cluster_setSlot_frame (s : State) (g : Nat) (x : Slot) (k : Nat) : (s.setSlot g x).cluster k = s.cluster k := rfl
@[simp] theorem cluster_modSlot_frame (s : State) (g : Nat) (f : Slot → Slot) (k : Nat) : (s.modSlot g f).cluster k = s.cluster k := rfl
@[simp] theorem cluster_modMe_frame (s : State) (f : Slot → Slot) (k : Nat) : (s.modMe f).cluster k = s.cluster k := rfl
@[simp] theorem cluster_modLive_frame (s : State) (f : Regs → Regs) (k : Nat) : (s.modLive f).cluster k = s.cluster k := rfl
@[simp] theorem cluster_modCore_frame (s : State) (c : Nat) (f : Core → Core) (k : Nat) : (s.modCore c f).cluster k = s.cluster k := rfl
@[simp] theorem cluster_setDie_frame (s : State) (d : Nat) (x : Die) (k : Nat) : (s.setDie d x).cluster k = s.cluster k := rfl
@[simp] theorem cluster_modDie_frame (s : State) (d : Nat) (f : Die → Die) (k : Nat) : (s.modDie d f).cluster k = s.cluster k := rfl
@[simp] theorem cluster_setQueue_frame (s : State) (t : Nat) (q : Queue) (k : Nat) : (s.setQueue t q).cluster k = s.cluster k := rfl
@[simp] theorem cluster_modPort_frame (s : State) (k : Nat) (f : Port → Port) (j : Nat) : (s.modPort k f).cluster j = s.cluster j := rfl
@[simp] theorem cluster_modPeer_frame (s : State) (c : Nat) (f : Peer → Peer) (k : Nat) : (s.modPeer c f).cluster k = s.cluster k := rfl
@[simp] theorem cluster_keepRequests_frame (s : State) (f : Request → Bool) (k : Nat) : (s.keepRequests f).cluster k = s.cluster k := rfl
@[simp] theorem cluster_modHost_frame (s : State) (f : HostPort → HostPort) (k : Nat) : (s.modHost f).cluster k = s.cluster k := rfl
@[simp] theorem cluster_setHostRegion_frame (s : State) (n : Nat) (r : RegionSlot) (k : Nat) : (s.setHostRegion n r).cluster k = s.cluster k := rfl
@[simp] theorem cluster_modMan_frame (s : State) (f : Manager → Manager) (k : Nat) : (s.modMan f).cluster k = s.cluster k := rfl
@[simp] theorem cluster_logMachine_frame (s : State) (c n : Nat) (l : List Nat) (k : Nat) : (s.logMachine c n l).cluster k = s.cluster k := rfl
@[simp] theorem cluster_modBundle_frame (s : State) (f : Bundle → Bundle) (k : Nat) : (s.modBundle f).cluster k = s.cluster k := rfl
@[simp] theorem core_setSlot_frame (s : State) (g : Nat) (x : Slot) (k : Nat) : (s.setSlot g x).core k = s.core k := rfl
@[simp] theorem core_modSlot_frame (s : State) (g : Nat) (f : Slot → Slot) (k : Nat) : (s.modSlot g f).core k = s.core k := rfl
@[simp] theorem core_modMe_frame (s : State) (f : Slot → Slot) (k : Nat) : (s.modMe f).core k = s.core k := rfl
@[simp] theorem core_modLive_frame (s : State) (f : Regs → Regs) (k : Nat) : (s.modLive f).core k = s.core k := rfl
@[simp] theorem core_setCluster_frame (s : State) (gc : Nat) (x : Cluster) (k : Nat) : (s.setCluster gc x).core k = s.core k := rfl
@[simp] theorem core_modCluster_frame (s : State) (gc : Nat) (f : Cluster → Cluster) (k : Nat) : (s.modCluster gc f).core k = s.core k := rfl
@[simp] theorem core_modPull_frame (s : State) (gc : Nat) (f : PullUnit → PullUnit) (k : Nat) : (s.modPull gc f).core k = s.core k := rfl
@[simp] theorem core_modMat_frame (s : State) (gc : Nat) (f : Matrix → Matrix) (k : Nat) : (s.modMat gc f).core k = s.core k := rfl
@[simp] theorem core_modWatch_frame (s : State) (gc id : Nat) (f : Watch → Watch) (k : Nat) : (s.modWatch gc id f).core k = s.core k := rfl
@[simp] theorem core_setPart_frame (s : State) (gc k : Nat) (p : Partition) (j : Nat) : (s.setPart gc k p).core j = s.core j := rfl
@[simp] theorem core_pushDone_frame (s : State) (gc : Nat) (d : Done) (k : Nat) : (s.pushDone gc d).core k = s.core k := rfl
@[simp] theorem core_setDie_frame (s : State) (d : Nat) (x : Die) (k : Nat) : (s.setDie d x).core k = s.core k := rfl
@[simp] theorem core_modDie_frame (s : State) (d : Nat) (f : Die → Die) (k : Nat) : (s.modDie d f).core k = s.core k := rfl
@[simp] theorem core_setQueue_frame (s : State) (t : Nat) (q : Queue) (k : Nat) : (s.setQueue t q).core k = s.core k := rfl
@[simp] theorem core_modPort_frame (s : State) (k : Nat) (f : Port → Port) (j : Nat) : (s.modPort k f).core j = s.core j := rfl
@[simp] theorem core_modPeer_frame (s : State) (c : Nat) (f : Peer → Peer) (k : Nat) : (s.modPeer c f).core k = s.core k := rfl
@[simp] theorem core_keepRequests_frame (s : State) (f : Request → Bool) (k : Nat) : (s.keepRequests f).core k = s.core k := rfl
@[simp] theorem core_modHost_frame (s : State) (f : HostPort → HostPort) (k : Nat) : (s.modHost f).core k = s.core k := rfl
@[simp] theorem core_setHostRegion_frame (s : State) (n : Nat) (r : RegionSlot) (k : Nat) : (s.setHostRegion n r).core k = s.core k := rfl
@[simp] theorem core_modMan_frame (s : State) (f : Manager → Manager) (k : Nat) : (s.modMan f).core k = s.core k := rfl
@[simp] theorem core_logMachine_frame (s : State) (c n : Nat) (l : List Nat) (k : Nat) : (s.logMachine c n l).core k = s.core k := rfl
@[simp] theorem core_modBundle_frame (s : State) (f : Bundle → Bundle) (k : Nat) : (s.modBundle f).core k = s.core k := rfl
@[simp] theorem die_setSlot_frame (s : State) (g : Nat) (x : Slot) (k : Nat) : (s.setSlot g x).die k = s.die k := rfl
@[simp] theorem die_modSlot_frame (s : State) (g : Nat) (f : Slot → Slot) (k : Nat) : (s.modSlot g f).die k = s.die k := rfl
@[simp] theorem die_modMe_frame (s : State) (f : Slot → Slot) (k : Nat) : (s.modMe f).die k = s.die k := rfl
@[simp] theorem die_modLive_frame (s : State) (f : Regs → Regs) (k : Nat) : (s.modLive f).die k = s.die k := rfl
@[simp] theorem die_setCluster_frame (s : State) (gc : Nat) (x : Cluster) (k : Nat) : (s.setCluster gc x).die k = s.die k := rfl
@[simp] theorem die_modCluster_frame (s : State) (gc : Nat) (f : Cluster → Cluster) (k : Nat) : (s.modCluster gc f).die k = s.die k := rfl
@[simp] theorem die_modPull_frame (s : State) (gc : Nat) (f : PullUnit → PullUnit) (k : Nat) : (s.modPull gc f).die k = s.die k := rfl
@[simp] theorem die_modMat_frame (s : State) (gc : Nat) (f : Matrix → Matrix) (k : Nat) : (s.modMat gc f).die k = s.die k := rfl
@[simp] theorem die_modWatch_frame (s : State) (gc id : Nat) (f : Watch → Watch) (k : Nat) : (s.modWatch gc id f).die k = s.die k := rfl
@[simp] theorem die_setPart_frame (s : State) (gc k : Nat) (p : Partition) (j : Nat) : (s.setPart gc k p).die j = s.die j := rfl
@[simp] theorem die_pushDone_frame (s : State) (gc : Nat) (d : Done) (k : Nat) : (s.pushDone gc d).die k = s.die k := rfl
@[simp] theorem die_modCore_frame (s : State) (c : Nat) (f : Core → Core) (k : Nat) : (s.modCore c f).die k = s.die k := rfl
@[simp] theorem die_modPort_frame (s : State) (k : Nat) (f : Port → Port) (j : Nat) : (s.modPort k f).die j = s.die j := rfl
@[simp] theorem die_modPeer_frame (s : State) (c : Nat) (f : Peer → Peer) (k : Nat) : (s.modPeer c f).die k = s.die k := rfl
@[simp] theorem die_keepRequests_frame (s : State) (f : Request → Bool) (k : Nat) : (s.keepRequests f).die k = s.die k := rfl
@[simp] theorem die_modHost_frame (s : State) (f : HostPort → HostPort) (k : Nat) : (s.modHost f).die k = s.die k := rfl
@[simp] theorem die_setHostRegion_frame (s : State) (n : Nat) (r : RegionSlot) (k : Nat) : (s.setHostRegion n r).die k = s.die k := rfl
@[simp] theorem die_modMan_frame (s : State) (f : Manager → Manager) (k : Nat) : (s.modMan f).die k = s.die k := rfl
@[simp] theorem die_logMachine_frame (s : State) (c n : Nat) (l : List Nat) (k : Nat) : (s.logMachine c n l).die k = s.die k := rfl
@[simp] theorem die_modBundle_frame (s : State) (f : Bundle → Bundle) (k : Nat) : (s.modBundle f).die k = s.die k := rfl
@[simp] theorem port_setSlot_frame (s : State) (g : Nat) (x : Slot) (k : Nat) : (s.setSlot g x).port k = s.port k := rfl
@[simp] theorem port_modSlot_frame (s : State) (g : Nat) (f : Slot → Slot) (k : Nat) : (s.modSlot g f).port k = s.port k := rfl
@[simp] theorem port_modMe_frame (s : State) (f : Slot → Slot) (k : Nat) : (s.modMe f).port k = s.port k := rfl
@[simp] theorem port_modLive_frame (s : State) (f : Regs → Regs) (k : Nat) : (s.modLive f).port k = s.port k := rfl
@[simp] theorem port_setCluster_frame (s : State) (gc : Nat) (x : Cluster) (k : Nat) : (s.setCluster gc x).port k = s.port k := rfl
@[simp] theorem port_modCluster_frame (s : State) (gc : Nat) (f : Cluster → Cluster) (k : Nat) : (s.modCluster gc f).port k = s.port k := rfl
@[simp] theorem port_modPull_frame (s : State) (gc : Nat) (f : PullUnit → PullUnit) (k : Nat) : (s.modPull gc f).port k = s.port k := rfl
@[simp] theorem port_modMat_frame (s : State) (gc : Nat) (f : Matrix → Matrix) (k : Nat) : (s.modMat gc f).port k = s.port k := rfl
@[simp] theorem port_modWatch_frame (s : State) (gc id : Nat) (f : Watch → Watch) (k : Nat) : (s.modWatch gc id f).port k = s.port k := rfl
@[simp] theorem port_setPart_frame (s : State) (gc k : Nat) (p : Partition) (j : Nat) : (s.setPart gc k p).port j = s.port j := rfl
@[simp] theorem port_pushDone_frame (s : State) (gc : Nat) (d : Done) (k : Nat) : (s.pushDone gc d).port k = s.port k := rfl
@[simp] theorem port_modCore_frame (s : State) (c : Nat) (f : Core → Core) (k : Nat) : (s.modCore c f).port k = s.port k := rfl
@[simp] theorem port_setDie_frame (s : State) (d : Nat) (x : Die) (k : Nat) : (s.setDie d x).port k = s.port k := rfl
@[simp] theorem port_modDie_frame (s : State) (d : Nat) (f : Die → Die) (k : Nat) : (s.modDie d f).port k = s.port k := rfl
@[simp] theorem port_setQueue_frame (s : State) (t : Nat) (q : Queue) (k : Nat) : (s.setQueue t q).port k = s.port k := rfl
@[simp] theorem port_modPeer_frame (s : State) (c : Nat) (f : Peer → Peer) (k : Nat) : (s.modPeer c f).port k = s.port k := rfl
@[simp] theorem port_keepRequests_frame (s : State) (f : Request → Bool) (k : Nat) : (s.keepRequests f).port k = s.port k := rfl
@[simp] theorem port_modHost_frame (s : State) (f : HostPort → HostPort) (k : Nat) : (s.modHost f).port k = s.port k := rfl
@[simp] theorem port_setHostRegion_frame (s : State) (n : Nat) (r : RegionSlot) (k : Nat) : (s.setHostRegion n r).port k = s.port k := rfl
@[simp] theorem port_modMan_frame (s : State) (f : Manager → Manager) (k : Nat) : (s.modMan f).port k = s.port k := rfl
@[simp] theorem port_logMachine_frame (s : State) (c n : Nat) (l : List Nat) (k : Nat) : (s.logMachine c n l).port k = s.port k := rfl
@[simp] theorem port_modBundle_frame (s : State) (f : Bundle → Bundle) (k : Nat) : (s.modBundle f).port k = s.port k := rfl
@[simp] theorem peer_setSlot_frame (s : State) (g : Nat) (x : Slot) (k : Nat) : (s.setSlot g x).peer k = s.peer k := rfl
@[simp] theorem peer_modSlot_frame (s : State) (g : Nat) (f : Slot → Slot) (k : Nat) : (s.modSlot g f).peer k = s.peer k := rfl
@[simp] theorem peer_modMe_frame (s : State) (f : Slot → Slot) (k : Nat) : (s.modMe f).peer k = s.peer k := rfl
@[simp] theorem peer_modLive_frame (s : State) (f : Regs → Regs) (k : Nat) : (s.modLive f).peer k = s.peer k := rfl
@[simp] theorem peer_setCluster_frame (s : State) (gc : Nat) (x : Cluster) (k : Nat) : (s.setCluster gc x).peer k = s.peer k := rfl
@[simp] theorem peer_modCluster_frame (s : State) (gc : Nat) (f : Cluster → Cluster) (k : Nat) : (s.modCluster gc f).peer k = s.peer k := rfl
@[simp] theorem peer_modPull_frame (s : State) (gc : Nat) (f : PullUnit → PullUnit) (k : Nat) : (s.modPull gc f).peer k = s.peer k := rfl
@[simp] theorem peer_modMat_frame (s : State) (gc : Nat) (f : Matrix → Matrix) (k : Nat) : (s.modMat gc f).peer k = s.peer k := rfl
@[simp] theorem peer_modWatch_frame (s : State) (gc id : Nat) (f : Watch → Watch) (k : Nat) : (s.modWatch gc id f).peer k = s.peer k := rfl
@[simp] theorem peer_setPart_frame (s : State) (gc k : Nat) (p : Partition) (j : Nat) : (s.setPart gc k p).peer j = s.peer j := rfl
@[simp] theorem peer_pushDone_frame (s : State) (gc : Nat) (d : Done) (k : Nat) : (s.pushDone gc d).peer k = s.peer k := rfl
@[simp] theorem peer_modCore_frame (s : State) (c : Nat) (f : Core → Core) (k : Nat) : (s.modCore c f).peer k = s.peer k := rfl
@[simp] theorem peer_setDie_frame (s : State) (d : Nat) (x : Die) (k : Nat) : (s.setDie d x).peer k = s.peer k := rfl
@[simp] theorem peer_modDie_frame (s : State) (d : Nat) (f : Die → Die) (k : Nat) : (s.modDie d f).peer k = s.peer k := rfl
@[simp] theorem peer_setQueue_frame (s : State) (t : Nat) (q : Queue) (k : Nat) : (s.setQueue t q).peer k = s.peer k := rfl
@[simp] theorem peer_modPort_frame (s : State) (k : Nat) (f : Port → Port) (j : Nat) : (s.modPort k f).peer j = s.peer j := rfl
@[simp] theorem peer_keepRequests_frame (s : State) (f : Request → Bool) (k : Nat) : (s.keepRequests f).peer k = s.peer k := rfl
@[simp] theorem peer_modHost_frame (s : State) (f : HostPort → HostPort) (k : Nat) : (s.modHost f).peer k = s.peer k := rfl
@[simp] theorem peer_setHostRegion_frame (s : State) (n : Nat) (r : RegionSlot) (k : Nat) : (s.setHostRegion n r).peer k = s.peer k := rfl
@[simp] theorem peer_modMan_frame (s : State) (f : Manager → Manager) (k : Nat) : (s.modMan f).peer k = s.peer k := rfl
@[simp] theorem peer_logMachine_frame (s : State) (c n : Nat) (l : List Nat) (k : Nat) : (s.logMachine c n l).peer k = s.peer k := rfl
@[simp] theorem peer_modBundle_frame (s : State) (f : Bundle → Bundle) (k : Nat) : (s.modBundle f).peer k = s.peer k := rfl
@[simp] theorem pull_setSlot_frame (s : State) (g : Nat) (x : Slot) (k : Nat) : (s.setSlot g x).pull k = s.pull k := rfl
@[simp] theorem pull_modSlot_frame (s : State) (g : Nat) (f : Slot → Slot) (k : Nat) : (s.modSlot g f).pull k = s.pull k := rfl
@[simp] theorem pull_modMe_frame (s : State) (f : Slot → Slot) (k : Nat) : (s.modMe f).pull k = s.pull k := rfl
@[simp] theorem pull_modLive_frame (s : State) (f : Regs → Regs) (k : Nat) : (s.modLive f).pull k = s.pull k := rfl
@[simp] theorem pull_modCore_frame (s : State) (c : Nat) (f : Core → Core) (k : Nat) : (s.modCore c f).pull k = s.pull k := rfl
@[simp] theorem pull_setDie_frame (s : State) (d : Nat) (x : Die) (k : Nat) : (s.setDie d x).pull k = s.pull k := rfl
@[simp] theorem pull_modDie_frame (s : State) (d : Nat) (f : Die → Die) (k : Nat) : (s.modDie d f).pull k = s.pull k := rfl
@[simp] theorem pull_setQueue_frame (s : State) (t : Nat) (q : Queue) (k : Nat) : (s.setQueue t q).pull k = s.pull k := rfl
@[simp] theorem pull_modPort_frame (s : State) (k : Nat) (f : Port → Port) (j : Nat) : (s.modPort k f).pull j = s.pull j := rfl
@[simp] theorem pull_modPeer_frame (s : State) (c : Nat) (f : Peer → Peer) (k : Nat) : (s.modPeer c f).pull k = s.pull k := rfl
@[simp] theorem pull_keepRequests_frame (s : State) (f : Request → Bool) (k : Nat) : (s.keepRequests f).pull k = s.pull k := rfl
@[simp] theorem pull_modHost_frame (s : State) (f : HostPort → HostPort) (k : Nat) : (s.modHost f).pull k = s.pull k := rfl
@[simp] theorem pull_setHostRegion_frame (s : State) (n : Nat) (r : RegionSlot) (k : Nat) : (s.setHostRegion n r).pull k = s.pull k := rfl
@[simp] theorem pull_modMan_frame (s : State) (f : Manager → Manager) (k : Nat) : (s.modMan f).pull k = s.pull k := rfl
@[simp] theorem pull_logMachine_frame (s : State) (c n : Nat) (l : List Nat) (k : Nat) : (s.logMachine c n l).pull k = s.pull k := rfl
@[simp] theorem pull_modBundle_frame (s : State) (f : Bundle → Bundle) (k : Nat) : (s.modBundle f).pull k = s.pull k := rfl
@[simp] theorem mat_setSlot_frame (s : State) (g : Nat) (x : Slot) (k : Nat) : (s.setSlot g x).mat k = s.mat k := rfl
@[simp] theorem mat_modSlot_frame (s : State) (g : Nat) (f : Slot → Slot) (k : Nat) : (s.modSlot g f).mat k = s.mat k := rfl
@[simp] theorem mat_modMe_frame (s : State) (f : Slot → Slot) (k : Nat) : (s.modMe f).mat k = s.mat k := rfl
@[simp] theorem mat_modLive_frame (s : State) (f : Regs → Regs) (k : Nat) : (s.modLive f).mat k = s.mat k := rfl
@[simp] theorem mat_modCore_frame (s : State) (c : Nat) (f : Core → Core) (k : Nat) : (s.modCore c f).mat k = s.mat k := rfl
@[simp] theorem mat_setDie_frame (s : State) (d : Nat) (x : Die) (k : Nat) : (s.setDie d x).mat k = s.mat k := rfl
@[simp] theorem mat_modDie_frame (s : State) (d : Nat) (f : Die → Die) (k : Nat) : (s.modDie d f).mat k = s.mat k := rfl
@[simp] theorem mat_setQueue_frame (s : State) (t : Nat) (q : Queue) (k : Nat) : (s.setQueue t q).mat k = s.mat k := rfl
@[simp] theorem mat_modPort_frame (s : State) (k : Nat) (f : Port → Port) (j : Nat) : (s.modPort k f).mat j = s.mat j := rfl
@[simp] theorem mat_modPeer_frame (s : State) (c : Nat) (f : Peer → Peer) (k : Nat) : (s.modPeer c f).mat k = s.mat k := rfl
@[simp] theorem mat_keepRequests_frame (s : State) (f : Request → Bool) (k : Nat) : (s.keepRequests f).mat k = s.mat k := rfl
@[simp] theorem mat_modHost_frame (s : State) (f : HostPort → HostPort) (k : Nat) : (s.modHost f).mat k = s.mat k := rfl
@[simp] theorem mat_setHostRegion_frame (s : State) (n : Nat) (r : RegionSlot) (k : Nat) : (s.setHostRegion n r).mat k = s.mat k := rfl
@[simp] theorem mat_modMan_frame (s : State) (f : Manager → Manager) (k : Nat) : (s.modMan f).mat k = s.mat k := rfl
@[simp] theorem mat_logMachine_frame (s : State) (c n : Nat) (l : List Nat) (k : Nat) : (s.logMachine c n l).mat k = s.mat k := rfl
@[simp] theorem mat_modBundle_frame (s : State) (f : Bundle → Bundle) (k : Nat) : (s.modBundle f).mat k = s.mat k := rfl
@[simp] theorem region_setSlot_frame (s : State) (g : Nat) (x : Slot) (k : Nat) : (s.setSlot g x).region k = s.region k := rfl
@[simp] theorem region_modSlot_frame (s : State) (g : Nat) (f : Slot → Slot) (k : Nat) : (s.modSlot g f).region k = s.region k := rfl
@[simp] theorem region_modMe_frame (s : State) (f : Slot → Slot) (k : Nat) : (s.modMe f).region k = s.region k := rfl
@[simp] theorem region_modLive_frame (s : State) (f : Regs → Regs) (k : Nat) : (s.modLive f).region k = s.region k := rfl
@[simp] theorem region_setCluster_frame (s : State) (gc : Nat) (x : Cluster) (k : Nat) : (s.setCluster gc x).region k = s.region k := rfl
@[simp] theorem region_modCluster_frame (s : State) (gc : Nat) (f : Cluster → Cluster) (k : Nat) : (s.modCluster gc f).region k = s.region k := rfl
@[simp] theorem region_modPull_frame (s : State) (gc : Nat) (f : PullUnit → PullUnit) (k : Nat) : (s.modPull gc f).region k = s.region k := rfl
@[simp] theorem region_modMat_frame (s : State) (gc : Nat) (f : Matrix → Matrix) (k : Nat) : (s.modMat gc f).region k = s.region k := rfl
@[simp] theorem region_modWatch_frame (s : State) (gc id : Nat) (f : Watch → Watch) (k : Nat) : (s.modWatch gc id f).region k = s.region k := rfl
@[simp] theorem region_setPart_frame (s : State) (gc k : Nat) (p : Partition) (j : Nat) : (s.setPart gc k p).region j = s.region j := rfl
@[simp] theorem region_pushDone_frame (s : State) (gc : Nat) (d : Done) (k : Nat) : (s.pushDone gc d).region k = s.region k := rfl
@[simp] theorem region_modCore_frame (s : State) (c : Nat) (f : Core → Core) (k : Nat) : (s.modCore c f).region k = s.region k := rfl
@[simp] theorem region_setDie_frame (s : State) (d : Nat) (x : Die) (k : Nat) : (s.setDie d x).region k = s.region k := rfl
@[simp] theorem region_modDie_frame (s : State) (d : Nat) (f : Die → Die) (k : Nat) : (s.modDie d f).region k = s.region k := rfl
@[simp] theorem region_setQueue_frame (s : State) (t : Nat) (q : Queue) (k : Nat) : (s.setQueue t q).region k = s.region k := rfl
@[simp] theorem region_modPort_frame (s : State) (k : Nat) (f : Port → Port) (j : Nat) : (s.modPort k f).region j = s.region j := rfl
@[simp] theorem region_modPeer_frame (s : State) (c : Nat) (f : Peer → Peer) (k : Nat) : (s.modPeer c f).region k = s.region k := rfl
@[simp] theorem region_keepRequests_frame (s : State) (f : Request → Bool) (k : Nat) : (s.keepRequests f).region k = s.region k := rfl
@[simp] theorem region_modMan_frame (s : State) (f : Manager → Manager) (k : Nat) : (s.modMan f).region k = s.region k := rfl
@[simp] theorem region_logMachine_frame (s : State) (c n : Nat) (l : List Nat) (k : Nat) : (s.logMachine c n l).region k = s.region k := rfl
@[simp] theorem region_modBundle_frame (s : State) (f : Bundle → Bundle) (k : Nat) : (s.modBundle f).region k = s.region k := rfl
@[simp] theorem queue_setSlot_frame (s : State) (g : Nat) (x : Slot) (k : Nat) : (s.setSlot g x).queue k = s.queue k := rfl
@[simp] theorem queue_modSlot_frame (s : State) (g : Nat) (f : Slot → Slot) (k : Nat) : (s.modSlot g f).queue k = s.queue k := rfl
@[simp] theorem queue_modMe_frame (s : State) (f : Slot → Slot) (k : Nat) : (s.modMe f).queue k = s.queue k := rfl
@[simp] theorem queue_modLive_frame (s : State) (f : Regs → Regs) (k : Nat) : (s.modLive f).queue k = s.queue k := rfl
@[simp] theorem queue_setCluster_frame (s : State) (gc : Nat) (x : Cluster) (k : Nat) : (s.setCluster gc x).queue k = s.queue k := rfl
@[simp] theorem queue_modCluster_frame (s : State) (gc : Nat) (f : Cluster → Cluster) (k : Nat) : (s.modCluster gc f).queue k = s.queue k := rfl
@[simp] theorem queue_modPull_frame (s : State) (gc : Nat) (f : PullUnit → PullUnit) (k : Nat) : (s.modPull gc f).queue k = s.queue k := rfl
@[simp] theorem queue_modMat_frame (s : State) (gc : Nat) (f : Matrix → Matrix) (k : Nat) : (s.modMat gc f).queue k = s.queue k := rfl
@[simp] theorem queue_modWatch_frame (s : State) (gc id : Nat) (f : Watch → Watch) (k : Nat) : (s.modWatch gc id f).queue k = s.queue k := rfl
@[simp] theorem queue_setPart_frame (s : State) (gc k : Nat) (p : Partition) (j : Nat) : (s.setPart gc k p).queue j = s.queue j := rfl
@[simp] theorem queue_pushDone_frame (s : State) (gc : Nat) (d : Done) (k : Nat) : (s.pushDone gc d).queue k = s.queue k := rfl
@[simp] theorem queue_modCore_frame (s : State) (c : Nat) (f : Core → Core) (k : Nat) : (s.modCore c f).queue k = s.queue k := rfl
@[simp] theorem queue_modPort_frame (s : State) (k : Nat) (f : Port → Port) (j : Nat) : (s.modPort k f).queue j = s.queue j := rfl
@[simp] theorem queue_modPeer_frame (s : State) (c : Nat) (f : Peer → Peer) (k : Nat) : (s.modPeer c f).queue k = s.queue k := rfl
@[simp] theorem queue_keepRequests_frame (s : State) (f : Request → Bool) (k : Nat) : (s.keepRequests f).queue k = s.queue k := rfl
@[simp] theorem queue_modHost_frame (s : State) (f : HostPort → HostPort) (k : Nat) : (s.modHost f).queue k = s.queue k := rfl
@[simp] theorem queue_setHostRegion_frame (s : State) (n : Nat) (r : RegionSlot) (k : Nat) : (s.setHostRegion n r).queue k = s.queue k := rfl
@[simp] theorem queue_modMan_frame (s : State) (f : Manager → Manager) (k : Nat) : (s.modMan f).queue k = s.queue k := rfl
@[simp] theorem queue_logMachine_frame (s : State) (c n : Nat) (l : List Nat) (k : Nat) : (s.logMachine c n l).queue k = s.queue k := rfl
@[simp] theorem queue_modBundle_frame (s : State) (f : Bundle → Bundle) (k : Nat) : (s.modBundle f).queue k = s.queue k := rfl

end Sys2Proof.Machine
end

