-- ==== Sys2Proof/Laws/Bundle.lean ====
section
/-!
SUPPORT. The laws of one bundle: what a word on a slot of its own does, in each of the ways that a bundle ends.
-/

namespace Sys2Proof.Machine

/-- A slot outside a gang is its own gang. -/
theorem gangOf_single (s : State) (g : Nat) (h : (s.slot g).live.gsize = 0) : s.gangOf g = [g] := by
  have e : (clusterOf g * 8 + coreOf g) * 4 + g % 4 = g := slot_parts g
  simp [State.gangOf, h, gangSize, Nat.mod_one, e]

/-- A word that awaits nothing acts at once: its main-file reads are counted and its body runs (spec/02_encoding.md R49, R60). -/
theorem guarded_idle (s : State) (u : Uses) (body : State → State) (hp : ∀ n ∈ u.s, n ≠ 0 → bit s.src.pend n = false)
    (hl : ∀ l ∈ s.bundleD.loads, l.blocks u = false) :
    guarded u body s = body (s.modBundle fun b => { b with reads := b.reads ++ u.reads }) := by
  have h1 : (u.s.filter fun n => n != 0 && bit s.src.pend n) = [] := by
    rw [List.filter_eq_nil_iff]
    intro n hn
    by_cases h0 : n = 0
    · simp [h0]
    · simp [hp n hn h0]
  have h2 : (s.bundleD.loads.any fun l => l.blocks u) = false := by
    rw [List.any_eq_false]; intro l hl'; simp [hl l hl']
  simp only [guarded, h1, List.filter_nil, List.isEmpty_nil, Bool.not_true, Bool.false_eq_true, ↓reduceIte, h2]

/-- What a bundle of a slot outside a gang is: the bundle's words act from its beginning, and the bundle ends. -/
theorem runBundle_single (s : State) (len : Nat) (f : State → State) (hg : s.me.live.gsize = 0)
    (hb : s.me.region.bundles < Config.maxBundles) :
    runBundle len f s =
      { s.endBundle (f (s.beginBundle s.cur s.me.pc (s.me.pc + BitVec.ofNat 32 len)))
          [(s.cur, (f (s.beginBundle s.cur s.me.pc (s.me.pc + BitVec.ofNat 32 len))).bundleD)] with
        cur := s.cur, bundle := none } := by
  have hgang : s.gangOf s.cur = [s.cur] := gangOf_single s s.cur hg
  have hlim : ([s.cur].any fun g => Config.maxBundles ≤ (s.slot g).region.bundles) = false := by
    simp only [List.any_cons, List.any_nil, Bool.or_false, decide_eq_false_iff_not, not_le]; exact hb
  rw [runBundle, hgang, if_neg (by rw [hlim]; exact Bool.false_ne_true)]
  rfl

/-- A bundle that raises nothing, waits for nothing and ends no region. -/
structure Bundle.Quiet (b : Bundle) : Prop where
  stall : b.stall = none
  raised : b.raised = none
  abort : b.abort = none
  ends : b.ends = none

/-- The end of a quiet bundle within the limits (spec/05_commit.md R145). -/
theorem endBundle_quiet (s t : State) (g : Nat) (b : Bundle) (q : b.Quiet)
    (hl : (linesOf (t.slot g).region.stores).length ≤ Config.maxLines)
    (he : (t.slot g).region.effects.length ≤ Config.maxEffects) :
    s.endBundle t [(g, b)] =
      (({ t with bundle := none }.modSlot g fun x => { x with region := { x.region with bundles := x.region.bundles + 1 } }).modSlot
        g fun x => { x with pc := b.target.getD b.next }).tick g b.ck := by
  have h1 : (max 1 b.ck) = b.ck := by unfold Bundle.ck; omega
  simp [State.endBundle, Bundle.forces, q.stall, q.raised, q.abort, q.ends, Nat.not_lt.mpr hl, Nat.not_lt.mpr he, h1]

/-- The beginning of a word's bundle, its main-file reads counted. -/
def State.begun (s : State) (u : Uses) : State := s.started.modBundle fun b => { b with reads := b.reads ++ u.reads }

/-- A word on a free slot whose body is quiet: what its body leaves, with the bundle counted and the pc moved. -/
theorem word_quiet (s : State) (u : Uses) (body : State → State) (b : Bundle) (hf : s.free u)
    (hb : (body (s.begun u)).bundle = some b) (q : b.Quiet)
    (hl : (linesOf ((body (s.begun u)).slot s.cur).region.stores).length ≤ Config.maxLines)
    (he : ((body (s.begun u)).slot s.cur).region.effects.length ≤ Config.maxEffects) :
    word u body s = .next
      { (({ body (s.begun u) with bundle := none }.modSlot s.cur fun x =>
            { x with region := { x.region with bundles := x.region.bundles + 1 } }).modSlot
          s.cur fun x => { x with pc := b.target.getD b.next }).tick s.cur b.ck with
        cur := s.cur, bundle := none } := by
  obtain ⟨h0, h1, h2, -, -, h5, h6⟩ := hf
  have hg : guarded u body s.started = body (s.begun u) := guarded_idle _ u body h5 h6
  have hd : (body (s.begun u)).bundleD = b := by rw [State.bundleD, hb]; rfl
  rw [word, h0]
  simp only
  rw [runBundle_single s 4 _ h1 h2]
  change Host.Outcome.next { s.endBundle (guarded u body s.started) [(s.cur, (guarded u body s.started).bundleD)] with
    cur := s.cur, bundle := none } = _
  rw [hg, hd, endBundle_quiet s _ s.cur b q hl he]

/-- A word on a free slot that leaves a state, apart from what it sets in the bundle: a target, and further ck. -/
theorem word_ends (s s' : State) (u : Uses) (body : State → State) (target : Option Word) (extra : Nat) (hf : s.free u)
    (hb : body (s.begun u) = { s' with bundle := some { (s.begun u).bundleD with target := target, extra := extra } })
    (hc : s'.cur = s.cur)
    (hl : (linesOf (s'.slot s.cur).region.stores).length ≤ Config.maxLines)
    (he : (s'.slot s.cur).region.effects.length ≤ Config.maxEffects) (h0 : s'.bundle = none) :
    word u body s = .next (s'.ended (1 + (u.reads.eraseDups.length - 2) + extra) (target.getD (s.me.pc + 4))) := by
  have hs : (body (s.begun u)).slot s.cur = s'.slot s.cur := by rw [hb]; rfl
  rw [word_quiet s u body { (s.begun u).bundleD with target := target, extra := extra } hf (by rw [hb]) ⟨rfl, rfl, rfl, rfl⟩
      (by rw [hs]; exact hl) (by rw [hs]; exact he), hb]
  simp only [State.ended, State.modMe, State.modSlot, State.setSlot, State.slot, State.tick, mget_mput_same, mput_mput, hc]
  cases s'
  simp only at hc h0
  subst hc h0
  rfl

/-- A word on a free slot that leaves a state and takes one ck. -/
theorem word_passes (s s' : State) (u : Uses) (body : State → State) (hf : s.free u)
    (hb : body (s.begun u) = { s' with bundle := (s.begun u).bundle }) (hc : s'.cur = s.cur)
    (hl : (linesOf (s'.slot s.cur).region.stores).length ≤ Config.maxLines)
    (he : (s'.slot s.cur).region.effects.length ≤ Config.maxEffects) (h0 : s'.bundle = none) (hr : u.reads.eraseDups.length ≤ 2) :
    word u body s = .next (s'.ended 1 (s.me.pc + 4)) := by
  have := word_ends s s' u body none 0 hf hb hc hl he h0
  rw [this, Nat.sub_eq_zero_of_le hr]; rfl

/-- A word on a free slot that only changes the live registers. -/
theorem word_live (s : State) (u : Uses) (body : State → State) (f : Regs → Regs) (hf : s.free u) (hr : u.reads.eraseDups.length ≤ 2)
    (hb : body (s.begun u) = (s.begun u).modLive f) : word u body s = .next (s.modLive f).passed := by
  have hs : (s.modLive f).slot s.cur = { s.me with live := f s.me.live } := mget_mput_same _ _ _ _
  have := word_passes s (s.modLive f) u body hf hb rfl (by rw [hs]; exact hf.2.2.2.1) (by rw [hs]; exact hf.2.2.2.2.1) hf.1 hr
  rw [this, State.passed]
  have : (s.modLive f).me.pc = s.me.pc := by change ((s.modLive f).slot s.cur).pc = _; rw [hs]
  rw [this]

/-- The sources that a word reads are the live registers as they stood. -/
@[simp] theorem begun_src (s : State) (u : Uses) : (s.begun u).src = s.me.live := rfl
@[simp] theorem begun_rS (s : State) (u : Uses) (n : BitVec 5) : (s.begun u).rS n = s.x n := rfl

/-- A word on a free slot that leaves a state with the region's lists, the pc and the acting slot as they were, and takes one ck. -/
theorem word_keeps (s s' : State) (u : Uses) (body : State → State) (hf : s.free u)
    (hb : body (s.begun u) = { s' with bundle := (s.begun u).bundle }) (hs : s'.me.region.stores = s.me.region.stores)
    (he : s'.me.region.effects = s.me.region.effects) (hp : s'.me.pc = s.me.pc) (hc : s'.cur = s.cur) (h0 : s'.bundle = s.bundle)
    (hr : u.reads.eraseDups.length ≤ 2) : word u body s = .next s'.passed := by
  have e : s'.slot s.cur = s'.me := by rw [← hc]; rfl
  rw [State.passed, hp]
  refine word_passes s s' u body hf hb hc ?_ ?_ (h0.trans hf.1) hr
  · rw [e, hs]; exact hf.2.2.2.1
  · rw [e, he]; exact hf.2.2.2.2.1

/-- A word on a free slot whose body does nothing. -/
theorem word_id (s : State) (u : Uses) (body : State → State) (hf : s.free u) (hr : u.reads.eraseDups.length ≤ 2)
    (hb : body (s.begun u) = s.begun u) : word u body s = .next s.passed :=
  word_passes s s u body hf (by rw [hb]; rfl) rfl hf.2.2.2.1 hf.2.2.2.2.1 hf.1 hr

/-- The arithmetic words (spec/04_control.md R104). -/
theorem alu3_free (f : Word → Word → Word) (d a b : BitVec 5) (s : State) (h : s.free (useS [d, a, b])) :
    alu3 f d a b s = .next (s.wS d (f (s.x a) (s.x b))).passed :=
  word_live s _ _ _ h (Nat.zero_le 2) rfl

theorem alu2_free (f : Word → Word) (d a : BitVec 5) (s : State) (h : s.free (useS [d, a])) :
    alu2 f d a s = .next (s.wS d (f (s.x a))).passed :=
  word_live s _ _ _ h (Nat.zero_le 2) rfl

end Sys2Proof.Machine
end

