-- ==== Sys2Proof/Laws/Csr.lean ====
section
/-!
SUPPORT. The laws of the CSR words on a free slot (spec/04_control.md R107).
-/

namespace Sys2Proof.Machine

theorem csrRead_begun (s : State) (u : Uses) (k : Nat) (h : s.bundle = none) : (s.begun u).csrRead k = s.csrRead k := by
  unfold State.csrRead
  rw [src_none s h]
  rfl

theorem csrTouch_begun (s : State) (u : Uses) (k : Nat) :
    (s.begun u).csrTouch k = { s.csrTouch k with bundle := (s.begun u).bundle } := by
  unfold State.csrTouch
  split <;> rfl

theorem csrPut_bundle (s : State) (b : Option Bundle) (k : Nat) (v : Word) :
    ({ s with bundle := b } : State).csrPut k v = { s.csrPut k v with bundle := b } := by
  unfold State.csrPut
  split <;> try rfl
  split <;> rfl

/-- What reading a CSR leaves: the acting slot's number, region and pc, and the bundle. -/
theorem csrTouch_keeps (s : State) (k : Nat) :
    (s.csrTouch k).cur = s.cur ∧ (s.csrTouch k).bundle = s.bundle ∧ (s.csrTouch k).me.region = s.me.region
      ∧ (s.csrTouch k).me.pc = s.me.pc := by
  unfold State.csrTouch
  split <;> simp [State.modMe, State.modSlot, State.setSlot, State.me, State.slot]

/-- What writing a CSR leaves. -/
theorem csrPut_keeps (s : State) (k : Nat) (v : Word) :
    (s.csrPut k v).cur = s.cur ∧ (s.csrPut k v).bundle = s.bundle ∧ (s.csrPut k v).me.region = s.me.region
      ∧ (s.csrPut k v).me.pc = s.me.pc := by
  unfold State.csrPut
  split <;> try (simp [State.modMe, State.modLive, State.modSlot, State.setSlot, State.me, State.slot]; done)
  split <;> simp [State.modCore, State.me, State.slot]

/-- What writing a scalar register leaves. -/
theorem wS_keeps (s : State) (d : BitVec 5) (v : Word) :
    (s.wS d v).cur = s.cur ∧ (s.wS d v).bundle = s.bundle ∧ (s.wS d v).me.region = s.me.region ∧ (s.wS d v).me.pc = s.me.pc := by
  unfold State.wS; simp [State.modLive, State.modMe, State.modSlot, State.setSlot, State.me, State.slot]

/-- A CSR word that reads without writing. -/
theorem csr_reads (o : CsrOp) (s : State) (d a : BitVec 5) (n : BitVec 12) (u : Uses) (hu : u.reads = []) (h : s.free u)
    (ha : csrAssigned n.toNat = true) (hd : csrDenied n.toNat s.me.live.rt = false) (hw : o.writes (s.x a) = false) :
    word u (csrAccess o d a n) s = .next ((s.csrTouch n.toNat).wS d (s.csrRead n.toNat)).passed := by
  have w := wS_keeps (s.csrTouch n.toNat) d (s.csrRead n.toNat)
  have t := csrTouch_keeps s n.toNat
  refine word_keeps s _ u _ h ?_ (congrArg Region.stores (w.2.2.1.trans t.2.2.1)) (congrArg Region.effects (w.2.2.1.trans t.2.2.1))
    (w.2.2.2.trans t.2.2.2) (w.1.trans t.1) (w.2.1.trans t.2.1) (by simp [hu])
  simp only [csrAccess, ha, Bool.not_true, Bool.false_eq_true, ↓reduceIte, begun_src, hd, begun_rS, hw, Bool.false_and,
    csrRead_begun _ _ _ h.1, csrTouch_begun]
  rfl

/-- A CSR word that writes. -/
theorem csr_writes (o : CsrOp) (s : State) (d a : BitVec 5) (n : BitVec 12) (u : Uses) (hu : u.reads = []) (h : s.free u)
    (ha : csrAssigned n.toNat = true) (hd : csrDenied n.toNat s.me.live.rt = false) (hw : o.writes (s.x a) = true)
    (hb : n.toNat = 0x030 →
      (s.csrRead n.toNat ^^^ (o.value (s.csrRead n.toNat) (s.x a) (csrMask (isMem s.myCluster) n.toNat))) &&& 0xF001FFFF = 0
        ∨ s.me.arrived = []) :
    word u (csrAccess o d a n) s = .next (((s.csrTouch n.toNat).csrPut n.toNat
      (o.value (s.csrRead n.toNat) (s.x a) (csrMask (isMem s.myCluster) n.toNat))).wS d (s.csrRead n.toNat)).passed := by
  have w := wS_keeps ((s.csrTouch n.toNat).csrPut n.toNat
    (o.value (s.csrRead n.toNat) (s.x a) (csrMask (isMem s.myCluster) n.toNat))) d (s.csrRead n.toNat)
  have p := csrPut_keeps (s.csrTouch n.toNat) n.toNat (o.value (s.csrRead n.toNat) (s.x a) (csrMask (isMem s.myCluster) n.toNat))
  have t := csrTouch_keeps s n.toNat
  have r := w.2.2.1.trans (p.2.2.1.trans t.2.2.1)
  refine word_keeps s _ u _ h ?_ (congrArg Region.stores r) (congrArg Region.effects r) (w.2.2.2.trans (p.2.2.2.trans t.2.2.2))
    (w.1.trans (p.1.trans t.1)) (w.2.1.trans (p.2.1.trans t.2.1)) (by simp [hu])
  have hme : (s.begun u).me = s.me := rfl
  have hc : (s.begun u).myCluster = s.myCluster := rfl
  simp only [csrAccess, ha, Bool.not_true, Bool.false_eq_true, ↓reduceIte, begun_src, hd, begun_rS, hw, Bool.true_and,
    csrRead_begun _ _ _ h.1, csrTouch_begun, hme, hc, csrPut_bundle]
  rw [if_neg]
  · rfl
  · simp only [Bool.and_eq_true, beq_iff_eq, bne_iff_ne, Bool.not_eq_true', not_and, Bool.not_eq_false]
    intro h1
    rcases hb h1.1 with h | h
    · exact absurd h h1.2
    · rw [h]; rfl

end Sys2Proof.Machine
end

