-- ==== Sys2Proof/Laws/Dispatch.lean ====
section
/-!
SUPPORT. The dispatch, arm by arm: `exec` of an instruction is its meaning. Proofs rewrite with these instead of unfolding
the dispatch.
-/

namespace Sys2Proof.Machine

@[simp] theorem exec_add (d : BitVec 5) (a : BitVec 5) (b : BitVec 5) (s : State) : exec (.add d a b) s = execAdd d a b s := rfl
@[simp] theorem exec_sub (d : BitVec 5) (a : BitVec 5) (b : BitVec 5) (s : State) : exec (.sub d a b) s = execSub d a b s := rfl
@[simp] theorem exec_and (d : BitVec 5) (a : BitVec 5) (b : BitVec 5) (s : State) : exec (.and d a b) s = execAnd d a b s := rfl
@[simp] theorem exec_or (d : BitVec 5) (a : BitVec 5) (b : BitVec 5) (s : State) : exec (.or d a b) s = execOr d a b s := rfl
@[simp] theorem exec_xor (d : BitVec 5) (a : BitVec 5) (b : BitVec 5) (s : State) : exec (.xor d a b) s = execXor d a b s := rfl
@[simp] theorem exec_andn (d : BitVec 5) (a : BitVec 5) (b : BitVec 5) (s : State) :
    exec (.andn d a b) s = execAndn d a b s := rfl
@[simp] theorem exec_shl (d : BitVec 5) (a : BitVec 5) (b : BitVec 5) (s : State) : exec (.shl d a b) s = execShl d a b s := rfl
@[simp] theorem exec_shr (d : BitVec 5) (a : BitVec 5) (b : BitVec 5) (s : State) : exec (.shr d a b) s = execShr d a b s := rfl
@[simp] theorem exec_sra (d : BitVec 5) (a : BitVec 5) (b : BitVec 5) (s : State) : exec (.sra d a b) s = execSra d a b s := rfl
@[simp] theorem exec_slt (d : BitVec 5) (a : BitVec 5) (b : BitVec 5) (s : State) : exec (.slt d a b) s = execSlt d a b s := rfl
@[simp] theorem exec_sltn (d : BitVec 5) (a : BitVec 5) (b : BitVec 5) (s : State) :
    exec (.sltn d a b) s = execSltn d a b s := rfl
@[simp] theorem exec_seq (d : BitVec 5) (a : BitVec 5) (b : BitVec 5) (s : State) : exec (.seq d a b) s = execSeq d a b s := rfl
@[simp] theorem exec_min (d : BitVec 5) (a : BitVec 5) (b : BitVec 5) (s : State) : exec (.min d a b) s = execMin d a b s := rfl
@[simp] theorem exec_minn (d : BitVec 5) (a : BitVec 5) (b : BitVec 5) (s : State) :
    exec (.minn d a b) s = execMinn d a b s := rfl
@[simp] theorem exec_max (d : BitVec 5) (a : BitVec 5) (b : BitVec 5) (s : State) : exec (.max d a b) s = execMax d a b s := rfl
@[simp] theorem exec_maxn (d : BitVec 5) (a : BitVec 5) (b : BitVec 5) (s : State) :
    exec (.maxn d a b) s = execMaxn d a b s := rfl
@[simp] theorem exec_addx4 (d : BitVec 5) (a : BitVec 5) (b : BitVec 5) (s : State) :
    exec (.addx4 d a b) s = execAddx4 d a b s := rfl
@[simp] theorem exec_addx64 (d : BitVec 5) (a : BitVec 5) (b : BitVec 5) (s : State) :
    exec (.addx64 d a b) s = execAddx64 d a b s := rfl
@[simp] theorem exec_mul (d : BitVec 5) (a : BitVec 5) (b : BitVec 5) (s : State) : exec (.mul d a b) s = execMul d a b s := rfl
@[simp] theorem exec_mulh (d : BitVec 5) (a : BitVec 5) (b : BitVec 5) (s : State) :
    exec (.mulh d a b) s = execMulh d a b s := rfl
@[simp] theorem exec_mulhn (d : BitVec 5) (a : BitVec 5) (b : BitVec 5) (s : State) :
    exec (.mulhn d a b) s = execMulhn d a b s := rfl
@[simp] theorem exec_div (d : BitVec 5) (a : BitVec 5) (b : BitVec 5) (s : State) : exec (.div d a b) s = execDiv d a b s := rfl
@[simp] theorem exec_divn (d : BitVec 5) (a : BitVec 5) (b : BitVec 5) (s : State) :
    exec (.divn d a b) s = execDivn d a b s := rfl
@[simp] theorem exec_rem (d : BitVec 5) (a : BitVec 5) (b : BitVec 5) (s : State) : exec (.rem d a b) s = execRem d a b s := rfl
@[simp] theorem exec_remn (d : BitVec 5) (a : BitVec 5) (b : BitVec 5) (s : State) :
    exec (.remn d a b) s = execRemn d a b s := rfl
@[simp] theorem exec_movz (d : BitVec 5) (a : BitVec 5) (b : BitVec 5) (s : State) :
    exec (.movz d a b) s = execMovz d a b s := rfl
@[simp] theorem exec_movnz (d : BitVec 5) (a : BitVec 5) (b : BitVec 5) (s : State) :
    exec (.movnz d a b) s = execMovnz d a b s := rfl
@[simp] theorem exec_clz (d : BitVec 5) (a : BitVec 5) (s : State) : exec (.clz d a) s = execClz d a s := rfl
@[simp] theorem exec_popc (d : BitVec 5) (a : BitVec 5) (s : State) : exec (.popc d a) s = execPopc d a s := rfl
@[simp] theorem exec_prd (d : BitVec 5) (a : BitVec 5) (s : State) : exec (.prd d a) s = execPrd d a s := rfl
@[simp] theorem exec_pwr (d : BitVec 5) (a : BitVec 5) (s : State) : exec (.pwr d a) s = execPwr d a s := rfl
@[simp] theorem exec_addi (d : BitVec 5) (a : BitVec 5) (i : BitVec 14) (s : State) :
    exec (.addi d a i) s = execAddi d a i s := rfl
@[simp] theorem exec_andi (d : BitVec 5) (a : BitVec 5) (i : BitVec 14) (s : State) :
    exec (.andi d a i) s = execAndi d a i s := rfl
@[simp] theorem exec_ori (d : BitVec 5) (a : BitVec 5) (i : BitVec 14) (s : State) :
    exec (.ori d a i) s = execOri d a i s := rfl
@[simp] theorem exec_xori (d : BitVec 5) (a : BitVec 5) (i : BitVec 14) (s : State) :
    exec (.xori d a i) s = execXori d a i s := rfl
@[simp] theorem exec_shli (d : BitVec 5) (a : BitVec 5) (n : BitVec 5) (s : State) :
    exec (.shli d a n) s = execShli d a n s := rfl
@[simp] theorem exec_shri (d : BitVec 5) (a : BitVec 5) (n : BitVec 5) (s : State) :
    exec (.shri d a n) s = execShri d a n s := rfl
@[simp] theorem exec_srai (d : BitVec 5) (a : BitVec 5) (n : BitVec 5) (s : State) :
    exec (.srai d a n) s = execSrai d a n s := rfl
@[simp] theorem exec_lui (d : BitVec 5) (i : BitVec 19) (s : State) : exec (.lui d i) s = execLui d i s := rfl
@[simp] theorem exec_slti (d : BitVec 5) (a : BitVec 5) (i : BitVec 14) (s : State) :
    exec (.slti d a i) s = execSlti d a i s := rfl
@[simp] theorem exec_sltni (d : BitVec 5) (a : BitVec 5) (i : BitVec 14) (s : State) :
    exec (.sltni d a i) s = execSltni d a i s := rfl
@[simp] theorem exec_csrr (d : BitVec 5) (n : BitVec 12) (s : State) : exec (.csrr d n) s = execCsrr d n s := rfl
@[simp] theorem exec_csrw (d : BitVec 5) (a : BitVec 5) (n : BitVec 12) (s : State) :
    exec (.csrw d a n) s = execCsrw d a n s := rfl
@[simp] theorem exec_csrs (d : BitVec 5) (a : BitVec 5) (n : BitVec 12) (s : State) :
    exec (.csrs d a n) s = execCsrs d a n s := rfl
@[simp] theorem exec_csrc (d : BitVec 5) (a : BitVec 5) (n : BitVec 12) (s : State) :
    exec (.csrc d a n) s = execCsrc d a n s := rfl
@[simp] theorem exec_j (i : BitVec 24) (s : State) : exec (.j i) s = execJ i s := rfl
@[simp] theorem exec_jal (i : BitVec 24) (s : State) : exec (.jal i) s = execJal i s := rfl
@[simp] theorem exec_jr (a : BitVec 5) (s : State) : exec (.jr a) s = execJr a s := rfl
@[simp] theorem exec_jalr (d : BitVec 5) (a : BitVec 5) (s : State) : exec (.jalr d a) s = execJalr d a s := rfl
@[simp] theorem exec_beq (d : BitVec 5) (a : BitVec 5) (i : BitVec 14) (s : State) :
    exec (.beq d a i) s = execBeq d a i s := rfl
@[simp] theorem exec_bne (d : BitVec 5) (a : BitVec 5) (i : BitVec 14) (s : State) :
    exec (.bne d a i) s = execBne d a i s := rfl
@[simp] theorem exec_blt (d : BitVec 5) (a : BitVec 5) (i : BitVec 14) (s : State) :
    exec (.blt d a i) s = execBlt d a i s := rfl
@[simp] theorem exec_bge (d : BitVec 5) (a : BitVec 5) (i : BitVec 14) (s : State) :
    exec (.bge d a i) s = execBge d a i s := rfl
@[simp] theorem exec_bltn (d : BitVec 5) (a : BitVec 5) (i : BitVec 14) (s : State) :
    exec (.bltn d a i) s = execBltn d a i s := rfl
@[simp] theorem exec_bgen (d : BitVec 5) (a : BitVec 5) (i : BitVec 14) (s : State) :
    exec (.bgen d a i) s = execBgen d a i s := rfl
@[simp] theorem exec_bp (c : BitVec 2) (p : BitVec 3) (i : BitVec 14) (s : State) : exec (.bp c p i) s = execBp c p i s := rfl
@[simp] theorem exec_loop (d : BitVec 5) (i : BitVec 14) (s : State) : exec (.loop d i) s = execLoop d i s := rfl
@[simp] theorem exec_ldI8 (d : BitVec 5) (a : BitVec 5) (o : BitVec 14) (s : State) :
    exec (.ldI8 d a o) s = execLdI8 d a o s := rfl
@[simp] theorem exec_ldN8 (d : BitVec 5) (a : BitVec 5) (o : BitVec 14) (s : State) :
    exec (.ldN8 d a o) s = execLdN8 d a o s := rfl
@[simp] theorem exec_ldI16 (d : BitVec 5) (a : BitVec 5) (o : BitVec 14) (s : State) :
    exec (.ldI16 d a o) s = execLdI16 d a o s := rfl
@[simp] theorem exec_ldN16 (d : BitVec 5) (a : BitVec 5) (o : BitVec 14) (s : State) :
    exec (.ldN16 d a o) s = execLdN16 d a o s := rfl
@[simp] theorem exec_ldI32 (d : BitVec 5) (a : BitVec 5) (o : BitVec 14) (s : State) :
    exec (.ldI32 d a o) s = execLdI32 d a o s := rfl
@[simp] theorem exec_stI8 (d : BitVec 5) (a : BitVec 5) (o : BitVec 14) (s : State) :
    exec (.stI8 d a o) s = execStI8 d a o s := rfl
@[simp] theorem exec_stI16 (d : BitVec 5) (a : BitVec 5) (o : BitVec 14) (s : State) :
    exec (.stI16 d a o) s = execStI16 d a o s := rfl
@[simp] theorem exec_stI32 (d : BitVec 5) (a : BitVec 5) (o : BitVec 14) (s : State) :
    exec (.stI32 d a o) s = execStI32 d a o s := rfl
@[simp] theorem exec_ldc (d : BitVec 5) (a : BitVec 5) (o : BitVec 14) (s : State) :
    exec (.ldc d a o) s = execLdc d a o s := rfl
@[simp] theorem exec_vld (v : BitVec 6) (a : BitVec 5) (p : BitVec 3) (o : BitVec 10) (s : State) :
    exec (.vld v a p o) s = execVld v a p o s := rfl
@[simp] theorem exec_vst (v : BitVec 6) (a : BitVec 5) (p : BitVec 3) (o : BitVec 10) (s : State) :
    exec (.vst v a p o) s = execVst v a p o s := rfl
@[simp] theorem exec_vlds (v : BitVec 6) (a : BitVec 5) (p : BitVec 3) (b : BitVec 5) (s : State) :
    exec (.vlds v a p b) s = execVlds v a p b s := rfl
@[simp] theorem exec_vsts (v : BitVec 6) (a : BitVec 5) (p : BitVec 3) (b : BitVec 5) (s : State) :
    exec (.vsts v a p b) s = execVsts v a p b s := rfl
@[simp] theorem exec_vldx (v : BitVec 6) (a : BitVec 5) (p : BitVec 3) (x : BitVec 6) (e : BitVec 2) (s : State) :
    exec (.vldx v a p x e) s = execVldx v a p x e s := rfl
@[simp] theorem exec_vstx (v : BitVec 6) (a : BitVec 5) (p : BitVec 3) (x : BitVec 6) (e : BitVec 2) (s : State) :
    exec (.vstx v a p x e) s = execVstx v a p x e s := rfl
@[simp] theorem exec_vldc (v : BitVec 6) (a : BitVec 5) (p : BitVec 3) (o : BitVec 10) (s : State) :
    exec (.vldc v a p o) s = execVldc v a p o s := rfl
@[simp] theorem exec_qld (q : BitVec 6) (a : BitVec 5) (o : BitVec 10) (s : State) :
    exec (.qld q a o) s = execQld q a o s := rfl
@[simp] theorem exec_qst (q : BitVec 6) (a : BitVec 5) (o : BitVec 10) (s : State) :
    exec (.qst q a o) s = execQst q a o s := rfl
@[simp] theorem exec_amoswap (d : BitVec 5) (a : BitVec 5) (b : BitVec 5) (s : State) :
    exec (.amoswap d a b) s = execAmoswap d a b s := rfl
@[simp] theorem exec_amoadd (d : BitVec 5) (a : BitVec 5) (b : BitVec 5) (s : State) :
    exec (.amoadd d a b) s = execAmoadd d a b s := rfl
@[simp] theorem exec_amoand (d : BitVec 5) (a : BitVec 5) (b : BitVec 5) (s : State) :
    exec (.amoand d a b) s = execAmoand d a b s := rfl
@[simp] theorem exec_amoor (d : BitVec 5) (a : BitVec 5) (b : BitVec 5) (s : State) :
    exec (.amoor d a b) s = execAmoor d a b s := rfl
@[simp] theorem exec_amoxor (d : BitVec 5) (a : BitVec 5) (b : BitVec 5) (s : State) :
    exec (.amoxor d a b) s = execAmoxor d a b s := rfl
@[simp] theorem exec_amomin (d : BitVec 5) (a : BitVec 5) (b : BitVec 5) (s : State) :
    exec (.amomin d a b) s = execAmomin d a b s := rfl
@[simp] theorem exec_amomax (d : BitVec 5) (a : BitVec 5) (b : BitVec 5) (s : State) :
    exec (.amomax d a b) s = execAmomax d a b s := rfl
@[simp] theorem exec_amominn (d : BitVec 5) (a : BitVec 5) (b : BitVec 5) (s : State) :
    exec (.amominn d a b) s = execAmominn d a b s := rfl
@[simp] theorem exec_amomaxn (d : BitVec 5) (a : BitVec 5) (b : BitVec 5) (s : State) :
    exec (.amomaxn d a b) s = execAmomaxn d a b s := rfl
@[simp] theorem exec_amocas (d : BitVec 5) (a : BitVec 5) (b : BitVec 5) (s : State) :
    exec (.amocas d a b) s = execAmocas d a b s := rfl
@[simp] theorem exec_movws (v : BitVec 6) (d : BitVec 5) (l : BitVec 4) (s : State) :
    exec (.movws v d l) s = execMovws v d l s := rfl
@[simp] theorem exec_gang (n : BitVec 2) (s : State) : exec (.gang n) s = execGang n s := rfl
@[simp] theorem exec_split (s : State) : exec (.split) s = execSplit s := rfl
@[simp] theorem exec_barw (b : BitVec 9) (s : State) : exec (.barw b) s = execBarw b s := rfl
@[simp] theorem exec_bara (b : BitVec 9) (s : State) : exec (.bara b) s = execBara b s := rfl
@[simp] theorem exec_barwt (b : BitVec 9) (s : State) : exec (.barwt b) s = execBarwt b s := rfl
@[simp] theorem exec_trap (a : BitVec 5) (n : BitVec 6) (s : State) : exec (.trap a n) s = execTrap a n s := rfl
@[simp] theorem exec_eret (s : State) : exec (.eret) s = execEret s := rfl
@[simp] theorem exec_rgn (s : State) : exec (.rgn) s = execRgn s := rfl
@[simp] theorem exec_rgnA (s : State) : exec (.rgnA) s = execRgnA s := rfl
@[simp] theorem exec_abort (a : BitVec 5) (s : State) : exec (.abort a) s = execAbort a s := rfl
@[simp] theorem exec_rgnq (d : BitVec 5) (s : State) : exec (.rgnq d) s = execRgnq d s := rfl
@[simp] theorem exec_trcr (d : BitVec 5) (a : BitVec 5) (b : BitVec 5) (s : State) :
    exec (.trcr d a b) s = execTrcr d a b s := rfl
@[simp] theorem exec_trcc (d : BitVec 5) (a : BitVec 5) (b : BitVec 5) (s : State) :
    exec (.trcc d a b) s = execTrcc d a b s := rfl
@[simp] theorem exec_mwld (t : BitVec 5) (a : BitVec 5) (b : BitVec 5) (f : BitVec 3) (s : State) :
    exec (.mwld t a b f) s = execMwld t a b f s := rfl
@[simp] theorem exec_mmaBf16 (t : BitVec 5) (a : BitVec 5) (b : BitVec 5) (c : BitVec 5) (s : State) :
    exec (.mmaBf16 t a b c) s = execMmaBf16 t a b c s := rfl
@[simp] theorem exec_mmaE4m3 (t : BitVec 5) (a : BitVec 5) (b : BitVec 5) (c : BitVec 5) (s : State) :
    exec (.mmaE4m3 t a b c) s = execMmaE4m3 t a b c s := rfl
@[simp] theorem exec_mmaE5m2 (t : BitVec 5) (a : BitVec 5) (b : BitVec 5) (c : BitVec 5) (s : State) :
    exec (.mmaE5m2 t a b c) s = execMmaE5m2 t a b c s := rfl
@[simp] theorem exec_mmaB4 (t : BitVec 5) (a : BitVec 5) (b : BitVec 5) (c : BitVec 5) (s : State) :
    exec (.mmaB4 t a b c) s = execMmaB4 t a b c s := rfl
@[simp] theorem exec_mmasBf16 (t : BitVec 5) (a : BitVec 5) (b : BitVec 5) (c : BitVec 5) (s : State) :
    exec (.mmasBf16 t a b c) s = execMmasBf16 t a b c s := rfl
@[simp] theorem exec_mmasE4m3 (t : BitVec 5) (a : BitVec 5) (b : BitVec 5) (c : BitVec 5) (s : State) :
    exec (.mmasE4m3 t a b c) s = execMmasE4m3 t a b c s := rfl
@[simp] theorem exec_mmasE5m2 (t : BitVec 5) (a : BitVec 5) (b : BitVec 5) (c : BitVec 5) (s : State) :
    exec (.mmasE5m2 t a b c) s = execMmasE5m2 t a b c s := rfl
@[simp] theorem exec_mmasB4 (t : BitVec 5) (a : BitVec 5) (b : BitVec 5) (c : BitVec 5) (s : State) :
    exec (.mmasB4 t a b c) s = execMmasB4 t a b c s := rfl
@[simp] theorem exec_mzero (t : BitVec 5) (b : BitVec 5) (k : BitVec 1) (s : State) :
    exec (.mzero t b k) s = execMzero t b k s := rfl
@[simp] theorem exec_mdrain (t : BitVec 5) (a : BitVec 5) (b : BitVec 5) (o : BitVec 3) (s : State) :
    exec (.mdrain t a b o) s = execMdrain t a b o s := rfl
@[simp] theorem exec_mdrainBf16 (t : BitVec 5) (a : BitVec 5) (b : BitVec 5) (o : BitVec 2) (s : State) :
    exec (.mdrainBf16 t a b o) s = execMdrainBf16 t a b o s := rfl
@[simp] theorem exec_mwait (t : BitVec 5) (s : State) : exec (.mwait t) s = execMwait t s := rfl
@[simp] theorem exec_mqry (t : BitVec 5) (k : BitVec 4) (s : State) : exec (.mqry t k) s = execMqry t k s := rfl
@[simp] theorem exec_cpy (t : BitVec 5) (a : BitVec 5) (c : BitVec 5) (s : State) : exec (.cpy t a c) s = execCpy t a c s := rfl
@[simp] theorem exec_pull (t : BitVec 5) (a : BitVec 5) (b : BitVec 5) (c : BitVec 5) (s : State) :
    exec (.pull t a b c) s = execPull t a b c s := rfl
@[simp] theorem exec_pullc (t : BitVec 5) (a : BitVec 5) (b : BitVec 5) (c : BitVec 5) (s : State) :
    exec (.pullc t a b c) s = execPullc t a b c s := rfl
@[simp] theorem exec_pulld (t : BitVec 5) (a : BitVec 5) (b : BitVec 5) (c : BitVec 5) (s : State) :
    exec (.pulld t a b c) s = execPulld t a b c s := rfl
@[simp] theorem exec_pulldVerify (t : BitVec 5) (c : BitVec 5) (s : State) :
    exec (.pulldVerify t c) s = execPulldVerify t c s := rfl
@[simp] theorem exec_watch (t : BitVec 5) (a : BitVec 5) (b : BitVec 5) (c : BitVec 5) (s : State) :
    exec (.watch t a b c) s = execWatch t a b c s := rfl
@[simp] theorem exec_watcht (t : BitVec 5) (a : BitVec 5) (b : BitVec 5) (c : BitVec 5) (s : State) :
    exec (.watcht t a b c) s = execWatcht t a b c s := rfl
@[simp] theorem exec_seqadv (a : BitVec 5) (b : BitVec 5) (s : State) : exec (.seqadv a b) s = execSeqadv a b s := rfl
@[simp] theorem exec_wcancel (t : BitVec 5) (s : State) : exec (.wcancel t) s = execWcancel t s := rfl
@[simp] theorem exec_ldg (d : BitVec 5) (a : BitVec 5) (b : BitVec 5) (k : BitVec 9) (s : State) :
    exec (.ldg d a b k) s = execLdg d a b k s := rfl
@[simp] theorem exec_seqldA (d : BitVec 5) (a : BitVec 5) (b : BitVec 5) (s : State) :
    exec (.seqldA d a b) s = execSeqldA d a b s := rfl
@[simp] theorem exec_tpart (a : BitVec 5) (c : BitVec 5) (s : State) : exec (.tpart a c) s = execTpart a c s := rfl
@[simp] theorem exec_talloc (t : BitVec 5) (a : BitVec 5) (b : BitVec 5) (c : BitVec 5) (s : State) :
    exec (.talloc t a b c) s = execTalloc t a b c s := rfl
@[simp] theorem exec_tallocn (t : BitVec 5) (a : BitVec 5) (b : BitVec 5) (c : BitVec 5) (s : State) :
    exec (.tallocn t a b c) s = execTallocn t a b c s := rfl
@[simp] theorem exec_tqry (t : BitVec 5) (a : BitVec 5) (q : BitVec 5) (s : State) :
    exec (.tqry t a q) s = execTqry t a q s := rfl
@[simp] theorem exec_taban (a : BitVec 5) (b : BitVec 5) (s : State) : exec (.taban a b) s = execTaban a b s := rfl
@[simp] theorem exec_ropen (t : BitVec 5) (a : BitVec 5) (b : BitVec 5) (s : State) :
    exec (.ropen t a b) s = execRopen t a b s := rfl
@[simp] theorem exec_rclose (a : BitVec 5) (s : State) : exec (.rclose a) s = execRclose a s := rfl
@[simp] theorem exec_send (t : BitVec 5) (a : BitVec 5) (b : BitVec 5) (c : BitVec 5) (s : State) :
    exec (.send t a b c) s = execSend t a b c s := rfl
@[simp] theorem exec_sendv (t : BitVec 5) (a : BitVec 5) (b : BitVec 5) (c : BitVec 5) (s : State) :
    exec (.sendv t a b c) s = execSendv t a b c s := rfl
@[simp] theorem exec_recv (t : BitVec 5) (a : BitVec 5) (s : State) : exec (.recv t a) s = execRecv t a s := rfl
@[simp] theorem exec_recvn (t : BitVec 5) (a : BitVec 5) (s : State) : exec (.recvn t a) s = execRecvn t a s := rfl
@[simp] theorem exec_submit (t : BitVec 5) (a : BitVec 5) (b : BitVec 5) (s : State) :
    exec (.submit t a b) s = execSubmit t a b s := rfl
@[simp] theorem exec_cancel (t : BitVec 5) (a : BitVec 5) (b : BitVec 5) (s : State) :
    exec (.cancel t a b) s = execCancel t a b s := rfl
@[simp] theorem exec_yield (a : BitVec 5) (b : BitVec 5) (s : State) : exec (.yield a b) s = execYield a b s := rfl
@[simp] theorem exec_retire (s : State) : exec (.retire) s = execRetire s := rfl
@[simp] theorem exec_sleept (a : BitVec 5) (b : BitVec 5) (s : State) : exec (.sleept a b) s = execSleept a b s := rfl
@[simp] theorem exec_subat (t : BitVec 5) (a : BitVec 5) (b : BitVec 5) (c : BitVec 5) (s : State) :
    exec (.subat t a b c) s = execSubat t a b c s := rfl
@[simp] theorem exec_qstat (t : BitVec 5) (a : BitVec 5) (s : State) : exec (.qstat t a) s = execQstat t a s := rfl
@[simp] theorem exec_fpin (t : BitVec 5) (a : BitVec 5) (b : BitVec 5) (s : State) :
    exec (.fpin t a b) s = execFpin t a b s := rfl
@[simp] theorem exec_rkreg (t : BitVec 5) (a : BitVec 5) (b : BitVec 5) (c : BitVec 5) (s : State) :
    exec (.rkreg t a b c) s = execRkreg t a b c s := rfl
@[simp] theorem exec_rkrev (a : BitVec 5) (s : State) : exec (.rkrev a) s = execRkrev a s := rfl
@[simp] theorem exec_ckreg (t : BitVec 5) (a : BitVec 5) (b : BitVec 5) (s : State) :
    exec (.ckreg t a b) s = execCkreg t a b s := rfl
@[simp] theorem exec_ckdel (t : BitVec 5) (a : BitVec 5) (s : State) : exec (.ckdel t a) s = execCkdel t a s := rfl
@[simp] theorem exec_hovrTake (t : BitVec 5) (a : BitVec 5) (b : BitVec 5) (c : BitVec 5) (s : State) :
    exec (.hovrTake t a b c) s = execHovrTake t a b c s := rfl
@[simp] theorem exec_hovrGive (t : BitVec 5) (a : BitVec 5) (b : BitVec 5) (c : BitVec 5) (s : State) :
    exec (.hovrGive t a b c) s = execHovrGive t a b c s := rfl
@[simp] theorem exec_plbinv (t : BitVec 5) (a : BitVec 5) (b : BitVec 5) (c : BitVec 5) (s : State) :
    exec (.plbinv t a b c) s = execPlbinv t a b c s := rfl
@[simp] theorem exec_xlinv (t : BitVec 5) (a : BitVec 5) (b : BitVec 5) (c : BitVec 5) (s : State) :
    exec (.xlinv t a b c) s = execXlinv t a b c s := rfl
@[simp] theorem exec_migrSeal (t : BitVec 5) (c : BitVec 5) (s : State) : exec (.migrSeal t c) s = execMigrSeal t c s := rfl
@[simp] theorem exec_migrTake (t : BitVec 5) (a : BitVec 5) (b : BitVec 5) (c : BitVec 5) (s : State) :
    exec (.migrTake t a b c) s = execMigrTake t a b c s := rfl
@[simp] theorem exec_migrDiscard (t : BitVec 5) (c : BitVec 5) (s : State) :
    exec (.migrDiscard t c) s = execMigrDiscard t c s := rfl
@[simp] theorem exec_migrReclaim (t : BitVec 5) (c : BitVec 5) (s : State) :
    exec (.migrReclaim t c) s = execMigrReclaim t c s := rfl
@[simp] theorem exec_nop (x : BitVec 24) (s : State) : exec (.nop x) s = execNop x s := rfl
@[simp] theorem exec_reservedHintA (m : BitVec 2) (x : BitVec 24) (s : State) :
    exec (.reservedHintA m x) s = execReservedHintA m x s := rfl
@[simp] theorem exec_reservedHintB (m : BitVec 3) (x : BitVec 23) (s : State) :
    exec (.reservedHintB m x) s = execReservedHintB m x s := rfl
@[simp] theorem exec_illegalInstruction (cause : BitVec 10) (word : BitVec 32) (s : State) :
    exec (.illegalInstruction cause word) s = execIllegalInstruction cause word s := rfl
@[simp] theorem exec_vaddI32 (d : BitVec 7) (a : BitVec 7) (b : BitVec 7) (g : BitVec 2) (s : State) :
    exec (.vaddI32 d a b g) s = execVaddI32 d a b g s := rfl
@[simp] theorem exec_vsubI32 (d : BitVec 7) (a : BitVec 7) (b : BitVec 7) (g : BitVec 2) (s : State) :
    exec (.vsubI32 d a b g) s = execVsubI32 d a b g s := rfl
@[simp] theorem exec_vmulI32 (d : BitVec 7) (a : BitVec 7) (b : BitVec 7) (g : BitVec 2) (s : State) :
    exec (.vmulI32 d a b g) s = execVmulI32 d a b g s := rfl
@[simp] theorem exec_vmulhI32 (d : BitVec 7) (a : BitVec 7) (b : BitVec 7) (g : BitVec 2) (s : State) :
    exec (.vmulhI32 d a b g) s = execVmulhI32 d a b g s := rfl
@[simp] theorem exec_vmulhN32 (d : BitVec 7) (a : BitVec 7) (b : BitVec 7) (g : BitVec 2) (s : State) :
    exec (.vmulhN32 d a b g) s = execVmulhN32 d a b g s := rfl
@[simp] theorem exec_vaddsI32 (d : BitVec 7) (a : BitVec 7) (b : BitVec 7) (g : BitVec 2) (s : State) :
    exec (.vaddsI32 d a b g) s = execVaddsI32 d a b g s := rfl
@[simp] theorem exec_vaddsN32 (d : BitVec 7) (a : BitVec 7) (b : BitVec 7) (g : BitVec 2) (s : State) :
    exec (.vaddsN32 d a b g) s = execVaddsN32 d a b g s := rfl
@[simp] theorem exec_vsubsI32 (d : BitVec 7) (a : BitVec 7) (b : BitVec 7) (g : BitVec 2) (s : State) :
    exec (.vsubsI32 d a b g) s = execVsubsI32 d a b g s := rfl
@[simp] theorem exec_vsubsN32 (d : BitVec 7) (a : BitVec 7) (b : BitVec 7) (g : BitVec 2) (s : State) :
    exec (.vsubsN32 d a b g) s = execVsubsN32 d a b g s := rfl
@[simp] theorem exec_vaddsI16 (d : BitVec 7) (a : BitVec 7) (b : BitVec 7) (g : BitVec 2) (s : State) :
    exec (.vaddsI16 d a b g) s = execVaddsI16 d a b g s := rfl
@[simp] theorem exec_vaddsI8 (d : BitVec 7) (a : BitVec 7) (b : BitVec 7) (g : BitVec 2) (s : State) :
    exec (.vaddsI8 d a b g) s = execVaddsI8 d a b g s := rfl
@[simp] theorem exec_vaddsN8 (d : BitVec 7) (a : BitVec 7) (b : BitVec 7) (g : BitVec 2) (s : State) :
    exec (.vaddsN8 d a b g) s = execVaddsN8 d a b g s := rfl
@[simp] theorem exec_vminI32 (d : BitVec 7) (a : BitVec 7) (b : BitVec 7) (g : BitVec 2) (s : State) :
    exec (.vminI32 d a b g) s = execVminI32 d a b g s := rfl
@[simp] theorem exec_vminN32 (d : BitVec 7) (a : BitVec 7) (b : BitVec 7) (g : BitVec 2) (s : State) :
    exec (.vminN32 d a b g) s = execVminN32 d a b g s := rfl
@[simp] theorem exec_vmaxI32 (d : BitVec 7) (a : BitVec 7) (b : BitVec 7) (g : BitVec 2) (s : State) :
    exec (.vmaxI32 d a b g) s = execVmaxI32 d a b g s := rfl
@[simp] theorem exec_vmaxN32 (d : BitVec 7) (a : BitVec 7) (b : BitVec 7) (g : BitVec 2) (s : State) :
    exec (.vmaxN32 d a b g) s = execVmaxN32 d a b g s := rfl
@[simp] theorem exec_vand (d : BitVec 7) (a : BitVec 7) (b : BitVec 7) (g : BitVec 2) (s : State) :
    exec (.vand d a b g) s = execVand d a b g s := rfl
@[simp] theorem exec_vor (d : BitVec 7) (a : BitVec 7) (b : BitVec 7) (g : BitVec 2) (s : State) :
    exec (.vor d a b g) s = execVor d a b g s := rfl
@[simp] theorem exec_vxor (d : BitVec 7) (a : BitVec 7) (b : BitVec 7) (g : BitVec 2) (s : State) :
    exec (.vxor d a b g) s = execVxor d a b g s := rfl
@[simp] theorem exec_vandn (d : BitVec 7) (a : BitVec 7) (b : BitVec 7) (g : BitVec 2) (s : State) :
    exec (.vandn d a b g) s = execVandn d a b g s := rfl
@[simp] theorem exec_vshl (d : BitVec 7) (a : BitVec 7) (b : BitVec 7) (g : BitVec 2) (s : State) :
    exec (.vshl d a b g) s = execVshl d a b g s := rfl
@[simp] theorem exec_vshrN32 (d : BitVec 7) (a : BitVec 7) (b : BitVec 7) (g : BitVec 2) (s : State) :
    exec (.vshrN32 d a b g) s = execVshrN32 d a b g s := rfl
@[simp] theorem exec_vshrI32 (d : BitVec 7) (a : BitVec 7) (b : BitVec 7) (g : BitVec 2) (s : State) :
    exec (.vshrI32 d a b g) s = execVshrI32 d a b g s := rfl
@[simp] theorem exec_vshli (d : BitVec 7) (a : BitVec 7) (n : BitVec 5) (g : BitVec 2) (s : State) :
    exec (.vshli d a n g) s = execVshli d a n g s := rfl
@[simp] theorem exec_vshriN32 (d : BitVec 7) (a : BitVec 7) (n : BitVec 5) (g : BitVec 2) (s : State) :
    exec (.vshriN32 d a n g) s = execVshriN32 d a n g s := rfl
@[simp] theorem exec_vshriI32 (d : BitVec 7) (a : BitVec 7) (n : BitVec 5) (g : BitVec 2) (s : State) :
    exec (.vshriI32 d a n g) s = execVshriI32 d a n g s := rfl
@[simp] theorem exec_vaddiI32 (d : BitVec 7) (a : BitVec 7) (i : BitVec 7) (g : BitVec 2) (s : State) :
    exec (.vaddiI32 d a i g) s = execVaddiI32 d a i g s := rfl
@[simp] theorem exec_vabsI32 (d : BitVec 7) (a : BitVec 7) (g : BitVec 2) (s : State) :
    exec (.vabsI32 d a g) s = execVabsI32 d a g s := rfl
@[simp] theorem exec_vcmpeqI32 (d : BitVec 7) (a : BitVec 7) (b : BitVec 7) (g : BitVec 2) (s : State) :
    exec (.vcmpeqI32 d a b g) s = execVcmpeqI32 d a b g s := rfl
@[simp] theorem exec_vcmpltI32 (d : BitVec 7) (a : BitVec 7) (b : BitVec 7) (g : BitVec 2) (s : State) :
    exec (.vcmpltI32 d a b g) s = execVcmpltI32 d a b g s := rfl
@[simp] theorem exec_vcmpltN32 (d : BitVec 7) (a : BitVec 7) (b : BitVec 7) (g : BitVec 2) (s : State) :
    exec (.vcmpltN32 d a b g) s = execVcmpltN32 d a b g s := rfl
@[simp] theorem exec_vsel (d : BitVec 7) (a : BitVec 7) (b : BitVec 7) (g : BitVec 2) (s : State) :
    exec (.vsel d a b g) s = execVsel d a b g s := rfl
@[simp] theorem exec_vaddF32 (d : BitVec 7) (a : BitVec 7) (b : BitVec 7) (g : BitVec 2) (s : State) :
    exec (.vaddF32 d a b g) s = execVaddF32 d a b g s := rfl
@[simp] theorem exec_vsubF32 (d : BitVec 7) (a : BitVec 7) (b : BitVec 7) (g : BitVec 2) (s : State) :
    exec (.vsubF32 d a b g) s = execVsubF32 d a b g s := rfl
@[simp] theorem exec_vmulF32 (d : BitVec 7) (a : BitVec 7) (b : BitVec 7) (g : BitVec 2) (s : State) :
    exec (.vmulF32 d a b g) s = execVmulF32 d a b g s := rfl
@[simp] theorem exec_vfmaF32 (d : BitVec 7) (a : BitVec 7) (b : BitVec 7) (g : BitVec 2) (s : State) :
    exec (.vfmaF32 d a b g) s = execVfmaF32 d a b g s := rfl
@[simp] theorem exec_vfmsF32 (d : BitVec 7) (a : BitVec 7) (b : BitVec 7) (g : BitVec 2) (s : State) :
    exec (.vfmsF32 d a b g) s = execVfmsF32 d a b g s := rfl
@[simp] theorem exec_vminF32 (d : BitVec 7) (a : BitVec 7) (b : BitVec 7) (g : BitVec 2) (s : State) :
    exec (.vminF32 d a b g) s = execVminF32 d a b g s := rfl
@[simp] theorem exec_vmaxF32 (d : BitVec 7) (a : BitVec 7) (b : BitVec 7) (g : BitVec 2) (s : State) :
    exec (.vmaxF32 d a b g) s = execVmaxF32 d a b g s := rfl
@[simp] theorem exec_vabsF32 (d : BitVec 7) (a : BitVec 7) (g : BitVec 2) (s : State) :
    exec (.vabsF32 d a g) s = execVabsF32 d a g s := rfl
@[simp] theorem exec_vaddBf16 (d : BitVec 7) (a : BitVec 7) (b : BitVec 7) (g : BitVec 2) (s : State) :
    exec (.vaddBf16 d a b g) s = execVaddBf16 d a b g s := rfl
@[simp] theorem exec_vmulBf16 (d : BitVec 7) (a : BitVec 7) (b : BitVec 7) (g : BitVec 2) (s : State) :
    exec (.vmulBf16 d a b g) s = execVmulBf16 d a b g s := rfl
@[simp] theorem exec_vfmaBf16 (d : BitVec 7) (a : BitVec 7) (b : BitVec 7) (g : BitVec 2) (s : State) :
    exec (.vfmaBf16 d a b g) s = execVfmaBf16 d a b g s := rfl
@[simp] theorem exec_vaddF16 (d : BitVec 7) (a : BitVec 7) (b : BitVec 7) (g : BitVec 2) (s : State) :
    exec (.vaddF16 d a b g) s = execVaddF16 d a b g s := rfl
@[simp] theorem exec_vmulF16 (d : BitVec 7) (a : BitVec 7) (b : BitVec 7) (g : BitVec 2) (s : State) :
    exec (.vmulF16 d a b g) s = execVmulF16 d a b g s := rfl
@[simp] theorem exec_vfmaF16 (d : BitVec 7) (a : BitVec 7) (b : BitVec 7) (g : BitVec 2) (s : State) :
    exec (.vfmaF16 d a b g) s = execVfmaF16 d a b g s := rfl
@[simp] theorem exec_vcmpeqF32 (d : BitVec 7) (a : BitVec 7) (b : BitVec 7) (g : BitVec 2) (s : State) :
    exec (.vcmpeqF32 d a b g) s = execVcmpeqF32 d a b g s := rfl
@[simp] theorem exec_vcmpltF32 (d : BitVec 7) (a : BitVec 7) (b : BitVec 7) (g : BitVec 2) (s : State) :
    exec (.vcmpltF32 d a b g) s = execVcmpltF32 d a b g s := rfl
@[simp] theorem exec_vcmpleF32 (d : BitVec 7) (a : BitVec 7) (b : BitVec 7) (g : BitVec 2) (s : State) :
    exec (.vcmpleF32 d a b g) s = execVcmpleF32 d a b g s := rfl
@[simp] theorem exec_vcmpunF32 (d : BitVec 7) (a : BitVec 7) (b : BitVec 7) (g : BitVec 2) (s : State) :
    exec (.vcmpunF32 d a b g) s = execVcmpunF32 d a b g s := rfl
@[simp] theorem exec_vcvtF32I32 (d : BitVec 7) (a : BitVec 7) (g : BitVec 2) (s : State) :
    exec (.vcvtF32I32 d a g) s = execVcvtF32I32 d a g s := rfl
@[simp] theorem exec_vcvtF32N32 (d : BitVec 7) (a : BitVec 7) (g : BitVec 2) (s : State) :
    exec (.vcvtF32N32 d a g) s = execVcvtF32N32 d a g s := rfl
@[simp] theorem exec_vcvtF32I16 (d : BitVec 7) (a : BitVec 7) (g : BitVec 2) (s : State) :
    exec (.vcvtF32I16 d a g) s = execVcvtF32I16 d a g s := rfl
@[simp] theorem exec_vcvtF32N16 (d : BitVec 7) (a : BitVec 7) (g : BitVec 2) (s : State) :
    exec (.vcvtF32N16 d a g) s = execVcvtF32N16 d a g s := rfl
@[simp] theorem exec_vcvtF32I8 (d : BitVec 7) (a : BitVec 7) (g : BitVec 2) (s : State) :
    exec (.vcvtF32I8 d a g) s = execVcvtF32I8 d a g s := rfl
@[simp] theorem exec_vcvtF32N8 (d : BitVec 7) (a : BitVec 7) (g : BitVec 2) (s : State) :
    exec (.vcvtF32N8 d a g) s = execVcvtF32N8 d a g s := rfl
@[simp] theorem exec_vcvtI32F32 (d : BitVec 7) (a : BitVec 7) (g : BitVec 2) (s : State) :
    exec (.vcvtI32F32 d a g) s = execVcvtI32F32 d a g s := rfl
@[simp] theorem exec_vcvtN32F32 (d : BitVec 7) (a : BitVec 7) (g : BitVec 2) (s : State) :
    exec (.vcvtN32F32 d a g) s = execVcvtN32F32 d a g s := rfl
@[simp] theorem exec_vcvtF32Bf16 (d : BitVec 7) (a : BitVec 7) (g : BitVec 2) (s : State) :
    exec (.vcvtF32Bf16 d a g) s = execVcvtF32Bf16 d a g s := rfl
@[simp] theorem exec_vcvtF32F16 (d : BitVec 7) (a : BitVec 7) (g : BitVec 2) (s : State) :
    exec (.vcvtF32F16 d a g) s = execVcvtF32F16 d a g s := rfl
@[simp] theorem exec_vcvtF32E4m3 (d : BitVec 7) (a : BitVec 7) (g : BitVec 2) (s : State) :
    exec (.vcvtF32E4m3 d a g) s = execVcvtF32E4m3 d a g s := rfl
@[simp] theorem exec_vcvtF32E5m2 (d : BitVec 7) (a : BitVec 7) (g : BitVec 2) (s : State) :
    exec (.vcvtF32E5m2 d a g) s = execVcvtF32E5m2 d a g s := rfl
@[simp] theorem exec_vcvtBf16F32 (d : BitVec 7) (a : BitVec 7) (k : BitVec 1) (g : BitVec 2) (s : State) :
    exec (.vcvtBf16F32 d a k g) s = execVcvtBf16F32 d a k g s := rfl
@[simp] theorem exec_vcvtF16F32 (d : BitVec 7) (a : BitVec 7) (k : BitVec 1) (g : BitVec 2) (s : State) :
    exec (.vcvtF16F32 d a k g) s = execVcvtF16F32 d a k g s := rfl
@[simp] theorem exec_vcvtE4m3F32 (d : BitVec 7) (a : BitVec 7) (k : BitVec 2) (g : BitVec 2) (s : State) :
    exec (.vcvtE4m3F32 d a k g) s = execVcvtE4m3F32 d a k g s := rfl
@[simp] theorem exec_vcvtE5m2F32 (d : BitVec 7) (a : BitVec 7) (k : BitVec 2) (g : BitVec 2) (s : State) :
    exec (.vcvtE5m2F32 d a k g) s = execVcvtE5m2F32 d a k g s := rfl
@[simp] theorem exec_vcvtI32I16 (d : BitVec 7) (a : BitVec 7) (g : BitVec 2) (s : State) :
    exec (.vcvtI32I16 d a g) s = execVcvtI32I16 d a g s := rfl
@[simp] theorem exec_vcvtI32N16 (d : BitVec 7) (a : BitVec 7) (g : BitVec 2) (s : State) :
    exec (.vcvtI32N16 d a g) s = execVcvtI32N16 d a g s := rfl
@[simp] theorem exec_vcvtI32I8 (d : BitVec 7) (a : BitVec 7) (g : BitVec 2) (s : State) :
    exec (.vcvtI32I8 d a g) s = execVcvtI32I8 d a g s := rfl
@[simp] theorem exec_vcvtI32N8 (d : BitVec 7) (a : BitVec 7) (g : BitVec 2) (s : State) :
    exec (.vcvtI32N8 d a g) s = execVcvtI32N8 d a g s := rfl
@[simp] theorem exec_vcvtN32I32 (d : BitVec 7) (a : BitVec 7) (g : BitVec 2) (s : State) :
    exec (.vcvtN32I32 d a g) s = execVcvtN32I32 d a g s := rfl
@[simp] theorem exec_vcvtI32N32 (d : BitVec 7) (a : BitVec 7) (g : BitVec 2) (s : State) :
    exec (.vcvtI32N32 d a g) s = execVcvtI32N32 d a g s := rfl
@[simp] theorem exec_vqb4 (d : BitVec 7) (a : BitVec 7) (b : BitVec 7) (t : BitVec 2) (s : State) :
    exec (.vqb4 d a b t) s = execVqb4 d a b t s := rfl
@[simp] theorem exec_vrcpE (d : BitVec 7) (a : BitVec 7) (g : BitVec 2) (s : State) :
    exec (.vrcpE d a g) s = execVrcpE d a g s := rfl
@[simp] theorem exec_vrsqE (d : BitVec 7) (a : BitVec 7) (g : BitVec 2) (s : State) :
    exec (.vrsqE d a g) s = execVrsqE d a g s := rfl
@[simp] theorem exec_vrcps (d : BitVec 7) (a : BitVec 7) (b : BitVec 7) (g : BitVec 2) (s : State) :
    exec (.vrcps d a b g) s = execVrcps d a b g s := rfl
@[simp] theorem exec_vrsqs (d : BitVec 7) (a : BitVec 7) (b : BitVec 7) (g : BitVec 2) (s : State) :
    exec (.vrsqs d a b g) s = execVrsqs d a b g s := rfl
@[simp] theorem exec_vexp2E (d : BitVec 7) (a : BitVec 7) (g : BitVec 2) (s : State) :
    exec (.vexp2E d a g) s = execVexp2E d a g s := rfl
@[simp] theorem exec_vlog2E (d : BitVec 7) (a : BitVec 7) (g : BitVec 2) (s : State) :
    exec (.vlog2E d a g) s = execVlog2E d a g s := rfl
@[simp] theorem exec_vtanhE (d : BitVec 7) (a : BitVec 7) (g : BitVec 2) (s : State) :
    exec (.vtanhE d a g) s = execVtanhE d a g s := rfl
@[simp] theorem exec_vrsumF32 (d : BitVec 7) (a : BitVec 7) (g : BitVec 2) (s : State) :
    exec (.vrsumF32 d a g) s = execVrsumF32 d a g s := rfl
@[simp] theorem exec_vrmaxF32 (d : BitVec 7) (a : BitVec 7) (g : BitVec 2) (s : State) :
    exec (.vrmaxF32 d a g) s = execVrmaxF32 d a g s := rfl
@[simp] theorem exec_vrminF32 (d : BitVec 7) (a : BitVec 7) (g : BitVec 2) (s : State) :
    exec (.vrminF32 d a g) s = execVrminF32 d a g s := rfl
@[simp] theorem exec_vrsumI32 (d : BitVec 7) (a : BitVec 7) (g : BitVec 2) (s : State) :
    exec (.vrsumI32 d a g) s = execVrsumI32 d a g s := rfl
@[simp] theorem exec_vrmaxI32 (d : BitVec 7) (a : BitVec 7) (g : BitVec 2) (s : State) :
    exec (.vrmaxI32 d a g) s = execVrmaxI32 d a g s := rfl
@[simp] theorem exec_vperm (d : BitVec 7) (a : BitVec 7) (b : BitVec 7) (g : BitVec 2) (s : State) :
    exec (.vperm d a b g) s = execVperm d a b g s := rfl
@[simp] theorem exec_vbcast (d : BitVec 7) (a : BitVec 7) (k : BitVec 4) (g : BitVec 2) (s : State) :
    exec (.vbcast d a k g) s = execVbcast d a k g s := rfl
@[simp] theorem exec_vslideup (d : BitVec 7) (a : BitVec 7) (n : BitVec 5) (g : BitVec 2) (s : State) :
    exec (.vslideup d a n g) s = execVslideup d a n g s := rfl
@[simp] theorem exec_vslidedn (d : BitVec 7) (a : BitVec 7) (n : BitVec 5) (g : BitVec 2) (s : State) :
    exec (.vslidedn d a n g) s = execVslidedn d a n g s := rfl
@[simp] theorem exec_vzipl (d : BitVec 7) (a : BitVec 7) (b : BitVec 7) (g : BitVec 2) (s : State) :
    exec (.vzipl d a b g) s = execVzipl d a b g s := rfl
@[simp] theorem exec_vziph (d : BitVec 7) (a : BitVec 7) (b : BitVec 7) (g : BitVec 2) (s : State) :
    exec (.vziph d a b g) s = execVziph d a b g s := rfl
@[simp] theorem exec_pand (d : BitVec 7) (a : BitVec 7) (b : BitVec 7) (s : State) :
    exec (.pand d a b) s = execPand d a b s := rfl
@[simp] theorem exec_por (d : BitVec 7) (a : BitVec 7) (b : BitVec 7) (s : State) : exec (.por d a b) s = execPor d a b s := rfl
@[simp] theorem exec_pxor (d : BitVec 7) (a : BitVec 7) (b : BitVec 7) (s : State) :
    exec (.pxor d a b) s = execPxor d a b s := rfl
@[simp] theorem exec_pnot (d : BitVec 7) (a : BitVec 7) (s : State) : exec (.pnot d a) s = execPnot d a s := rfl
@[simp] theorem exec_vpcnt (d : BitVec 7) (a : BitVec 7) (g : BitVec 2) (s : State) :
    exec (.vpcnt d a g) s = execVpcnt d a g s := rfl
@[simp] theorem exec_movw (d : BitVec 7) (a : BitVec 7) (g : BitVec 2) (s : State) :
    exec (.movw d a g) s = execMovw d a g s := rfl
@[simp] theorem exec_movwi (d : BitVec 7) (i : BitVec 7) (g : BitVec 2) (s : State) :
    exec (.movwi d i g) s = execMovwi d i g s := rfl
@[simp] theorem exec_vrng (d : BitVec 7) (g : BitVec 2) (s : State) : exec (.vrng d g) s = execVrng d g s := rfl
@[simp] theorem exec_rngsetKey (a : BitVec 7) (b : BitVec 7) (s : State) : exec (.rngsetKey a b) s = execRngsetKey a b s := rfl
@[simp] theorem exec_rngsetCtr (b : BitVec 7) (s : State) : exec (.rngsetCtr b) s = execRngsetCtr b s := rfl
@[simp] theorem exec_rngsetAdv (b : BitVec 7) (s : State) : exec (.rngsetAdv b) s = execRngsetAdv b s := rfl
@[simp] theorem exec_vnop (x : BitVec 23) (s : State) : exec (.vnop x) s = execVnop x s := rfl
@[simp] theorem exec_qadd (d : BitVec 3) (a : BitVec 3) (b : BitVec 3) (s : State) :
    exec (.qadd d a b) s = execQadd d a b s := rfl
@[simp] theorem exec_qsub (d : BitVec 3) (a : BitVec 3) (b : BitVec 3) (s : State) :
    exec (.qsub d a b) s = execQsub d a b s := rfl
@[simp] theorem exec_qmul (d : BitVec 3) (a : BitVec 3) (b : BitVec 3) (s : State) :
    exec (.qmul d a b) s = execQmul d a b s := rfl
@[simp] theorem exec_qmax (d : BitVec 3) (a : BitVec 3) (b : BitVec 3) (s : State) :
    exec (.qmax d a b) s = execQmax d a b s := rfl
@[simp] theorem exec_qmin (d : BitVec 3) (a : BitVec 3) (b : BitVec 3) (s : State) :
    exec (.qmin d a b) s = execQmin d a b s := rfl
@[simp] theorem exec_qscl (d : BitVec 3) (a : BitVec 3) (v : BitVec 7) (s : State) :
    exec (.qscl d a v) s = execQscl d a v s := rfl
@[simp] theorem exec_qneg (d : BitVec 3) (a : BitVec 3) (s : State) : exec (.qneg d a) s = execQneg d a s := rfl
@[simp] theorem exec_qmap (d : BitVec 3) (a : BitVec 3) (f : BitVec 3) (s : State) :
    exec (.qmap d a f) s = execQmap d a f s := rfl
@[simp] theorem exec_qmov (d : BitVec 3) (a : BitVec 3) (s : State) : exec (.qmov d a) s = execQmov d a s := rfl
@[simp] theorem exec_qpick (p : BitVec 3) (a : BitVec 3) (c : BitVec 3) (v : BitVec 7) (g : BitVec 2) (s : State) :
    exec (.qpick p a c v g) s = execQpick p a c v g s := rfl
@[simp] theorem exec_qmake (d : BitVec 3) (n : BitVec 3) (v : BitVec 7) (s : State) :
    exec (.qmake d n v) s = execQmake d n v s := rfl
@[simp] theorem exec_qmom (a : BitVec 3) (k : BitVec 3) (v : BitVec 7) (g : BitVec 2) (s : State) :
    exec (.qmom a k v g) s = execQmom a k v g s := rfl
@[simp] theorem exec_qqnt (a : BitVec 3) (v : BitVec 7) (g : BitVec 2) (s : State) :
    exec (.qqnt a v g) s = execQqnt a v g s := rfl
@[simp] theorem exec_qcdf (a : BitVec 3) (v : BitVec 7) (g : BitVec 2) (s : State) :
    exec (.qcdf a v g) s = execQcdf a v g s := rfl
@[simp] theorem exec_asyncTrapEntry (g : Nat) (s : State) : exec (.asyncTrapEntry g) s = execAsyncTrapEntry g s := rfl
@[simp] theorem exec_commit (gc : Nat) (s : State) : exec (.commit gc) s = execCommit gc s := rfl
@[simp] theorem exec_loadDataArrival (g : Nat) (n : Nat) (s : State) :
    exec (.loadDataArrival g n) s = execLoadDataArrival g n s := rfl
@[simp] theorem exec_soloRunStart (gc : Nat) (s : State) : exec (.soloRunStart gc) s = execSoloRunStart gc s := rfl
@[simp] theorem exec_soloRunTimeout (g : Nat) (s : State) : exec (.soloRunTimeout g) s = execSoloRunTimeout g s := rfl
@[simp] theorem exec_barrierPhaseComplete (level : Nat) (scope : Nat) (domain : Nat) (b : Nat) (s : State) :
    exec (.barrierPhaseComplete level scope domain b) s = execBarrierPhaseComplete level scope domain b s := rfl
@[simp] theorem exec_fence (gc : Nat) (why : Nat) (s : State) : exec (.fence gc why) s = execFence gc why s := rfl
@[simp] theorem exec_ownerReadRequest (gc : Nat) (id : Nat) (n : Nat) (peer : PeerAnswer) (s : State) :
    exec (.ownerReadRequest gc id n peer) s = execOwnerReadRequest gc id n peer s := rfl
@[simp] theorem exec_remoteLoadAnswer (gc : Nat) (id : Nat) (s : State) :
    exec (.remoteLoadAnswer gc id) s = execRemoteLoadAnswer gc id s := rfl
@[simp] theorem exec_leaseExpiry (gc : Nat) (s : State) : exec (.leaseExpiry gc) s = execLeaseExpiry gc s := rfl
@[simp] theorem exec_matrixAFetchDone (gc : Nat) (seq : Nat) (s : State) :
    exec (.matrixAFetchDone gc seq) s = execMatrixAFetchDone gc seq s := rfl
@[simp] theorem exec_mwldReadComplete (gc : Nat) (seq : Nat) (s : State) :
    exec (.mwldReadComplete gc seq) s = execMwldReadComplete gc seq s := rfl
@[simp] theorem exec_matrixCommandStart (gc : Nat) (seq : Nat) (s : State) :
    exec (.matrixCommandStart gc seq) s = execMatrixCommandStart gc seq s := rfl
@[simp] theorem exec_accPortServe (gc : Nat) (s : State) : exec (.accPortServe gc) s = execAccPortServe gc s := rfl
@[simp] theorem exec_mzeroDone (gc : Nat) (s : State) : exec (.mzeroDone gc) s = execMzeroDone gc s := rfl
@[simp] theorem exec_mdrainDone (gc : Nat) (s : State) : exec (.mdrainDone gc) s = execMdrainDone gc s := rfl
@[simp] theorem exec_mwaitDone (gc : Nat) (seq : Nat) (s : State) : exec (.mwaitDone gc seq) s = execMwaitDone gc seq s := rfl
@[simp] theorem exec_onionEnter (gc : Nat) (s : State) : exec (.onionEnter gc) s = execOnionEnter gc s := rfl
@[simp] theorem exec_onionGroupDue (gc : Nat) (k : Nat) (s : State) :
    exec (.onionGroupDue gc k) s = execOnionGroupDue gc k s := rfl
@[simp] theorem exec_arrayLoad (gc : Nat) (s : State) : exec (.arrayLoad gc) s = execArrayLoad gc s := rfl
@[simp] theorem exec_arrayLoadDone (gc : Nat) (s : State) : exec (.arrayLoadDone gc) s = execArrayLoadDone gc s := rfl
@[simp] theorem exec_passIssue (gc : Nat) (s : State) : exec (.passIssue gc) s = execPassIssue gc s := rfl
@[simp] theorem exec_passEnd (gc : Nat) (s : State) : exec (.passEnd gc) s = execPassEnd gc s := rfl
@[simp] theorem exec_cpyComplete (gc : Nat) (id : Nat) (s : State) :
    exec (.cpyComplete gc id) s = execCpyComplete gc id s := rfl
@[simp] theorem exec_pullComplete (gc : Nat) (id : Nat) (s : State) :
    exec (.pullComplete gc id) s = execPullComplete gc id s := rfl
@[simp] theorem exec_pullcAnswer (gc : Nat) (id : Nat) (s : State) :
    exec (.pullcAnswer gc id) s = execPullcAnswer gc id s := rfl
@[simp] theorem exec_pulldComplete (gc : Nat) (id : Nat) (s : State) :
    exec (.pulldComplete gc id) s = execPulldComplete gc id s := rfl
@[simp] theorem exec_pulldVerifyComplete (gc : Nat) (id : Nat) (s : State) :
    exec (.pulldVerifyComplete gc id) s = execPulldVerifyComplete gc id s := rfl
@[simp] theorem exec_ownerPullcServe (gc : Nat) (id : Nat) (peer : PeerAnswer) (s : State) :
    exec (.ownerPullcServe gc id peer) s = execOwnerPullcServe gc id peer s := rfl
@[simp] theorem exec_watchPlacementArrival (gc : Nat) (id : Nat) (s : State) :
    exec (.watchPlacementArrival gc id) s = execWatchPlacementArrival gc id s := rfl
@[simp] theorem exec_watchAnswerArrival (gc : Nat) (id : Nat) (peer : Option (Nat × Nat)) (s : State) :
    exec (.watchAnswerArrival gc id peer) s = execWatchAnswerArrival gc id peer s := rfl
@[simp] theorem exec_watchtExpiry (gc : Nat) (id : Nat) (s : State) :
    exec (.watchtExpiry gc id) s = execWatchtExpiry gc id s := rfl
@[simp] theorem exec_watchRefresh (gc : Nat) (id : Nat) (s : State) :
    exec (.watchRefresh gc id) s = execWatchRefresh gc id s := rfl
@[simp] theorem exec_watchUnackedTimeout (gc : Nat) (id : Nat) (s : State) :
    exec (.watchUnackedTimeout gc id) s = execWatchUnackedTimeout gc id s := rfl
@[simp] theorem exec_tileLifetimeExpiry (gc : Nat) (k : Nat) (t : Nat) (s : State) :
    exec (.tileLifetimeExpiry gc k t) s = execTileLifetimeExpiry gc k t s := rfl
@[simp] theorem exec_crtEntryExpiry (gc : Nat) (s : State) : exec (.crtEntryExpiry gc) s = execCrtEntryExpiry gc s := rfl
@[simp] theorem exec_poolEventDelivery (gc : Nat) (s : State) :
    exec (.poolEventDelivery gc) s = execPoolEventDelivery gc s := rfl
@[simp] theorem exec_sendArrival (gc : Nat) (id : Nat) (peer : PeerAnswer) (s : State) :
    exec (.sendArrival gc id peer) s = execSendArrival gc id peer s := rfl
@[simp] theorem exec_foreignRingWrite (h : PeerHeader) (payload : List Byte) (s : State) :
    exec (.foreignRingWrite h payload) s = execForeignRingWrite h payload s := rfl
@[simp] theorem exec_sendOrderTimeout (chip : Nat) (slot : Nat) (header : Nat) (s : State) :
    exec (.sendOrderTimeout chip slot header) s = execSendOrderTimeout chip slot header s := rfl
@[simp] theorem exec_sendAnswerArrival (gc : Nat) (id : Nat) (s : State) :
    exec (.sendAnswerArrival gc id) s = execSendAnswerArrival gc id s := rfl
@[simp] theorem exec_submissionArrival (gc : Nat) (id : Nat) (s : State) :
    exec (.submissionArrival gc id) s = execSubmissionArrival gc id s := rfl
@[simp] theorem exec_cancelArrival (gc : Nat) (id : Nat) (s : State) :
    exec (.cancelArrival gc id) s = execCancelArrival gc id s := rfl
@[simp] theorem exec_timerTick (d : Nat) (s : State) : exec (.timerTick d) s = execTimerTick d s := rfl
@[simp] theorem exec_deadlineDrop (d : Nat) (s : State) : exec (.deadlineDrop d) s = execDeadlineDrop d s := rfl
@[simp] theorem exec_dispatch (d : Nat) (s : State) : exec (.dispatch d) s = execDispatch d s := rfl
@[simp] theorem exec_sliceStart (g : Nat) (s : State) : exec (.sliceStart g) s = execSliceStart g s := rfl
@[simp] theorem exec_abortRequestDelivery (d : Nat) (s : State) :
    exec (.abortRequestDelivery d) s = execAbortRequestDelivery d s := rfl
@[simp] theorem exec_sliceAbort (g : Nat) (s : State) : exec (.sliceAbort g) s = execSliceAbort g s := rfl
@[simp] theorem exec_budgetExhausted (g : Nat) (s : State) : exec (.budgetExhausted g) s = execBudgetExhausted g s := rfl
@[simp] theorem exec_preemptRequest (d : Nat) (s : State) : exec (.preemptRequest d) s = execPreemptRequest d s := rfl
@[simp] theorem exec_preemptTimeout (g : Nat) (s : State) : exec (.preemptTimeout g) s = execPreemptTimeout g s := rfl
@[simp] theorem exec_sliceLeave (g : Nat) (s : State) : exec (.sliceLeave g) s = execSliceLeave g s := rfl
@[simp] theorem exec_linkTraining (k : Nat) (lanes : Nat) (s : State) :
    exec (.linkTraining k lanes) s = execLinkTraining k lanes s := rfl
@[simp] theorem exec_linkRekey (k : Nat) (s : State) : exec (.linkRekey k) s = execLinkRekey k s := rfl
@[simp] theorem exec_flitTagFail (k : Nat) (again : Bool) (s : State) :
    exec (.flitTagFail k again) s = execFlitTagFail k again s := rfl
@[simp] theorem exec_portLaneLoss (k : Nat) (s : State) : exec (.portLaneLoss k) s = execPortLaneLoss k s := rfl
@[simp] theorem exec_commandPartArrival (h : PeerHeader) (part : Nat) (count : Nat) (c : PeerCommand) (s : State) :
    exec (.commandPartArrival h part count c) s = execCommandPartArrival h part count c s := rfl
@[simp] theorem exec_commandReassemblyTimeout (chip : Nat) (rid : Nat) (s : State) :
    exec (.commandReassemblyTimeout chip rid) s = execCommandReassemblyTimeout chip rid s := rfl
@[simp] theorem exec_peerRequestArrival (h : PeerHeader) (q : PeerRequest) (s : State) :
    exec (.peerRequestArrival h q) s = execPeerRequestArrival h q s := rfl
@[simp] theorem exec_requestRetry (n : Nat) (s : State) : exec (.requestRetry n) s = execRequestRetry n s := rfl
@[simp] theorem exec_requestTimeout (n : Nat) (s : State) : exec (.requestTimeout n) s = execRequestTimeout n s := rfl
@[simp] theorem exec_peerEndpointDown (chip : Nat) (s : State) :
    exec (.peerEndpointDown chip) s = execPeerEndpointDown chip s := rfl
@[simp] theorem exec_peerSilenceTimeout (chip : Nat) (s : State) :
    exec (.peerSilenceTimeout chip) s = execPeerSilenceTimeout chip s := rfl
@[simp] theorem exec_keyEntryFree (gc : Nat) (s : State) : exec (.keyEntryFree gc) s = execKeyEntryFree gc s := rfl
@[simp] theorem exec_attestationRequest (h : PeerHeader) (nonce : List Byte) (s : State) :
    exec (.attestationRequest h nonce) s = execAttestationRequest h nonce s := rfl
@[simp] theorem exec_attestationReportArrival (chip : Nat) (feed : Nat) (s : State) :
    exec (.attestationReportArrival chip feed) s = execAttestationReportArrival chip feed s := rfl
@[simp] theorem exec_attestationTimeout (chip : Nat) (s : State) :
    exec (.attestationTimeout chip) s = execAttestationTimeout chip s := rfl
@[simp] theorem exec_violationRecord (d : Nat) (s : State) : exec (.violationRecord d) s = execViolationRecord d s := rfl
@[simp] theorem exec_translationWalkDone (g : Nat) (s : State) :
    exec (.translationWalkDone g) s = execTranslationWalkDone g s := rfl
@[simp] theorem exec_invalidateComplete (gc : Nat) (id : Nat) (s : State) :
    exec (.invalidateComplete gc id) s = execInvalidateComplete gc id s := rfl
@[simp] theorem exec_sqDoorbell (tail : Word) (s : State) : exec (.sqDoorbell tail) s = execSqDoorbell tail s := rfl
@[simp] theorem exec_hostSubmissionTake (entry : List Word) (s : State) :
    exec (.hostSubmissionTake entry) s = execHostSubmissionTake entry s := rfl
@[simp] theorem exec_cqheadWrite (head : Word) (s : State) : exec (.cqheadWrite head) s = execCqheadWrite head s := rfl
@[simp] theorem exec_regionKick (n : Nat) (v : Word) (s : State) : exec (.regionKick n v) s = execRegionKick n v s := rfl
@[simp] theorem exec_hovrKickTimeout (gc : Nat) (id : Nat) (s : State) :
    exec (.hovrKickTimeout gc id) s = execHovrKickTimeout gc id s := rfl
@[simp] theorem exec_hovrGiveDrainDone (gc : Nat) (id : Nat) (s : State) :
    exec (.hovrGiveDrainDone gc id) s = execHovrGiveDrainDone gc id s := rfl
@[simp] theorem exec_hostPageResponse (pasid : Nat) (page : Nat) (present : Bool) (s : State) :
    exec (.hostPageResponse pasid page present) s = execHostPageResponse pasid page present s := rfl
@[simp] theorem exec_hostPageTimeout (pasid : Nat) (page : Nat) (s : State) :
    exec (.hostPageTimeout pasid page) s = execHostPageTimeout pasid page s := rfl
@[simp] theorem exec_atsInvalidation (pasid : Nat) (first : Nat) (count : Nat) (s : State) :
    exec (.atsInvalidation pasid first count) s = execAtsInvalidation pasid first count s := rfl
@[simp] theorem exec_barRegisterWrite (off : Nat) (v : Word) (s : State) :
    exec (.barRegisterWrite off v) s = execBarRegisterWrite off v s := rfl
@[simp] theorem exec_mbQueueDescriptor (s : State) : exec (.mbQueueDescriptor) s = execMbQueueDescriptor s := rfl
@[simp] theorem exec_mbPeerEntry (check : Option (Option Nat)) (s : State) :
    exec (.mbPeerEntry check) s = execMbPeerEntry check s := rfl
@[simp] theorem exec_mbPageTableRoot (s : State) : exec (.mbPageTableRoot) s = execMbPageTableRoot s := rfl
@[simp] theorem exec_mbViolationLogPlace (s : State) : exec (.mbViolationLogPlace) s = execMbViolationLogPlace s := rfl
@[simp] theorem exec_mbHostSubmissionDomain (s : State) : exec (.mbHostSubmissionDomain) s = execMbHostSubmissionDomain s := rfl
@[simp] theorem exec_mbResetHaltedSlot (s : State) : exec (.mbResetHaltedSlot) s = execMbResetHaltedSlot s := rfl
@[simp] theorem exec_mbFenceCluster (s : State) : exec (.mbFenceCluster) s = execMbFenceCluster s := rfl
@[simp] theorem exec_mbClearPeerFailure (check : Option (Option Nat)) (s : State) :
    exec (.mbClearPeerFailure check) s = execMbClearPeerFailure check s := rfl
@[simp] theorem exec_mbAttestationReport (s : State) : exec (.mbAttestationReport) s = execMbAttestationReport s := rfl
@[simp] theorem exec_mbUnknownOp (s : State) : exec (.mbUnknownOp) s = execMbUnknownOp s := rfl
@[simp] theorem exec_mbRequestDone (s : State) : exec (.mbRequestDone) s = execMbRequestDone s := rfl
@[simp] theorem exec_modeClkRequest (v : Word) (s : State) : exec (.modeClkRequest v) s = execModeClkRequest v s := rfl
@[simp] theorem exec_modeXstkRequest (v : Word) (s : State) : exec (.modeXstkRequest v) s = execModeXstkRequest v s := rfl
@[simp] theorem exec_modeLeaseRequest (v : Word) (s : State) : exec (.modeLeaseRequest v) s = execModeLeaseRequest v s := rfl
@[simp] theorem exec_modeRlimRequest (v : Word) (s : State) : exec (.modeRlimRequest v) s = execModeRlimRequest v s := rfl
@[simp] theorem exec_dieClockSwitch (d : Nat) (stop : Nat) (s : State) :
    exec (.dieClockSwitch d stop) s = execDieClockSwitch d stop s := rfl
@[simp] theorem exec_moduleReset (s : State) : exec (.moduleReset) s = execModuleReset s := rfl
@[simp] theorem exec_bringupState (w : BootWork) (s : State) : exec (.bringupState w) s = execBringupState w s := rfl
@[simp] theorem exec_powerSample (power : Nat) (top : Nat) (s : State) :
    exec (.powerSample power top) s = execPowerSample power top s := rfl
@[simp] theorem exec_droopTrip (d : Nat) (stretch : Nat) (s : State) :
    exec (.droopTrip d stretch) s = execDroopTrip d stretch s := rfl
@[simp] theorem exec_thermalHold (d : Nat) (temp : Nat) (s : State) :
    exec (.thermalHold d temp) s = execThermalHold d temp s := rfl
@[simp] theorem exec_thermalRelease (d : Nat) (temp : Nat) (s : State) :
    exec (.thermalRelease d temp) s = execThermalRelease d temp s := rfl
@[simp] theorem exec_thermalTrip (d : Nat) (temp : Nat) (s : State) :
    exec (.thermalTrip d temp) s = execThermalTrip d temp s := rfl
@[simp] theorem exec_marginReplan (slack : List (List (List Int))) (s : State) :
    exec (.marginReplan slack) s = execMarginReplan slack s := rfl
@[simp] theorem exec_podTimeDiscipline (rate : Int) (ahead : Nat) (s : State) :
    exec (.podTimeDiscipline rate ahead) s = execPodTimeDiscipline rate ahead s := rfl
@[simp] theorem exec_softErrorCorrected (gc : Nat) (hbm : Bool) (s : State) :
    exec (.softErrorCorrected gc hbm) s = execSoftErrorCorrected gc hbm s := rfl
@[simp] theorem exec_registerUncorrectable (g : Nat) (kind : Nat) (s : State) :
    exec (.registerUncorrectable g kind) s = execRegisterUncorrectable g kind s := rfl
@[simp] theorem exec_peerEndpointUp (chip : Nat) (s : State) : exec (.peerEndpointUp chip) s = execPeerEndpointUp chip s := rfl
@[simp] theorem exec_watchAcknowledgementArrival (gc : Nat) (id : Nat) (s : State) :
    exec (.watchAcknowledgementArrival gc id) s = execWatchAcknowledgementArrival gc id s := rfl
@[simp] theorem exec_hostWriteThroughDone (n : Nat) (s : State) :
    exec (.hostWriteThroughDone n) s = execHostWriteThroughDone n s := rfl
@[simp] theorem exec_engineRangeRelease (gc : Nat) (engine : Nat) (op : Nat) (s : State) :
    exec (.engineRangeRelease gc engine op) s = execEngineRangeRelease gc engine op s := rfl
@[simp] theorem exec_submissionAnswerArrival (gc : Nat) (id : Nat) (s : State) :
    exec (.submissionAnswerArrival gc id) s = execSubmissionAnswerArrival gc id s := rfl

end Sys2Proof.Machine
end

