-- ==== Sys2Proof/Laws/Memory.lean ====
section
/-!
SUPPORT. The laws of local accesses within a bundle: where an address lies, what a read leaves, and a load's arrival
(spec/01_engines.md R33; spec/04_control.md R114-R116).
-/

namespace Sys2Proof.Machine

theorem locate_begun (s : State) (u : Uses) (x : Word) (h : s.bundle = none) : (s.begun u).locate x = s.locate x := by
  unfold State.locate
  rw [src_none s h]
  rfl

theorem checkLocal_begun (s : State) (u : Uses) (x : Word) (n : Nat) (e st al : Bool) (c : Nat) (h : s.bundle = none) :
    (s.begun u).checkLocal x n e st al c = s.checkLocal x n e st al c := by
  unfold State.checkLocal
  rw [locate_begun _ _ _ h]
  rfl

/-- An access that meets no absent host page waits for none. -/
theorem awaitPages_none (s : State) (ps : List Nat) (h : ∀ a ∈ ps, s.absentPage a = none) : s.awaitPages ps = s := by
  have : (ps.findSome? fun a => (s.absentPage a).map fun p => (p, a)) = none := by
    rw [List.findSome?_eq_none_iff]; intro a ha; rw [h a ha]; rfl
  unfold State.awaitPages; rw [this]

/-- Places that can be read at once meet no line with an error. -/
theorem readable_finds (s : State) (ps : List Nat) (h : s.readable ps) :
    (ps.find? fun a => s.faulty.contains (lineOf a) && (mfind s.me.region.stores a).isNone) = none := by
  rw [List.find?_eq_none]; intro a ha hc
  simp only [Bool.and_eq_true] at hc
  rw [h.1 a ha hc.1] at hc; simp at hc

/-- Bytes that can be stored at once wait for no host page. -/
theorem storable_waits (s : State) (ws : FMap Byte) (h : s.storable ws) : s.awaitPages (ws.map Prod.fst) = s := by
  refine awaitPages_none s _ fun a ha => ?_
  obtain ⟨c, hc, rfl⟩ := List.mem_map.mp ha
  exact h c hc

theorem noteRead_begun (s : State) (u : Uses) (ps : List Nat) (h : s.readable ps) :
    (s.begun u).noteRead ps = { s.noteRead ps with bundle := (s.begun u).bundle } := by
  have h1 := readable_finds s ps h
  have h1' : (ps.find? fun a => (s.begun u).faulty.contains (lineOf a) && (mfind (s.begun u).me.region.stores a).isNone) = none := h1
  unfold State.noteRead
  simp only [h1, h1', awaitPages_none s ps h.2, awaitPages_none (s.begun u) ps h.2]
  rfl

theorem touchPlace_begun (s : State) (u : Uses) (n : Nat) (p : Place) (h : s.readable (p.bytes n)) :
    (s.begun u).touchPlace n p = { s.touchPlace n p with bundle := (s.begun u).bundle } := by
  unfold State.touchPlace
  split
  · split <;> rfl
  · exact noteRead_begun s u _ h

theorem readPlace_begun (s : State) (u : Uses) (n : Nat) (p : Place) (h : s.bundle = none) :
    (s.begun u).readPlace n p = s.readPlace n p := by
  have hp : ∀ o, (s.begun u).pageWord o = s.pageWord o := fun o => by unfold State.pageWord; rw [src_none s h]; rfl
  unfold State.readPlace
  split <;> try rfl
  rw [hp]

theorem deliver_bundle (s : State) (b : Option Bundle) (l : Load) :
    ({ s with bundle := b } : State).deliver l = { s.deliver l with bundle := b } := by
  unfold State.deliver; simp only; split <;> rfl

/-- What a read of a place leaves: the stores and effects of the region, the pc, the acting slot and the bundle. -/
theorem touchPlace_keeps (s : State) (n : Nat) (p : Place) (h : s.readable (p.bytes n)) :
    (s.touchPlace n p).me.region.stores = s.me.region.stores ∧ (s.touchPlace n p).me.region.effects = s.me.region.effects
      ∧ (s.touchPlace n p).me.pc = s.me.pc ∧ (s.touchPlace n p).cur = s.cur ∧ (s.touchPlace n p).bundle = s.bundle := by
  have h1 := readable_finds s _ h
  unfold State.touchPlace
  split
  · split <;> simp [State.modMe, State.modSlot, State.setSlot, State.me, State.slot]
  · unfold State.noteRead; simp only [h1, awaitPages_none s _ h.2]; simp [State.modMe, State.modSlot, State.setSlot, State.me, State.slot]

/-- What the delivery of a load leaves. -/
theorem deliver_keeps (s : State) (l : Load) :
    (s.deliver l).me.region.stores = s.me.region.stores ∧ (s.deliver l).me.region.effects = s.me.region.effects
      ∧ (s.deliver l).me.pc = s.me.pc ∧ (s.deliver l).cur = s.cur ∧ (s.deliver l).bundle = s.bundle := by
  unfold State.deliver
  split <;> simp [State.modLive, State.modMe, State.modSlot, State.setSlot, State.me, State.slot]

/-- A scalar load whose checks pass (R114). -/
theorem scalarLoad_free (n : Nat) (f : Word → Word) (d a : BitVec 5) (o : BitVec 14) (s : State) (p : Place)
    (h : s.free (useS [d, a])) (hl : s.locate (s.x a + BitVec.ofInt 32 (o.toInt * n)) = some p)
    (hc : s.checkLocal (s.x a + BitVec.ofInt 32 (o.toInt * n)) n (n == 4) false
      ((s.x a + BitVec.ofInt 32 (o.toInt * n)).toNat % n == 0) 0x010 = none)
    (hr : s.readable (p.bytes n)) :
    scalarLoad n f d a o s = .next ((s.touchPlace n p).deliver (loadS d (f (s.readPlace n p)))).passed := by
  have k1 := deliver_keeps (s.touchPlace n p) (loadS d (f (s.readPlace n p)))
  have k2 := touchPlace_keeps s n p hr
  refine word_keeps s _ _ _ h ?_ (k1.1.trans k2.1) (k1.2.1.trans k2.2.1) (k1.2.2.1.trans k2.2.2.1)
    (k1.2.2.2.1.trans k2.2.2.2.1) (k1.2.2.2.2.trans k2.2.2.2.2) (Nat.zero_le 2)
  simp only [State.addrAM, begun_rS, checkLocal_begun _ _ _ _ _ _ _ _ h.1, hc, State.readAt, locate_begun _ _ _ h.1, hl,
    touchPlace_begun _ _ _ _ hr, readPlace_begun _ _ _ _ h.1, deliver_bundle]

end Sys2Proof.Machine
end

