-- ==== Sys2Proof/Laws/PerInstr.lean ====
section
/-!
SUPPORT. The laws that are made per instruction. The family CodeDecodes: the bits of a well-formed instruction, with
either value of the S bit, decode to it (spec/02_encoding.md R47, R64-R66). One lemma per field layout says what each
field of a word of that layout holds; the lemma of a constructor reads its layout's facts off and evaluates the decoder.
-/

namespace Sys2Proof.Laws.CodeDecodes

/-- The decoder gives a well-formed instruction back from its bits, whatever the S bit. -/
def Statement (i : Instr) : Prop :=
  ∀ n y, i.wf = true → i.code = some n → y < 2 → decodeNat (n + y * 2 ^ 30) = .ok i.canon

/-- What has no word states nothing. -/
theorem no_word {i : Instr} (h : i.code = none) : Statement i := by
  intro n y _ e
  rw [h] at e
  cases e

/-- What is not well-formed states nothing. -/
theorem ill {i : Instr} (h : i.wf = false) : Statement i := fun _ _ hw => by rw [h] at hw; cases hw

/-- The statement from the decoding of the two words. -/
theorem of_code {i : Instr} {n : Nat} (h : i.code = some n)
    (hd : ∀ w y, w = n + y * 2 ^ 30 → y < 2 → decodeNat w = .ok i.canon) : Statement i := by
  intro m y _ e hy
  rw [h] at e
  cases e
  exact hd _ y rfl hy

theorem tail_div {q x n : Nat} (hn : 0 < n) (hx : x < n) : (q * n + x) / n = q := by
  rw [Nat.mul_comm, Nat.mul_add_div hn, Nat.div_eq_of_lt hx, Nat.add_zero]

/-- A field laid over clear bits leaves the bits above it alone. -/
theorem above {M x p n lo k : Nat} (hc : fld M p n = 0) (hx : x < 2 ^ n) (h : p + n ≤ lo) :
    fld (M + x * 2 ^ p) lo k = fld M lo k := by
  obtain ⟨e, rfl⟩ := Nat.exists_eq_add_of_le h
  have hp : 0 < 2 ^ p := Nat.two_pow_pos p
  have hn : 0 < 2 ^ n := Nat.two_pow_pos n
  unfold fld at *
  rw [Nat.pow_add, Nat.pow_add, ← Nat.div_div_eq_div_mul, ← Nat.div_div_eq_div_mul, ← Nat.div_div_eq_div_mul,
    ← Nat.div_div_eq_div_mul, Nat.add_mul_div_right _ _ hp]
  have hd : M / 2 ^ p = M / 2 ^ p / 2 ^ n * 2 ^ n := by
    have := Nat.div_add_mod (M / 2 ^ p) (2 ^ n)
    rw [hc, Nat.mul_comm] at this
    omega
  rw [hd, tail_div hn hx, Nat.mul_div_cancel _ hn]

/-- A field laid over clear bits leaves the bits below it alone. -/
theorem below {M x p lo k : Nat} (h : lo + k ≤ p) : fld (M + x * 2 ^ p) lo k = fld M lo k := by
  obtain ⟨e, rfl⟩ := Nat.exists_eq_add_of_le h
  unfold fld
  rw [Nat.add_assoc, Nat.pow_add, Nat.mul_left_comm, Nat.add_mul_div_left _ _ (Nat.two_pow_pos lo), Nat.pow_add,
    Nat.mul_left_comm, Nat.add_mul_mod_self_left]

/-- A field laid over clear bits reads back. -/
theorem there {M x p n : Nat} (hc : fld M p n = 0) (hx : x < 2 ^ n) : fld (M + x * 2 ^ p) p n = x := by
  unfold fld at *
  rw [Nat.add_mul_div_right _ _ (Nat.two_pow_pos p), Nat.add_mod, hc, Nat.zero_add, Nat.mod_mod, Nat.mod_eq_of_lt hx]

theorem bits_eq {w lo n : Nat} {x : BitVec n} (h : fld w lo n = x.toNat) : bitsOf w lo n = x := by
  apply BitVec.eq_of_toNat_eq
  rw [bitsOf, BitVec.toNat_ofNat]
  exact h

theorem lay_19w5_14w5_9w5 {m s w : Nat} {a : BitVec 5} {b : BitVec 5} {c : BitVec 5} (hw : w = lay3 m a.toNat 19 b.toNat 14 c.toNat 9 + s * 2 ^ 30) (hs : s < 2)
    (h0 : fld m 19 5 = 0) (h1 : fld m 14 5 = 0) (h2 : fld m 9 5 = 0) (h3 : fld m 30 1 = 0) :
    fld w 31 1 = fld m 31 1 ∧ fld w 24 6 = fld m 24 6 ∧ fld w 0 9 = fld m 0 9 ∧ bitsOf w 19 5 = a ∧ bitsOf w 14 5 = b ∧ bitsOf w 9 5 = c ∧ fld w 0 4 = fld m 0 4 ∧ fld w 4 5 = fld m 4 5 := by
  subst hw
  have c0 : fld m 19 5 = 0 := h0
  have c1 : fld (m + a.toNat * 2 ^ 19) 14 5 = 0 := (below (by decide)).trans h1
  have c2 : fld (m + a.toNat * 2 ^ 19 + b.toNat * 2 ^ 14) 9 5 = 0 := (below (by decide)).trans ((below (by decide)).trans h2)
  have c3 : fld (m + a.toNat * 2 ^ 19 + b.toNat * 2 ^ 14 + c.toNat * 2 ^ 9) 30 1 = 0 := (above c2 c.isLt (by decide)).trans ((above c1 b.isLt (by decide)).trans ((above c0 a.isLt (by decide)).trans h3))
  refine ⟨(above c3 hs (by decide)).trans ((above c2 c.isLt (by decide)).trans ((above c1 b.isLt (by decide)).trans (above c0 a.isLt (by decide)))),
    (below (by decide)).trans ((above c2 c.isLt (by decide)).trans ((above c1 b.isLt (by decide)).trans (above c0 a.isLt (by decide)))),
    (below (by decide)).trans ((below (by decide)).trans ((below (by decide)).trans (below (by decide)))),
    bits_eq ((below (by decide)).trans ((above c2 c.isLt (by decide)).trans ((above c1 b.isLt (by decide)).trans (there c0 a.isLt)))),
    bits_eq ((below (by decide)).trans ((above c2 c.isLt (by decide)).trans (there c1 b.isLt))),
    bits_eq ((below (by decide)).trans (there c2 c.isLt)),
    (below (by decide)).trans ((below (by decide)).trans ((below (by decide)).trans (below (by decide)))),
    (below (by decide)).trans ((below (by decide)).trans ((below (by decide)).trans (below (by decide))))⟩

theorem lay_19w5_14w5 {m s w : Nat} {a : BitVec 5} {b : BitVec 5} (hw : w = lay2 m a.toNat 19 b.toNat 14 + s * 2 ^ 30) (hs : s < 2)
    (h0 : fld m 19 5 = 0) (h1 : fld m 14 5 = 0) (h2 : fld m 30 1 = 0) :
    fld w 31 1 = fld m 31 1 ∧ fld w 24 6 = fld m 24 6 ∧ fld w 0 9 = fld m 0 9 ∧ fld w 9 5 = fld m 9 5 ∧ bitsOf w 19 5 = a ∧ bitsOf w 14 5 = b ∧ fld w 0 4 = fld m 0 4 ∧ fld w 4 10 = fld m 4 10 := by
  subst hw
  have c0 : fld m 19 5 = 0 := h0
  have c1 : fld (m + a.toNat * 2 ^ 19) 14 5 = 0 := (below (by decide)).trans h1
  have c2 : fld (m + a.toNat * 2 ^ 19 + b.toNat * 2 ^ 14) 30 1 = 0 := (above c1 b.isLt (by decide)).trans ((above c0 a.isLt (by decide)).trans h2)
  refine ⟨(above c2 hs (by decide)).trans ((above c1 b.isLt (by decide)).trans (above c0 a.isLt (by decide))),
    (below (by decide)).trans ((above c1 b.isLt (by decide)).trans (above c0 a.isLt (by decide))),
    (below (by decide)).trans ((below (by decide)).trans (below (by decide))),
    (below (by decide)).trans ((below (by decide)).trans (below (by decide))),
    bits_eq ((below (by decide)).trans ((above c1 b.isLt (by decide)).trans (there c0 a.isLt))),
    bits_eq ((below (by decide)).trans (there c1 b.isLt)),
    (below (by decide)).trans ((below (by decide)).trans (below (by decide))),
    (below (by decide)).trans ((below (by decide)).trans (below (by decide)))⟩

theorem lay_19w5_14w5_0w14 {m s w : Nat} {a : BitVec 5} {b : BitVec 5} {c : BitVec 14} (hw : w = lay3 m a.toNat 19 b.toNat 14 c.toNat 0 + s * 2 ^ 30) (hs : s < 2)
    (h0 : fld m 19 5 = 0) (h1 : fld m 14 5 = 0) (h2 : fld m 0 14 = 0) (h3 : fld m 30 1 = 0) :
    fld w 31 1 = fld m 31 1 ∧ fld w 24 6 = fld m 24 6 ∧ bitsOf w 19 5 = a ∧ bitsOf w 14 5 = b ∧ bitsOf w 0 14 = c := by
  subst hw
  have c0 : fld m 19 5 = 0 := h0
  have c1 : fld (m + a.toNat * 2 ^ 19) 14 5 = 0 := (below (by decide)).trans h1
  have c2 : fld (m + a.toNat * 2 ^ 19 + b.toNat * 2 ^ 14) 0 14 = 0 := (below (by decide)).trans ((below (by decide)).trans h2)
  have c3 : fld (m + a.toNat * 2 ^ 19 + b.toNat * 2 ^ 14 + c.toNat * 2 ^ 0) 30 1 = 0 := (above c2 c.isLt (by decide)).trans ((above c1 b.isLt (by decide)).trans ((above c0 a.isLt (by decide)).trans h3))
  refine ⟨(above c3 hs (by decide)).trans ((above c2 c.isLt (by decide)).trans ((above c1 b.isLt (by decide)).trans (above c0 a.isLt (by decide)))),
    (below (by decide)).trans ((above c2 c.isLt (by decide)).trans ((above c1 b.isLt (by decide)).trans (above c0 a.isLt (by decide)))),
    bits_eq ((below (by decide)).trans ((above c2 c.isLt (by decide)).trans ((above c1 b.isLt (by decide)).trans (there c0 a.isLt)))),
    bits_eq ((below (by decide)).trans ((above c2 c.isLt (by decide)).trans (there c1 b.isLt))),
    bits_eq ((below (by decide)).trans (there c2 c.isLt))⟩

theorem lay_19w5_14w5_0w5 {m s w : Nat} {a : BitVec 5} {b : BitVec 5} {c : BitVec 5} (hw : w = lay3 m a.toNat 19 b.toNat 14 c.toNat 0 + s * 2 ^ 30) (hs : s < 2)
    (h0 : fld m 19 5 = 0) (h1 : fld m 14 5 = 0) (h2 : fld m 0 5 = 0) (h3 : fld m 30 1 = 0) :
    fld w 31 1 = fld m 31 1 ∧ fld w 24 6 = fld m 24 6 ∧ fld w 5 2 = fld m 5 2 ∧ fld w 7 7 = fld m 7 7 ∧ bitsOf w 19 5 = a ∧ bitsOf w 14 5 = b ∧ bitsOf w 0 5 = c := by
  subst hw
  have c0 : fld m 19 5 = 0 := h0
  have c1 : fld (m + a.toNat * 2 ^ 19) 14 5 = 0 := (below (by decide)).trans h1
  have c2 : fld (m + a.toNat * 2 ^ 19 + b.toNat * 2 ^ 14) 0 5 = 0 := (below (by decide)).trans ((below (by decide)).trans h2)
  have c3 : fld (m + a.toNat * 2 ^ 19 + b.toNat * 2 ^ 14 + c.toNat * 2 ^ 0) 30 1 = 0 := (above c2 c.isLt (by decide)).trans ((above c1 b.isLt (by decide)).trans ((above c0 a.isLt (by decide)).trans h3))
  refine ⟨(above c3 hs (by decide)).trans ((above c2 c.isLt (by decide)).trans ((above c1 b.isLt (by decide)).trans (above c0 a.isLt (by decide)))),
    (below (by decide)).trans ((above c2 c.isLt (by decide)).trans ((above c1 b.isLt (by decide)).trans (above c0 a.isLt (by decide)))),
    (below (by decide)).trans ((above c2 c.isLt (by decide)).trans ((below (by decide)).trans (below (by decide)))),
    (below (by decide)).trans ((above c2 c.isLt (by decide)).trans ((below (by decide)).trans (below (by decide)))),
    bits_eq ((below (by decide)).trans ((above c2 c.isLt (by decide)).trans ((above c1 b.isLt (by decide)).trans (there c0 a.isLt)))),
    bits_eq ((below (by decide)).trans ((above c2 c.isLt (by decide)).trans (there c1 b.isLt))),
    bits_eq ((below (by decide)).trans (there c2 c.isLt))⟩

theorem lay_19w5_0w19 {m s w : Nat} {a : BitVec 5} {b : BitVec 19} (hw : w = lay2 m a.toNat 19 b.toNat 0 + s * 2 ^ 30) (hs : s < 2)
    (h0 : fld m 19 5 = 0) (h1 : fld m 0 19 = 0) (h2 : fld m 30 1 = 0) :
    fld w 31 1 = fld m 31 1 ∧ fld w 24 6 = fld m 24 6 ∧ bitsOf w 19 5 = a ∧ bitsOf w 0 19 = b := by
  subst hw
  have c0 : fld m 19 5 = 0 := h0
  have c1 : fld (m + a.toNat * 2 ^ 19) 0 19 = 0 := (below (by decide)).trans h1
  have c2 : fld (m + a.toNat * 2 ^ 19 + b.toNat * 2 ^ 0) 30 1 = 0 := (above c1 b.isLt (by decide)).trans ((above c0 a.isLt (by decide)).trans h2)
  refine ⟨(above c2 hs (by decide)).trans ((above c1 b.isLt (by decide)).trans (above c0 a.isLt (by decide))),
    (below (by decide)).trans ((above c1 b.isLt (by decide)).trans (above c0 a.isLt (by decide))),
    bits_eq ((below (by decide)).trans ((above c1 b.isLt (by decide)).trans (there c0 a.isLt))),
    bits_eq ((below (by decide)).trans (there c1 b.isLt))⟩

theorem lay_19w5_0w12 {m s w : Nat} {a : BitVec 5} {b : BitVec 12} (hw : w = lay2 m a.toNat 19 b.toNat 0 + s * 2 ^ 30) (hs : s < 2)
    (h0 : fld m 19 5 = 0) (h1 : fld m 0 12 = 0) (h2 : fld m 30 1 = 0) :
    fld w 31 1 = fld m 31 1 ∧ fld w 24 6 = fld m 24 6 ∧ fld w 12 2 = fld m 12 2 ∧ fld w 14 5 = fld m 14 5 ∧ bitsOf w 19 5 = a ∧ bitsOf w 0 12 = b := by
  subst hw
  have c0 : fld m 19 5 = 0 := h0
  have c1 : fld (m + a.toNat * 2 ^ 19) 0 12 = 0 := (below (by decide)).trans h1
  have c2 : fld (m + a.toNat * 2 ^ 19 + b.toNat * 2 ^ 0) 30 1 = 0 := (above c1 b.isLt (by decide)).trans ((above c0 a.isLt (by decide)).trans h2)
  refine ⟨(above c2 hs (by decide)).trans ((above c1 b.isLt (by decide)).trans (above c0 a.isLt (by decide))),
    (below (by decide)).trans ((above c1 b.isLt (by decide)).trans (above c0 a.isLt (by decide))),
    (below (by decide)).trans ((above c1 b.isLt (by decide)).trans (below (by decide))),
    (below (by decide)).trans ((above c1 b.isLt (by decide)).trans (below (by decide))),
    bits_eq ((below (by decide)).trans ((above c1 b.isLt (by decide)).trans (there c0 a.isLt))),
    bits_eq ((below (by decide)).trans (there c1 b.isLt))⟩

theorem lay_19w5_14w5_0w12 {m s w : Nat} {a : BitVec 5} {b : BitVec 5} {c : BitVec 12} (hw : w = lay3 m a.toNat 19 b.toNat 14 c.toNat 0 + s * 2 ^ 30) (hs : s < 2)
    (h0 : fld m 19 5 = 0) (h1 : fld m 14 5 = 0) (h2 : fld m 0 12 = 0) (h3 : fld m 30 1 = 0) :
    fld w 31 1 = fld m 31 1 ∧ fld w 24 6 = fld m 24 6 ∧ fld w 12 2 = fld m 12 2 ∧ bitsOf w 19 5 = a ∧ bitsOf w 14 5 = b ∧ bitsOf w 0 12 = c := by
  subst hw
  have c0 : fld m 19 5 = 0 := h0
  have c1 : fld (m + a.toNat * 2 ^ 19) 14 5 = 0 := (below (by decide)).trans h1
  have c2 : fld (m + a.toNat * 2 ^ 19 + b.toNat * 2 ^ 14) 0 12 = 0 := (below (by decide)).trans ((below (by decide)).trans h2)
  have c3 : fld (m + a.toNat * 2 ^ 19 + b.toNat * 2 ^ 14 + c.toNat * 2 ^ 0) 30 1 = 0 := (above c2 c.isLt (by decide)).trans ((above c1 b.isLt (by decide)).trans ((above c0 a.isLt (by decide)).trans h3))
  refine ⟨(above c3 hs (by decide)).trans ((above c2 c.isLt (by decide)).trans ((above c1 b.isLt (by decide)).trans (above c0 a.isLt (by decide)))),
    (below (by decide)).trans ((above c2 c.isLt (by decide)).trans ((above c1 b.isLt (by decide)).trans (above c0 a.isLt (by decide)))),
    (below (by decide)).trans ((above c2 c.isLt (by decide)).trans ((below (by decide)).trans (below (by decide)))),
    bits_eq ((below (by decide)).trans ((above c2 c.isLt (by decide)).trans ((above c1 b.isLt (by decide)).trans (there c0 a.isLt)))),
    bits_eq ((below (by decide)).trans ((above c2 c.isLt (by decide)).trans (there c1 b.isLt))),
    bits_eq ((below (by decide)).trans (there c2 c.isLt))⟩

theorem lay_0w24 {m s w : Nat} {a : BitVec 24} (hw : w = lay1 m a.toNat 0 + s * 2 ^ 30) (hs : s < 2)
    (h0 : fld m 0 24 = 0) (h1 : fld m 30 1 = 0) :
    fld w 31 1 = fld m 31 1 ∧ fld w 24 6 = fld m 24 6 ∧ bitsOf w 0 24 = a := by
  subst hw
  have c0 : fld m 0 24 = 0 := h0
  have c1 : fld (m + a.toNat * 2 ^ 0) 30 1 = 0 := (above c0 a.isLt (by decide)).trans h1
  refine ⟨(above c1 hs (by decide)).trans (above c0 a.isLt (by decide)),
    (below (by decide)).trans (above c0 a.isLt (by decide)),
    bits_eq ((below (by decide)).trans (there c0 a.isLt))⟩

theorem lay_14w5 {m s w : Nat} {a : BitVec 5} (hw : w = lay1 m a.toNat 14 + s * 2 ^ 30) (hs : s < 2)
    (h0 : fld m 14 5 = 0) (h1 : fld m 30 1 = 0) :
    fld w 31 1 = fld m 31 1 ∧ fld w 24 6 = fld m 24 6 ∧ fld w 0 9 = fld m 0 9 ∧ fld w 9 5 = fld m 9 5 ∧ fld w 19 5 = fld m 19 5 ∧ bitsOf w 14 5 = a ∧ fld w 0 4 = fld m 0 4 ∧ fld w 4 10 = fld m 4 10 := by
  subst hw
  have c0 : fld m 14 5 = 0 := h0
  have c1 : fld (m + a.toNat * 2 ^ 14) 30 1 = 0 := (above c0 a.isLt (by decide)).trans h1
  refine ⟨(above c1 hs (by decide)).trans (above c0 a.isLt (by decide)),
    (below (by decide)).trans (above c0 a.isLt (by decide)),
    (below (by decide)).trans (below (by decide)),
    (below (by decide)).trans (below (by decide)),
    (below (by decide)).trans (above c0 a.isLt (by decide)),
    bits_eq ((below (by decide)).trans (there c0 a.isLt)),
    (below (by decide)).trans (below (by decide)),
    (below (by decide)).trans (below (by decide))⟩

theorem lay_22w2_19w3_0w14 {m s w : Nat} {a : BitVec 2} {b : BitVec 3} {c : BitVec 14} (hw : w = lay3 m a.toNat 22 b.toNat 19 c.toNat 0 + s * 2 ^ 30) (hs : s < 2)
    (h0 : fld m 22 2 = 0) (h1 : fld m 19 3 = 0) (h2 : fld m 0 14 = 0) (h3 : fld m 30 1 = 0) :
    fld w 31 1 = fld m 31 1 ∧ fld w 24 6 = fld m 24 6 ∧ fld w 22 2 = a.toNat ∧ fld w 14 5 = fld m 14 5 ∧ bitsOf w 22 2 = a ∧ bitsOf w 19 3 = b ∧ bitsOf w 0 14 = c := by
  subst hw
  have c0 : fld m 22 2 = 0 := h0
  have c1 : fld (m + a.toNat * 2 ^ 22) 19 3 = 0 := (below (by decide)).trans h1
  have c2 : fld (m + a.toNat * 2 ^ 22 + b.toNat * 2 ^ 19) 0 14 = 0 := (below (by decide)).trans ((below (by decide)).trans h2)
  have c3 : fld (m + a.toNat * 2 ^ 22 + b.toNat * 2 ^ 19 + c.toNat * 2 ^ 0) 30 1 = 0 := (above c2 c.isLt (by decide)).trans ((above c1 b.isLt (by decide)).trans ((above c0 a.isLt (by decide)).trans h3))
  refine ⟨(above c3 hs (by decide)).trans ((above c2 c.isLt (by decide)).trans ((above c1 b.isLt (by decide)).trans (above c0 a.isLt (by decide)))),
    (below (by decide)).trans ((above c2 c.isLt (by decide)).trans ((above c1 b.isLt (by decide)).trans (above c0 a.isLt (by decide)))),
    (below (by decide)).trans ((above c2 c.isLt (by decide)).trans ((above c1 b.isLt (by decide)).trans (there c0 a.isLt))),
    (below (by decide)).trans ((above c2 c.isLt (by decide)).trans ((below (by decide)).trans (below (by decide)))),
    bits_eq ((below (by decide)).trans ((above c2 c.isLt (by decide)).trans ((above c1 b.isLt (by decide)).trans (there c0 a.isLt)))),
    bits_eq ((below (by decide)).trans ((above c2 c.isLt (by decide)).trans (there c1 b.isLt))),
    bits_eq ((below (by decide)).trans (there c2 c.isLt))⟩

theorem lay_19w5_0w14 {m s w : Nat} {a : BitVec 5} {b : BitVec 14} (hw : w = lay2 m a.toNat 19 b.toNat 0 + s * 2 ^ 30) (hs : s < 2)
    (h0 : fld m 19 5 = 0) (h1 : fld m 0 14 = 0) (h2 : fld m 30 1 = 0) :
    fld w 31 1 = fld m 31 1 ∧ fld w 24 6 = fld m 24 6 ∧ fld w 14 5 = fld m 14 5 ∧ bitsOf w 19 5 = a ∧ bitsOf w 0 14 = b := by
  subst hw
  have c0 : fld m 19 5 = 0 := h0
  have c1 : fld (m + a.toNat * 2 ^ 19) 0 14 = 0 := (below (by decide)).trans h1
  have c2 : fld (m + a.toNat * 2 ^ 19 + b.toNat * 2 ^ 0) 30 1 = 0 := (above c1 b.isLt (by decide)).trans ((above c0 a.isLt (by decide)).trans h2)
  refine ⟨(above c2 hs (by decide)).trans ((above c1 b.isLt (by decide)).trans (above c0 a.isLt (by decide))),
    (below (by decide)).trans ((above c1 b.isLt (by decide)).trans (above c0 a.isLt (by decide))),
    (below (by decide)).trans ((above c1 b.isLt (by decide)).trans (below (by decide))),
    bits_eq ((below (by decide)).trans ((above c1 b.isLt (by decide)).trans (there c0 a.isLt))),
    bits_eq ((below (by decide)).trans (there c1 b.isLt))⟩

theorem lay_18w6_13w5_10w3_0w10 {m s w : Nat} {a : BitVec 6} {b : BitVec 5} {c : BitVec 3} {d : BitVec 10} (hw : w = lay4 m a.toNat 18 b.toNat 13 c.toNat 10 d.toNat 0 + s * 2 ^ 30) (hs : s < 2)
    (h0 : fld m 18 6 = 0) (h1 : fld m 13 5 = 0) (h2 : fld m 10 3 = 0) (h3 : fld m 0 10 = 0) (h4 : fld m 30 1 = 0) :
    fld w 31 1 = fld m 31 1 ∧ fld w 24 6 = fld m 24 6 ∧ bitsOf w 18 6 = a ∧ bitsOf w 13 5 = b ∧ bitsOf w 10 3 = c ∧ bitsOf w 0 10 = d := by
  subst hw
  have c0 : fld m 18 6 = 0 := h0
  have c1 : fld (m + a.toNat * 2 ^ 18) 13 5 = 0 := (below (by decide)).trans h1
  have c2 : fld (m + a.toNat * 2 ^ 18 + b.toNat * 2 ^ 13) 10 3 = 0 := (below (by decide)).trans ((below (by decide)).trans h2)
  have c3 : fld (m + a.toNat * 2 ^ 18 + b.toNat * 2 ^ 13 + c.toNat * 2 ^ 10) 0 10 = 0 := (below (by decide)).trans ((below (by decide)).trans ((below (by decide)).trans h3))
  have c4 : fld (m + a.toNat * 2 ^ 18 + b.toNat * 2 ^ 13 + c.toNat * 2 ^ 10 + d.toNat * 2 ^ 0) 30 1 = 0 := (above c3 d.isLt (by decide)).trans ((above c2 c.isLt (by decide)).trans ((above c1 b.isLt (by decide)).trans ((above c0 a.isLt (by decide)).trans h4)))
  refine ⟨(above c4 hs (by decide)).trans ((above c3 d.isLt (by decide)).trans ((above c2 c.isLt (by decide)).trans ((above c1 b.isLt (by decide)).trans (above c0 a.isLt (by decide))))),
    (below (by decide)).trans ((above c3 d.isLt (by decide)).trans ((above c2 c.isLt (by decide)).trans ((above c1 b.isLt (by decide)).trans (above c0 a.isLt (by decide))))),
    bits_eq ((below (by decide)).trans ((above c3 d.isLt (by decide)).trans ((above c2 c.isLt (by decide)).trans ((above c1 b.isLt (by decide)).trans (there c0 a.isLt))))),
    bits_eq ((below (by decide)).trans ((above c3 d.isLt (by decide)).trans ((above c2 c.isLt (by decide)).trans (there c1 b.isLt)))),
    bits_eq ((below (by decide)).trans ((above c3 d.isLt (by decide)).trans (there c2 c.isLt))),
    bits_eq ((below (by decide)).trans (there c3 d.isLt))⟩

theorem lay_18w6_13w5_10w3_5w5 {m s w : Nat} {a : BitVec 6} {b : BitVec 5} {c : BitVec 3} {d : BitVec 5} (hw : w = lay4 m a.toNat 18 b.toNat 13 c.toNat 10 d.toNat 5 + s * 2 ^ 30) (hs : s < 2)
    (h0 : fld m 18 6 = 0) (h1 : fld m 13 5 = 0) (h2 : fld m 10 3 = 0) (h3 : fld m 5 5 = 0) (h4 : fld m 30 1 = 0) :
    fld w 31 1 = fld m 31 1 ∧ fld w 24 6 = fld m 24 6 ∧ fld w 0 5 = fld m 0 5 ∧ bitsOf w 18 6 = a ∧ bitsOf w 13 5 = b ∧ bitsOf w 10 3 = c ∧ bitsOf w 5 5 = d := by
  subst hw
  have c0 : fld m 18 6 = 0 := h0
  have c1 : fld (m + a.toNat * 2 ^ 18) 13 5 = 0 := (below (by decide)).trans h1
  have c2 : fld (m + a.toNat * 2 ^ 18 + b.toNat * 2 ^ 13) 10 3 = 0 := (below (by decide)).trans ((below (by decide)).trans h2)
  have c3 : fld (m + a.toNat * 2 ^ 18 + b.toNat * 2 ^ 13 + c.toNat * 2 ^ 10) 5 5 = 0 := (below (by decide)).trans ((below (by decide)).trans ((below (by decide)).trans h3))
  have c4 : fld (m + a.toNat * 2 ^ 18 + b.toNat * 2 ^ 13 + c.toNat * 2 ^ 10 + d.toNat * 2 ^ 5) 30 1 = 0 := (above c3 d.isLt (by decide)).trans ((above c2 c.isLt (by decide)).trans ((above c1 b.isLt (by decide)).trans ((above c0 a.isLt (by decide)).trans h4)))
  refine ⟨(above c4 hs (by decide)).trans ((above c3 d.isLt (by decide)).trans ((above c2 c.isLt (by decide)).trans ((above c1 b.isLt (by decide)).trans (above c0 a.isLt (by decide))))),
    (below (by decide)).trans ((above c3 d.isLt (by decide)).trans ((above c2 c.isLt (by decide)).trans ((above c1 b.isLt (by decide)).trans (above c0 a.isLt (by decide))))),
    (below (by decide)).trans ((below (by decide)).trans ((below (by decide)).trans ((below (by decide)).trans (below (by decide))))),
    bits_eq ((below (by decide)).trans ((above c3 d.isLt (by decide)).trans ((above c2 c.isLt (by decide)).trans ((above c1 b.isLt (by decide)).trans (there c0 a.isLt))))),
    bits_eq ((below (by decide)).trans ((above c3 d.isLt (by decide)).trans ((above c2 c.isLt (by decide)).trans (there c1 b.isLt)))),
    bits_eq ((below (by decide)).trans ((above c3 d.isLt (by decide)).trans (there c2 c.isLt))),
    bits_eq ((below (by decide)).trans (there c3 d.isLt))⟩

theorem lay_18w6_13w5_10w3_4w6_2w2 {m s w : Nat} {a : BitVec 6} {b : BitVec 5} {c : BitVec 3} {d : BitVec 6} {e : BitVec 2} (hw : w = lay5 m a.toNat 18 b.toNat 13 c.toNat 10 d.toNat 4 e.toNat 2 + s * 2 ^ 30) (hs : s < 2)
    (h0 : fld m 18 6 = 0) (h1 : fld m 13 5 = 0) (h2 : fld m 10 3 = 0) (h3 : fld m 4 6 = 0) (h4 : fld m 2 2 = 0) (h5 : fld m 30 1 = 0) :
    fld w 31 1 = fld m 31 1 ∧ fld w 24 6 = fld m 24 6 ∧ fld w 2 2 = e.toNat ∧ fld w 0 2 = fld m 0 2 ∧ bitsOf w 18 6 = a ∧ bitsOf w 13 5 = b ∧ bitsOf w 10 3 = c ∧ bitsOf w 4 6 = d ∧ bitsOf w 2 2 = e := by
  subst hw
  have c0 : fld m 18 6 = 0 := h0
  have c1 : fld (m + a.toNat * 2 ^ 18) 13 5 = 0 := (below (by decide)).trans h1
  have c2 : fld (m + a.toNat * 2 ^ 18 + b.toNat * 2 ^ 13) 10 3 = 0 := (below (by decide)).trans ((below (by decide)).trans h2)
  have c3 : fld (m + a.toNat * 2 ^ 18 + b.toNat * 2 ^ 13 + c.toNat * 2 ^ 10) 4 6 = 0 := (below (by decide)).trans ((below (by decide)).trans ((below (by decide)).trans h3))
  have c4 : fld (m + a.toNat * 2 ^ 18 + b.toNat * 2 ^ 13 + c.toNat * 2 ^ 10 + d.toNat * 2 ^ 4) 2 2 = 0 := (below (by decide)).trans ((below (by decide)).trans ((below (by decide)).trans ((below (by decide)).trans h4)))
  have c5 : fld (m + a.toNat * 2 ^ 18 + b.toNat * 2 ^ 13 + c.toNat * 2 ^ 10 + d.toNat * 2 ^ 4 + e.toNat * 2 ^ 2) 30 1 = 0 := (above c4 e.isLt (by decide)).trans ((above c3 d.isLt (by decide)).trans ((above c2 c.isLt (by decide)).trans ((above c1 b.isLt (by decide)).trans ((above c0 a.isLt (by decide)).trans h5))))
  refine ⟨(above c5 hs (by decide)).trans ((above c4 e.isLt (by decide)).trans ((above c3 d.isLt (by decide)).trans ((above c2 c.isLt (by decide)).trans ((above c1 b.isLt (by decide)).trans (above c0 a.isLt (by decide)))))),
    (below (by decide)).trans ((above c4 e.isLt (by decide)).trans ((above c3 d.isLt (by decide)).trans ((above c2 c.isLt (by decide)).trans ((above c1 b.isLt (by decide)).trans (above c0 a.isLt (by decide)))))),
    (below (by decide)).trans (there c4 e.isLt),
    (below (by decide)).trans ((below (by decide)).trans ((below (by decide)).trans ((below (by decide)).trans ((below (by decide)).trans (below (by decide)))))),
    bits_eq ((below (by decide)).trans ((above c4 e.isLt (by decide)).trans ((above c3 d.isLt (by decide)).trans ((above c2 c.isLt (by decide)).trans ((above c1 b.isLt (by decide)).trans (there c0 a.isLt)))))),
    bits_eq ((below (by decide)).trans ((above c4 e.isLt (by decide)).trans ((above c3 d.isLt (by decide)).trans ((above c2 c.isLt (by decide)).trans (there c1 b.isLt))))),
    bits_eq ((below (by decide)).trans ((above c4 e.isLt (by decide)).trans ((above c3 d.isLt (by decide)).trans (there c2 c.isLt)))),
    bits_eq ((below (by decide)).trans ((above c4 e.isLt (by decide)).trans (there c3 d.isLt))),
    bits_eq ((below (by decide)).trans (there c4 e.isLt))⟩

theorem lay_18w6_13w5_0w10 {m s w : Nat} {a : BitVec 6} {b : BitVec 5} {c : BitVec 10} (hw : w = lay3 m a.toNat 18 b.toNat 13 c.toNat 0 + s * 2 ^ 30) (hs : s < 2)
    (h0 : fld m 18 6 = 0) (h1 : fld m 13 5 = 0) (h2 : fld m 0 10 = 0) (h3 : fld m 30 1 = 0) :
    fld w 31 1 = fld m 31 1 ∧ fld w 24 6 = fld m 24 6 ∧ fld w 10 3 = fld m 10 3 ∧ bitsOf w 18 6 = a ∧ bitsOf w 13 5 = b ∧ bitsOf w 0 10 = c := by
  subst hw
  have c0 : fld m 18 6 = 0 := h0
  have c1 : fld (m + a.toNat * 2 ^ 18) 13 5 = 0 := (below (by decide)).trans h1
  have c2 : fld (m + a.toNat * 2 ^ 18 + b.toNat * 2 ^ 13) 0 10 = 0 := (below (by decide)).trans ((below (by decide)).trans h2)
  have c3 : fld (m + a.toNat * 2 ^ 18 + b.toNat * 2 ^ 13 + c.toNat * 2 ^ 0) 30 1 = 0 := (above c2 c.isLt (by decide)).trans ((above c1 b.isLt (by decide)).trans ((above c0 a.isLt (by decide)).trans h3))
  refine ⟨(above c3 hs (by decide)).trans ((above c2 c.isLt (by decide)).trans ((above c1 b.isLt (by decide)).trans (above c0 a.isLt (by decide)))),
    (below (by decide)).trans ((above c2 c.isLt (by decide)).trans ((above c1 b.isLt (by decide)).trans (above c0 a.isLt (by decide)))),
    (below (by decide)).trans ((above c2 c.isLt (by decide)).trans ((below (by decide)).trans (below (by decide)))),
    bits_eq ((below (by decide)).trans ((above c2 c.isLt (by decide)).trans ((above c1 b.isLt (by decide)).trans (there c0 a.isLt)))),
    bits_eq ((below (by decide)).trans ((above c2 c.isLt (by decide)).trans (there c1 b.isLt))),
    bits_eq ((below (by decide)).trans (there c2 c.isLt))⟩

theorem lay_18w6_13w5_0w4 {m s w : Nat} {a : BitVec 6} {b : BitVec 5} {c : BitVec 4} (hw : w = lay3 m a.toNat 18 b.toNat 13 c.toNat 0 + s * 2 ^ 30) (hs : s < 2)
    (h0 : fld m 18 6 = 0) (h1 : fld m 13 5 = 0) (h2 : fld m 0 4 = 0) (h3 : fld m 30 1 = 0) :
    fld w 31 1 = fld m 31 1 ∧ fld w 24 6 = fld m 24 6 ∧ fld w 4 9 = fld m 4 9 ∧ bitsOf w 18 6 = a ∧ bitsOf w 13 5 = b ∧ bitsOf w 0 4 = c := by
  subst hw
  have c0 : fld m 18 6 = 0 := h0
  have c1 : fld (m + a.toNat * 2 ^ 18) 13 5 = 0 := (below (by decide)).trans h1
  have c2 : fld (m + a.toNat * 2 ^ 18 + b.toNat * 2 ^ 13) 0 4 = 0 := (below (by decide)).trans ((below (by decide)).trans h2)
  have c3 : fld (m + a.toNat * 2 ^ 18 + b.toNat * 2 ^ 13 + c.toNat * 2 ^ 0) 30 1 = 0 := (above c2 c.isLt (by decide)).trans ((above c1 b.isLt (by decide)).trans ((above c0 a.isLt (by decide)).trans h3))
  refine ⟨(above c3 hs (by decide)).trans ((above c2 c.isLt (by decide)).trans ((above c1 b.isLt (by decide)).trans (above c0 a.isLt (by decide)))),
    (below (by decide)).trans ((above c2 c.isLt (by decide)).trans ((above c1 b.isLt (by decide)).trans (above c0 a.isLt (by decide)))),
    (below (by decide)).trans ((above c2 c.isLt (by decide)).trans ((below (by decide)).trans (below (by decide)))),
    bits_eq ((below (by decide)).trans ((above c2 c.isLt (by decide)).trans ((above c1 b.isLt (by decide)).trans (there c0 a.isLt)))),
    bits_eq ((below (by decide)).trans ((above c2 c.isLt (by decide)).trans (there c1 b.isLt))),
    bits_eq ((below (by decide)).trans (there c2 c.isLt))⟩

theorem lay_0w2 {m s w : Nat} {a : BitVec 2} (hw : w = lay1 m a.toNat 0 + s * 2 ^ 30) (hs : s < 2)
    (h0 : fld m 0 2 = 0) (h1 : fld m 30 1 = 0) :
    fld w 31 1 = fld m 31 1 ∧ fld w 24 6 = fld m 24 6 ∧ fld w 0 2 = a.toNat ∧ fld w 2 22 = fld m 2 22 ∧ bitsOf w 0 2 = a := by
  subst hw
  have c0 : fld m 0 2 = 0 := h0
  have c1 : fld (m + a.toNat * 2 ^ 0) 30 1 = 0 := (above c0 a.isLt (by decide)).trans h1
  refine ⟨(above c1 hs (by decide)).trans (above c0 a.isLt (by decide)),
    (below (by decide)).trans (above c0 a.isLt (by decide)),
    (below (by decide)).trans (there c0 a.isLt),
    (below (by decide)).trans (above c0 a.isLt (by decide)),
    bits_eq ((below (by decide)).trans (there c0 a.isLt))⟩

theorem lay_none {m s w : Nat} (hw : w = m + s * 2 ^ 30) (hs : s < 2)
    (h0 : fld m 30 1 = 0) :
    fld w 31 1 = fld m 31 1 ∧ fld w 24 6 = fld m 24 6 ∧ fld w 0 24 = fld m 0 24 ∧ fld w 0 9 = fld m 0 9 ∧ fld w 9 15 = fld m 9 15 ∧ fld w 0 4 = fld m 0 4 ∧ fld w 4 20 = fld m 4 20 := by
  subst hw
  have c0 : fld m 30 1 = 0 := h0
  refine ⟨above c0 hs (by decide),
    below (by decide),
    below (by decide),
    below (by decide),
    below (by decide),
    below (by decide),
    below (by decide)⟩

theorem lay_0w9 {m s w : Nat} {a : BitVec 9} (hw : w = lay1 m a.toNat 0 + s * 2 ^ 30) (hs : s < 2)
    (h0 : fld m 0 9 = 0) (h1 : fld m 30 1 = 0) :
    fld w 31 1 = fld m 31 1 ∧ fld w 24 6 = fld m 24 6 ∧ fld w 12 2 = fld m 12 2 ∧ fld w 9 3 = fld m 9 3 ∧ fld w 14 10 = fld m 14 10 ∧ bitsOf w 0 9 = a := by
  subst hw
  have c0 : fld m 0 9 = 0 := h0
  have c1 : fld (m + a.toNat * 2 ^ 0) 30 1 = 0 := (above c0 a.isLt (by decide)).trans h1
  refine ⟨(above c1 hs (by decide)).trans (above c0 a.isLt (by decide)),
    (below (by decide)).trans (above c0 a.isLt (by decide)),
    (below (by decide)).trans (above c0 a.isLt (by decide)),
    (below (by decide)).trans (above c0 a.isLt (by decide)),
    (below (by decide)).trans (above c0 a.isLt (by decide)),
    bits_eq ((below (by decide)).trans (there c0 a.isLt))⟩

theorem lay_14w5_0w6 {m s w : Nat} {a : BitVec 5} {b : BitVec 6} (hw : w = lay2 m a.toNat 14 b.toNat 0 + s * 2 ^ 30) (hs : s < 2)
    (h0 : fld m 14 5 = 0) (h1 : fld m 0 6 = 0) (h2 : fld m 30 1 = 0) :
    fld w 31 1 = fld m 31 1 ∧ fld w 24 6 = fld m 24 6 ∧ fld w 6 8 = fld m 6 8 ∧ fld w 19 5 = fld m 19 5 ∧ bitsOf w 14 5 = a ∧ bitsOf w 0 6 = b := by
  subst hw
  have c0 : fld m 14 5 = 0 := h0
  have c1 : fld (m + a.toNat * 2 ^ 14) 0 6 = 0 := (below (by decide)).trans h1
  have c2 : fld (m + a.toNat * 2 ^ 14 + b.toNat * 2 ^ 0) 30 1 = 0 := (above c1 b.isLt (by decide)).trans ((above c0 a.isLt (by decide)).trans h2)
  refine ⟨(above c2 hs (by decide)).trans ((above c1 b.isLt (by decide)).trans (above c0 a.isLt (by decide))),
    (below (by decide)).trans ((above c1 b.isLt (by decide)).trans (above c0 a.isLt (by decide))),
    (below (by decide)).trans ((above c1 b.isLt (by decide)).trans (below (by decide))),
    (below (by decide)).trans ((above c1 b.isLt (by decide)).trans (above c0 a.isLt (by decide))),
    bits_eq ((below (by decide)).trans ((above c1 b.isLt (by decide)).trans (there c0 a.isLt))),
    bits_eq ((below (by decide)).trans (there c1 b.isLt))⟩

theorem lay_19w5 {m s w : Nat} {a : BitVec 5} (hw : w = lay1 m a.toNat 19 + s * 2 ^ 30) (hs : s < 2)
    (h0 : fld m 19 5 = 0) (h1 : fld m 30 1 = 0) :
    fld w 31 1 = fld m 31 1 ∧ fld w 24 6 = fld m 24 6 ∧ fld w 0 9 = fld m 0 9 ∧ fld w 9 10 = fld m 9 10 ∧ bitsOf w 19 5 = a ∧ fld w 0 4 = fld m 0 4 ∧ fld w 4 15 = fld m 4 15 := by
  subst hw
  have c0 : fld m 19 5 = 0 := h0
  have c1 : fld (m + a.toNat * 2 ^ 19) 30 1 = 0 := (above c0 a.isLt (by decide)).trans h1
  refine ⟨(above c1 hs (by decide)).trans (above c0 a.isLt (by decide)),
    (below (by decide)).trans (above c0 a.isLt (by decide)),
    (below (by decide)).trans (below (by decide)),
    (below (by decide)).trans (below (by decide)),
    bits_eq ((below (by decide)).trans (there c0 a.isLt)),
    (below (by decide)).trans (below (by decide)),
    (below (by decide)).trans (below (by decide))⟩

theorem lay_19w5_14w5_9w5_4w3 {m s w : Nat} {a : BitVec 5} {b : BitVec 5} {c : BitVec 5} {d : BitVec 3} (hw : w = lay4 m a.toNat 19 b.toNat 14 c.toNat 9 d.toNat 4 + s * 2 ^ 30) (hs : s < 2)
    (h0 : fld m 19 5 = 0) (h1 : fld m 14 5 = 0) (h2 : fld m 9 5 = 0) (h3 : fld m 4 3 = 0) (h4 : fld m 30 1 = 0) :
    fld w 31 1 = fld m 31 1 ∧ fld w 24 6 = fld m 24 6 ∧ fld w 0 4 = fld m 0 4 ∧ fld w 4 3 = d.toNat ∧ fld w 7 2 = fld m 7 2 ∧ fld w 9 5 = c.toNat ∧ bitsOf w 19 5 = a ∧ bitsOf w 14 5 = b ∧ bitsOf w 9 5 = c ∧ bitsOf w 4 3 = d := by
  subst hw
  have c0 : fld m 19 5 = 0 := h0
  have c1 : fld (m + a.toNat * 2 ^ 19) 14 5 = 0 := (below (by decide)).trans h1
  have c2 : fld (m + a.toNat * 2 ^ 19 + b.toNat * 2 ^ 14) 9 5 = 0 := (below (by decide)).trans ((below (by decide)).trans h2)
  have c3 : fld (m + a.toNat * 2 ^ 19 + b.toNat * 2 ^ 14 + c.toNat * 2 ^ 9) 4 3 = 0 := (below (by decide)).trans ((below (by decide)).trans ((below (by decide)).trans h3))
  have c4 : fld (m + a.toNat * 2 ^ 19 + b.toNat * 2 ^ 14 + c.toNat * 2 ^ 9 + d.toNat * 2 ^ 4) 30 1 = 0 := (above c3 d.isLt (by decide)).trans ((above c2 c.isLt (by decide)).trans ((above c1 b.isLt (by decide)).trans ((above c0 a.isLt (by decide)).trans h4)))
  refine ⟨(above c4 hs (by decide)).trans ((above c3 d.isLt (by decide)).trans ((above c2 c.isLt (by decide)).trans ((above c1 b.isLt (by decide)).trans (above c0 a.isLt (by decide))))),
    (below (by decide)).trans ((above c3 d.isLt (by decide)).trans ((above c2 c.isLt (by decide)).trans ((above c1 b.isLt (by decide)).trans (above c0 a.isLt (by decide))))),
    (below (by decide)).trans ((below (by decide)).trans ((below (by decide)).trans ((below (by decide)).trans (below (by decide))))),
    (below (by decide)).trans (there c3 d.isLt),
    (below (by decide)).trans ((above c3 d.isLt (by decide)).trans ((below (by decide)).trans ((below (by decide)).trans (below (by decide))))),
    (below (by decide)).trans ((above c3 d.isLt (by decide)).trans (there c2 c.isLt)),
    bits_eq ((below (by decide)).trans ((above c3 d.isLt (by decide)).trans ((above c2 c.isLt (by decide)).trans ((above c1 b.isLt (by decide)).trans (there c0 a.isLt))))),
    bits_eq ((below (by decide)).trans ((above c3 d.isLt (by decide)).trans ((above c2 c.isLt (by decide)).trans (there c1 b.isLt)))),
    bits_eq ((below (by decide)).trans ((above c3 d.isLt (by decide)).trans (there c2 c.isLt))),
    bits_eq ((below (by decide)).trans (there c3 d.isLt))⟩

theorem lay_19w5_14w5_9w5_4w5 {m s w : Nat} {a : BitVec 5} {b : BitVec 5} {c : BitVec 5} {d : BitVec 5} (hw : w = lay4 m a.toNat 19 b.toNat 14 c.toNat 9 d.toNat 4 + s * 2 ^ 30) (hs : s < 2)
    (h0 : fld m 19 5 = 0) (h1 : fld m 14 5 = 0) (h2 : fld m 9 5 = 0) (h3 : fld m 4 5 = 0) (h4 : fld m 30 1 = 0) :
    fld w 31 1 = fld m 31 1 ∧ fld w 24 6 = fld m 24 6 ∧ fld w 0 4 = fld m 0 4 ∧ bitsOf w 19 5 = a ∧ bitsOf w 14 5 = b ∧ bitsOf w 9 5 = c ∧ bitsOf w 4 5 = d ∧ fld w 14 5 = b.toNat ∧ fld w 9 5 = c.toNat := by
  subst hw
  have c0 : fld m 19 5 = 0 := h0
  have c1 : fld (m + a.toNat * 2 ^ 19) 14 5 = 0 := (below (by decide)).trans h1
  have c2 : fld (m + a.toNat * 2 ^ 19 + b.toNat * 2 ^ 14) 9 5 = 0 := (below (by decide)).trans ((below (by decide)).trans h2)
  have c3 : fld (m + a.toNat * 2 ^ 19 + b.toNat * 2 ^ 14 + c.toNat * 2 ^ 9) 4 5 = 0 := (below (by decide)).trans ((below (by decide)).trans ((below (by decide)).trans h3))
  have c4 : fld (m + a.toNat * 2 ^ 19 + b.toNat * 2 ^ 14 + c.toNat * 2 ^ 9 + d.toNat * 2 ^ 4) 30 1 = 0 := (above c3 d.isLt (by decide)).trans ((above c2 c.isLt (by decide)).trans ((above c1 b.isLt (by decide)).trans ((above c0 a.isLt (by decide)).trans h4)))
  refine ⟨(above c4 hs (by decide)).trans ((above c3 d.isLt (by decide)).trans ((above c2 c.isLt (by decide)).trans ((above c1 b.isLt (by decide)).trans (above c0 a.isLt (by decide))))),
    (below (by decide)).trans ((above c3 d.isLt (by decide)).trans ((above c2 c.isLt (by decide)).trans ((above c1 b.isLt (by decide)).trans (above c0 a.isLt (by decide))))),
    (below (by decide)).trans ((below (by decide)).trans ((below (by decide)).trans ((below (by decide)).trans (below (by decide))))),
    bits_eq ((below (by decide)).trans ((above c3 d.isLt (by decide)).trans ((above c2 c.isLt (by decide)).trans ((above c1 b.isLt (by decide)).trans (there c0 a.isLt))))),
    bits_eq ((below (by decide)).trans ((above c3 d.isLt (by decide)).trans ((above c2 c.isLt (by decide)).trans (there c1 b.isLt)))),
    bits_eq ((below (by decide)).trans ((above c3 d.isLt (by decide)).trans (there c2 c.isLt))),
    bits_eq ((below (by decide)).trans (there c3 d.isLt)),
    (below (by decide)).trans ((above c3 d.isLt (by decide)).trans ((above c2 c.isLt (by decide)).trans (there c1 b.isLt))),
    (below (by decide)).trans ((above c3 d.isLt (by decide)).trans (there c2 c.isLt))⟩

theorem lay_19w5_9w5_4w1 {m s w : Nat} {a : BitVec 5} {b : BitVec 5} {c : BitVec 1} (hw : w = lay3 m a.toNat 19 b.toNat 9 c.toNat 4 + s * 2 ^ 30) (hs : s < 2)
    (h0 : fld m 19 5 = 0) (h1 : fld m 9 5 = 0) (h2 : fld m 4 1 = 0) (h3 : fld m 30 1 = 0) :
    fld w 31 1 = fld m 31 1 ∧ fld w 24 6 = fld m 24 6 ∧ fld w 0 4 = fld m 0 4 ∧ fld w 5 4 = fld m 5 4 ∧ fld w 14 5 = fld m 14 5 ∧ bitsOf w 19 5 = a ∧ bitsOf w 9 5 = b ∧ bitsOf w 4 1 = c := by
  subst hw
  have c0 : fld m 19 5 = 0 := h0
  have c1 : fld (m + a.toNat * 2 ^ 19) 9 5 = 0 := (below (by decide)).trans h1
  have c2 : fld (m + a.toNat * 2 ^ 19 + b.toNat * 2 ^ 9) 4 1 = 0 := (below (by decide)).trans ((below (by decide)).trans h2)
  have c3 : fld (m + a.toNat * 2 ^ 19 + b.toNat * 2 ^ 9 + c.toNat * 2 ^ 4) 30 1 = 0 := (above c2 c.isLt (by decide)).trans ((above c1 b.isLt (by decide)).trans ((above c0 a.isLt (by decide)).trans h3))
  refine ⟨(above c3 hs (by decide)).trans ((above c2 c.isLt (by decide)).trans ((above c1 b.isLt (by decide)).trans (above c0 a.isLt (by decide)))),
    (below (by decide)).trans ((above c2 c.isLt (by decide)).trans ((above c1 b.isLt (by decide)).trans (above c0 a.isLt (by decide)))),
    (below (by decide)).trans ((below (by decide)).trans ((below (by decide)).trans (below (by decide)))),
    (below (by decide)).trans ((above c2 c.isLt (by decide)).trans ((below (by decide)).trans (below (by decide)))),
    (below (by decide)).trans ((above c2 c.isLt (by decide)).trans ((above c1 b.isLt (by decide)).trans (below (by decide)))),
    bits_eq ((below (by decide)).trans ((above c2 c.isLt (by decide)).trans ((above c1 b.isLt (by decide)).trans (there c0 a.isLt)))),
    bits_eq ((below (by decide)).trans ((above c2 c.isLt (by decide)).trans (there c1 b.isLt))),
    bits_eq ((below (by decide)).trans (there c2 c.isLt))⟩

theorem lay_19w5_14w5_9w5_4w2 {m s w : Nat} {a : BitVec 5} {b : BitVec 5} {c : BitVec 5} {d : BitVec 2} (hw : w = lay4 m a.toNat 19 b.toNat 14 c.toNat 9 d.toNat 4 + s * 2 ^ 30) (hs : s < 2)
    (h0 : fld m 19 5 = 0) (h1 : fld m 14 5 = 0) (h2 : fld m 9 5 = 0) (h3 : fld m 4 2 = 0) (h4 : fld m 30 1 = 0) :
    fld w 31 1 = fld m 31 1 ∧ fld w 24 6 = fld m 24 6 ∧ fld w 0 4 = fld m 0 4 ∧ fld w 6 3 = fld m 6 3 ∧ bitsOf w 19 5 = a ∧ bitsOf w 14 5 = b ∧ bitsOf w 9 5 = c ∧ bitsOf w 4 2 = d := by
  subst hw
  have c0 : fld m 19 5 = 0 := h0
  have c1 : fld (m + a.toNat * 2 ^ 19) 14 5 = 0 := (below (by decide)).trans h1
  have c2 : fld (m + a.toNat * 2 ^ 19 + b.toNat * 2 ^ 14) 9 5 = 0 := (below (by decide)).trans ((below (by decide)).trans h2)
  have c3 : fld (m + a.toNat * 2 ^ 19 + b.toNat * 2 ^ 14 + c.toNat * 2 ^ 9) 4 2 = 0 := (below (by decide)).trans ((below (by decide)).trans ((below (by decide)).trans h3))
  have c4 : fld (m + a.toNat * 2 ^ 19 + b.toNat * 2 ^ 14 + c.toNat * 2 ^ 9 + d.toNat * 2 ^ 4) 30 1 = 0 := (above c3 d.isLt (by decide)).trans ((above c2 c.isLt (by decide)).trans ((above c1 b.isLt (by decide)).trans ((above c0 a.isLt (by decide)).trans h4)))
  refine ⟨(above c4 hs (by decide)).trans ((above c3 d.isLt (by decide)).trans ((above c2 c.isLt (by decide)).trans ((above c1 b.isLt (by decide)).trans (above c0 a.isLt (by decide))))),
    (below (by decide)).trans ((above c3 d.isLt (by decide)).trans ((above c2 c.isLt (by decide)).trans ((above c1 b.isLt (by decide)).trans (above c0 a.isLt (by decide))))),
    (below (by decide)).trans ((below (by decide)).trans ((below (by decide)).trans ((below (by decide)).trans (below (by decide))))),
    (below (by decide)).trans ((above c3 d.isLt (by decide)).trans ((below (by decide)).trans ((below (by decide)).trans (below (by decide))))),
    bits_eq ((below (by decide)).trans ((above c3 d.isLt (by decide)).trans ((above c2 c.isLt (by decide)).trans ((above c1 b.isLt (by decide)).trans (there c0 a.isLt))))),
    bits_eq ((below (by decide)).trans ((above c3 d.isLt (by decide)).trans ((above c2 c.isLt (by decide)).trans (there c1 b.isLt)))),
    bits_eq ((below (by decide)).trans ((above c3 d.isLt (by decide)).trans (there c2 c.isLt))),
    bits_eq ((below (by decide)).trans (there c3 d.isLt))⟩

theorem lay_19w5_4w4 {m s w : Nat} {a : BitVec 5} {b : BitVec 4} (hw : w = lay2 m a.toNat 19 b.toNat 4 + s * 2 ^ 30) (hs : s < 2)
    (h0 : fld m 19 5 = 0) (h1 : fld m 4 4 = 0) (h2 : fld m 30 1 = 0) :
    fld w 31 1 = fld m 31 1 ∧ fld w 24 6 = fld m 24 6 ∧ fld w 0 4 = fld m 0 4 ∧ fld w 8 11 = fld m 8 11 ∧ bitsOf w 19 5 = a ∧ bitsOf w 4 4 = b := by
  subst hw
  have c0 : fld m 19 5 = 0 := h0
  have c1 : fld (m + a.toNat * 2 ^ 19) 4 4 = 0 := (below (by decide)).trans h1
  have c2 : fld (m + a.toNat * 2 ^ 19 + b.toNat * 2 ^ 4) 30 1 = 0 := (above c1 b.isLt (by decide)).trans ((above c0 a.isLt (by decide)).trans h2)
  refine ⟨(above c2 hs (by decide)).trans ((above c1 b.isLt (by decide)).trans (above c0 a.isLt (by decide))),
    (below (by decide)).trans ((above c1 b.isLt (by decide)).trans (above c0 a.isLt (by decide))),
    (below (by decide)).trans ((below (by decide)).trans (below (by decide))),
    (below (by decide)).trans ((above c1 b.isLt (by decide)).trans (below (by decide))),
    bits_eq ((below (by decide)).trans ((above c1 b.isLt (by decide)).trans (there c0 a.isLt))),
    bits_eq ((below (by decide)).trans (there c1 b.isLt))⟩

theorem lay_19w5_14w5_4w5 {m s w : Nat} {a : BitVec 5} {b : BitVec 5} {c : BitVec 5} (hw : w = lay3 m a.toNat 19 b.toNat 14 c.toNat 4 + s * 2 ^ 30) (hs : s < 2)
    (h0 : fld m 19 5 = 0) (h1 : fld m 14 5 = 0) (h2 : fld m 4 5 = 0) (h3 : fld m 30 1 = 0) :
    fld w 31 1 = fld m 31 1 ∧ fld w 24 6 = fld m 24 6 ∧ fld w 0 4 = fld m 0 4 ∧ fld w 9 5 = fld m 9 5 ∧ bitsOf w 19 5 = a ∧ bitsOf w 14 5 = b ∧ bitsOf w 4 5 = c ∧ fld w 4 5 = c.toNat := by
  subst hw
  have c0 : fld m 19 5 = 0 := h0
  have c1 : fld (m + a.toNat * 2 ^ 19) 14 5 = 0 := (below (by decide)).trans h1
  have c2 : fld (m + a.toNat * 2 ^ 19 + b.toNat * 2 ^ 14) 4 5 = 0 := (below (by decide)).trans ((below (by decide)).trans h2)
  have c3 : fld (m + a.toNat * 2 ^ 19 + b.toNat * 2 ^ 14 + c.toNat * 2 ^ 4) 30 1 = 0 := (above c2 c.isLt (by decide)).trans ((above c1 b.isLt (by decide)).trans ((above c0 a.isLt (by decide)).trans h3))
  refine ⟨(above c3 hs (by decide)).trans ((above c2 c.isLt (by decide)).trans ((above c1 b.isLt (by decide)).trans (above c0 a.isLt (by decide)))),
    (below (by decide)).trans ((above c2 c.isLt (by decide)).trans ((above c1 b.isLt (by decide)).trans (above c0 a.isLt (by decide)))),
    (below (by decide)).trans ((below (by decide)).trans ((below (by decide)).trans (below (by decide)))),
    (below (by decide)).trans ((above c2 c.isLt (by decide)).trans ((below (by decide)).trans (below (by decide)))),
    bits_eq ((below (by decide)).trans ((above c2 c.isLt (by decide)).trans ((above c1 b.isLt (by decide)).trans (there c0 a.isLt)))),
    bits_eq ((below (by decide)).trans ((above c2 c.isLt (by decide)).trans (there c1 b.isLt))),
    bits_eq ((below (by decide)).trans (there c2 c.isLt)),
    (below (by decide)).trans (there c2 c.isLt)⟩

theorem lay_19w5_4w5 {m s w : Nat} {a : BitVec 5} {b : BitVec 5} (hw : w = lay2 m a.toNat 19 b.toNat 4 + s * 2 ^ 30) (hs : s < 2)
    (h0 : fld m 19 5 = 0) (h1 : fld m 4 5 = 0) (h2 : fld m 30 1 = 0) :
    fld w 31 1 = fld m 31 1 ∧ fld w 24 6 = fld m 24 6 ∧ fld w 0 4 = fld m 0 4 ∧ fld w 14 5 = fld m 14 5 ∧ fld w 9 5 = fld m 9 5 ∧ bitsOf w 19 5 = a ∧ bitsOf w 4 5 = b ∧ bitsOf w 14 5 = BitVec.ofNat 5 (fld m 14 5) ∧ bitsOf w 9 5 = BitVec.ofNat 5 (fld m 9 5) := by
  subst hw
  have c0 : fld m 19 5 = 0 := h0
  have c1 : fld (m + a.toNat * 2 ^ 19) 4 5 = 0 := (below (by decide)).trans h1
  have c2 : fld (m + a.toNat * 2 ^ 19 + b.toNat * 2 ^ 4) 30 1 = 0 := (above c1 b.isLt (by decide)).trans ((above c0 a.isLt (by decide)).trans h2)
  refine ⟨(above c2 hs (by decide)).trans ((above c1 b.isLt (by decide)).trans (above c0 a.isLt (by decide))),
    (below (by decide)).trans ((above c1 b.isLt (by decide)).trans (above c0 a.isLt (by decide))),
    (below (by decide)).trans ((below (by decide)).trans (below (by decide))),
    (below (by decide)).trans ((above c1 b.isLt (by decide)).trans (below (by decide))),
    (below (by decide)).trans ((above c1 b.isLt (by decide)).trans (below (by decide))),
    bits_eq ((below (by decide)).trans ((above c1 b.isLt (by decide)).trans (there c0 a.isLt))),
    bits_eq ((below (by decide)).trans (there c1 b.isLt)),
    bits_eq (((below (by decide)).trans ((above c1 b.isLt (by decide)).trans (below (by decide)))).trans (by rw [fld, BitVec.toNat_ofNat, Nat.mod_mod])),
    bits_eq (((below (by decide)).trans ((above c1 b.isLt (by decide)).trans (below (by decide)))).trans (by rw [fld, BitVec.toNat_ofNat, Nat.mod_mod]))⟩

theorem lay_14w5_9w5 {m s w : Nat} {a : BitVec 5} {b : BitVec 5} (hw : w = lay2 m a.toNat 14 b.toNat 9 + s * 2 ^ 30) (hs : s < 2)
    (h0 : fld m 14 5 = 0) (h1 : fld m 9 5 = 0) (h2 : fld m 30 1 = 0) :
    fld w 31 1 = fld m 31 1 ∧ fld w 24 6 = fld m 24 6 ∧ fld w 0 4 = fld m 0 4 ∧ fld w 4 5 = fld m 4 5 ∧ fld w 19 5 = fld m 19 5 ∧ bitsOf w 14 5 = a ∧ bitsOf w 9 5 = b := by
  subst hw
  have c0 : fld m 14 5 = 0 := h0
  have c1 : fld (m + a.toNat * 2 ^ 14) 9 5 = 0 := (below (by decide)).trans h1
  have c2 : fld (m + a.toNat * 2 ^ 14 + b.toNat * 2 ^ 9) 30 1 = 0 := (above c1 b.isLt (by decide)).trans ((above c0 a.isLt (by decide)).trans h2)
  refine ⟨(above c2 hs (by decide)).trans ((above c1 b.isLt (by decide)).trans (above c0 a.isLt (by decide))),
    (below (by decide)).trans ((above c1 b.isLt (by decide)).trans (above c0 a.isLt (by decide))),
    (below (by decide)).trans ((below (by decide)).trans (below (by decide))),
    (below (by decide)).trans ((below (by decide)).trans (below (by decide))),
    (below (by decide)).trans ((above c1 b.isLt (by decide)).trans (above c0 a.isLt (by decide))),
    bits_eq ((below (by decide)).trans ((above c1 b.isLt (by decide)).trans (there c0 a.isLt))),
    bits_eq ((below (by decide)).trans (there c1 b.isLt))⟩

theorem lay_19w5_14w5_9w5_0w9 {m s w : Nat} {a : BitVec 5} {b : BitVec 5} {c : BitVec 5} {d : BitVec 9} (hw : w = lay4 m a.toNat 19 b.toNat 14 c.toNat 9 d.toNat 0 + s * 2 ^ 30) (hs : s < 2)
    (h0 : fld m 19 5 = 0) (h1 : fld m 14 5 = 0) (h2 : fld m 9 5 = 0) (h3 : fld m 0 9 = 0) (h4 : fld m 30 1 = 0) :
    fld w 31 1 = fld m 31 1 ∧ fld w 24 6 = fld m 24 6 ∧ bitsOf w 19 5 = a ∧ bitsOf w 14 5 = b ∧ bitsOf w 9 5 = c ∧ bitsOf w 0 9 = d := by
  subst hw
  have c0 : fld m 19 5 = 0 := h0
  have c1 : fld (m + a.toNat * 2 ^ 19) 14 5 = 0 := (below (by decide)).trans h1
  have c2 : fld (m + a.toNat * 2 ^ 19 + b.toNat * 2 ^ 14) 9 5 = 0 := (below (by decide)).trans ((below (by decide)).trans h2)
  have c3 : fld (m + a.toNat * 2 ^ 19 + b.toNat * 2 ^ 14 + c.toNat * 2 ^ 9) 0 9 = 0 := (below (by decide)).trans ((below (by decide)).trans ((below (by decide)).trans h3))
  have c4 : fld (m + a.toNat * 2 ^ 19 + b.toNat * 2 ^ 14 + c.toNat * 2 ^ 9 + d.toNat * 2 ^ 0) 30 1 = 0 := (above c3 d.isLt (by decide)).trans ((above c2 c.isLt (by decide)).trans ((above c1 b.isLt (by decide)).trans ((above c0 a.isLt (by decide)).trans h4)))
  refine ⟨(above c4 hs (by decide)).trans ((above c3 d.isLt (by decide)).trans ((above c2 c.isLt (by decide)).trans ((above c1 b.isLt (by decide)).trans (above c0 a.isLt (by decide))))),
    (below (by decide)).trans ((above c3 d.isLt (by decide)).trans ((above c2 c.isLt (by decide)).trans ((above c1 b.isLt (by decide)).trans (above c0 a.isLt (by decide))))),
    bits_eq ((below (by decide)).trans ((above c3 d.isLt (by decide)).trans ((above c2 c.isLt (by decide)).trans ((above c1 b.isLt (by decide)).trans (there c0 a.isLt))))),
    bits_eq ((below (by decide)).trans ((above c3 d.isLt (by decide)).trans ((above c2 c.isLt (by decide)).trans (there c1 b.isLt)))),
    bits_eq ((below (by decide)).trans ((above c3 d.isLt (by decide)).trans (there c2 c.isLt))),
    bits_eq ((below (by decide)).trans (there c3 d.isLt))⟩

theorem lay_14w5_4w5 {m s w : Nat} {a : BitVec 5} {b : BitVec 5} (hw : w = lay2 m a.toNat 14 b.toNat 4 + s * 2 ^ 30) (hs : s < 2)
    (h0 : fld m 14 5 = 0) (h1 : fld m 4 5 = 0) (h2 : fld m 30 1 = 0) :
    fld w 31 1 = fld m 31 1 ∧ fld w 24 6 = fld m 24 6 ∧ fld w 0 4 = fld m 0 4 ∧ fld w 9 5 = fld m 9 5 ∧ fld w 19 5 = fld m 19 5 ∧ bitsOf w 14 5 = a ∧ bitsOf w 4 5 = b := by
  subst hw
  have c0 : fld m 14 5 = 0 := h0
  have c1 : fld (m + a.toNat * 2 ^ 14) 4 5 = 0 := (below (by decide)).trans h1
  have c2 : fld (m + a.toNat * 2 ^ 14 + b.toNat * 2 ^ 4) 30 1 = 0 := (above c1 b.isLt (by decide)).trans ((above c0 a.isLt (by decide)).trans h2)
  refine ⟨(above c2 hs (by decide)).trans ((above c1 b.isLt (by decide)).trans (above c0 a.isLt (by decide))),
    (below (by decide)).trans ((above c1 b.isLt (by decide)).trans (above c0 a.isLt (by decide))),
    (below (by decide)).trans ((below (by decide)).trans (below (by decide))),
    (below (by decide)).trans ((above c1 b.isLt (by decide)).trans (below (by decide))),
    (below (by decide)).trans ((above c1 b.isLt (by decide)).trans (above c0 a.isLt (by decide))),
    bits_eq ((below (by decide)).trans ((above c1 b.isLt (by decide)).trans (there c0 a.isLt))),
    bits_eq ((below (by decide)).trans (there c1 b.isLt))⟩

theorem lay_24w2_0w24 {m s w : Nat} {a : BitVec 2} {b : BitVec 24} (hw : w = lay2 m a.toNat 24 b.toNat 0 + s * 2 ^ 30) (hs : s < 2)
    (h0 : fld m 24 2 = 0) (h1 : fld m 0 24 = 0) (h2 : fld m 30 1 = 0) :
    fld w 31 1 = fld m 31 1 ∧ fld w 24 6 = fld m 24 6 + a.toNat ∧ bitsOf w 24 2 = a ∧ bitsOf w 0 24 = b := by
  subst hw
  have := a.isLt
  have := b.isLt
  have c0 : fld m 24 2 = 0 := h0
  have c1 : fld (m + a.toNat * 2 ^ 24) 0 24 = 0 := (below (by decide)).trans h1
  have c2 : fld (m + a.toNat * 2 ^ 24 + b.toNat * 2 ^ 0) 30 1 = 0 := (above c1 b.isLt (by decide)).trans ((above c0 a.isLt (by decide)).trans h2)
  refine ⟨(above c2 hs (by decide)).trans ((above c1 b.isLt (by decide)).trans (above c0 a.isLt (by decide))),
    by simp only [fld, lay2] at *; omega,
    bits_eq ((below (by decide)).trans ((above c1 b.isLt (by decide)).trans (there c0 a.isLt))),
    bits_eq ((below (by decide)).trans (there c1 b.isLt))⟩

theorem lay_23w3_0w23 {m s w : Nat} {a : BitVec 3} {b : BitVec 23} (hw : w = lay2 m a.toNat 23 b.toNat 0 + s * 2 ^ 30) (hs : s < 2)
    (h0 : fld m 23 3 = 0) (h1 : fld m 0 23 = 0) (h2 : fld m 30 1 = 0) :
    fld w 31 1 = fld m 31 1 ∧ fld w 23 7 = fld m 23 7 + a.toNat ∧ bitsOf w 23 3 = a ∧ bitsOf w 0 23 = b := by
  subst hw
  have := a.isLt
  have := b.isLt
  have c0 : fld m 23 3 = 0 := h0
  have c1 : fld (m + a.toNat * 2 ^ 23) 0 23 = 0 := (below (by decide)).trans h1
  have c2 : fld (m + a.toNat * 2 ^ 23 + b.toNat * 2 ^ 0) 30 1 = 0 := (above c1 b.isLt (by decide)).trans ((above c0 a.isLt (by decide)).trans h2)
  refine ⟨(above c2 hs (by decide)).trans ((above c1 b.isLt (by decide)).trans (above c0 a.isLt (by decide))),
    by simp only [fld, lay2] at *; omega,
    bits_eq ((below (by decide)).trans ((above c1 b.isLt (by decide)).trans (there c0 a.isLt))),
    bits_eq ((below (by decide)).trans (there c1 b.isLt))⟩

theorem lay_16w7_9w7_2w7_0w2 {m s w : Nat} {a : BitVec 7} {b : BitVec 7} {c : BitVec 7} {d : BitVec 2} (hw : w = lay4 m a.toNat 16 b.toNat 9 c.toNat 2 d.toNat 0 + s * 2 ^ 30) (hs : s < 2)
    (h0 : fld m 16 7 = 0) (h1 : fld m 9 7 = 0) (h2 : fld m 2 7 = 0) (h3 : fld m 0 2 = 0) (h4 : fld m 30 1 = 0) :
    fld w 31 1 = fld m 31 1 ∧ fld w 23 7 = fld m 23 7 ∧ bitsOf w 16 7 = a ∧ bitsOf w 9 7 = b ∧ bitsOf w 2 7 = c ∧ bitsOf w 0 2 = d := by
  subst hw
  have c0 : fld m 16 7 = 0 := h0
  have c1 : fld (m + a.toNat * 2 ^ 16) 9 7 = 0 := (below (by decide)).trans h1
  have c2 : fld (m + a.toNat * 2 ^ 16 + b.toNat * 2 ^ 9) 2 7 = 0 := (below (by decide)).trans ((below (by decide)).trans h2)
  have c3 : fld (m + a.toNat * 2 ^ 16 + b.toNat * 2 ^ 9 + c.toNat * 2 ^ 2) 0 2 = 0 := (below (by decide)).trans ((below (by decide)).trans ((below (by decide)).trans h3))
  have c4 : fld (m + a.toNat * 2 ^ 16 + b.toNat * 2 ^ 9 + c.toNat * 2 ^ 2 + d.toNat * 2 ^ 0) 30 1 = 0 := (above c3 d.isLt (by decide)).trans ((above c2 c.isLt (by decide)).trans ((above c1 b.isLt (by decide)).trans ((above c0 a.isLt (by decide)).trans h4)))
  refine ⟨(above c4 hs (by decide)).trans ((above c3 d.isLt (by decide)).trans ((above c2 c.isLt (by decide)).trans ((above c1 b.isLt (by decide)).trans (above c0 a.isLt (by decide))))),
    (below (by decide)).trans ((above c3 d.isLt (by decide)).trans ((above c2 c.isLt (by decide)).trans ((above c1 b.isLt (by decide)).trans (above c0 a.isLt (by decide))))),
    bits_eq ((below (by decide)).trans ((above c3 d.isLt (by decide)).trans ((above c2 c.isLt (by decide)).trans ((above c1 b.isLt (by decide)).trans (there c0 a.isLt))))),
    bits_eq ((below (by decide)).trans ((above c3 d.isLt (by decide)).trans ((above c2 c.isLt (by decide)).trans (there c1 b.isLt)))),
    bits_eq ((below (by decide)).trans ((above c3 d.isLt (by decide)).trans (there c2 c.isLt))),
    bits_eq ((below (by decide)).trans (there c3 d.isLt))⟩

theorem lay_16w7_9w7_2w5_0w2 {m s w : Nat} {a : BitVec 7} {b : BitVec 7} {c : BitVec 5} {d : BitVec 2} (hw : w = lay4 m a.toNat 16 b.toNat 9 c.toNat 2 d.toNat 0 + s * 2 ^ 30) (hs : s < 2)
    (h0 : fld m 16 7 = 0) (h1 : fld m 9 7 = 0) (h2 : fld m 2 5 = 0) (h3 : fld m 0 2 = 0) (h4 : fld m 30 1 = 0) :
    fld w 31 1 = fld m 31 1 ∧ fld w 23 7 = fld m 23 7 ∧ fld w 7 2 = fld m 7 2 ∧ bitsOf w 16 7 = a ∧ bitsOf w 9 7 = b ∧ bitsOf w 2 5 = c ∧ bitsOf w 0 2 = d := by
  subst hw
  have c0 : fld m 16 7 = 0 := h0
  have c1 : fld (m + a.toNat * 2 ^ 16) 9 7 = 0 := (below (by decide)).trans h1
  have c2 : fld (m + a.toNat * 2 ^ 16 + b.toNat * 2 ^ 9) 2 5 = 0 := (below (by decide)).trans ((below (by decide)).trans h2)
  have c3 : fld (m + a.toNat * 2 ^ 16 + b.toNat * 2 ^ 9 + c.toNat * 2 ^ 2) 0 2 = 0 := (below (by decide)).trans ((below (by decide)).trans ((below (by decide)).trans h3))
  have c4 : fld (m + a.toNat * 2 ^ 16 + b.toNat * 2 ^ 9 + c.toNat * 2 ^ 2 + d.toNat * 2 ^ 0) 30 1 = 0 := (above c3 d.isLt (by decide)).trans ((above c2 c.isLt (by decide)).trans ((above c1 b.isLt (by decide)).trans ((above c0 a.isLt (by decide)).trans h4)))
  refine ⟨(above c4 hs (by decide)).trans ((above c3 d.isLt (by decide)).trans ((above c2 c.isLt (by decide)).trans ((above c1 b.isLt (by decide)).trans (above c0 a.isLt (by decide))))),
    (below (by decide)).trans ((above c3 d.isLt (by decide)).trans ((above c2 c.isLt (by decide)).trans ((above c1 b.isLt (by decide)).trans (above c0 a.isLt (by decide))))),
    (below (by decide)).trans ((above c3 d.isLt (by decide)).trans ((above c2 c.isLt (by decide)).trans ((below (by decide)).trans (below (by decide))))),
    bits_eq ((below (by decide)).trans ((above c3 d.isLt (by decide)).trans ((above c2 c.isLt (by decide)).trans ((above c1 b.isLt (by decide)).trans (there c0 a.isLt))))),
    bits_eq ((below (by decide)).trans ((above c3 d.isLt (by decide)).trans ((above c2 c.isLt (by decide)).trans (there c1 b.isLt)))),
    bits_eq ((below (by decide)).trans ((above c3 d.isLt (by decide)).trans (there c2 c.isLt))),
    bits_eq ((below (by decide)).trans (there c3 d.isLt))⟩

theorem lay_16w7_9w7_0w2 {m s w : Nat} {a : BitVec 7} {b : BitVec 7} {c : BitVec 2} (hw : w = lay3 m a.toNat 16 b.toNat 9 c.toNat 0 + s * 2 ^ 30) (hs : s < 2)
    (h0 : fld m 16 7 = 0) (h1 : fld m 9 7 = 0) (h2 : fld m 0 2 = 0) (h3 : fld m 30 1 = 0) :
    fld w 31 1 = fld m 31 1 ∧ fld w 23 7 = fld m 23 7 ∧ fld w 2 7 = fld m 2 7 ∧ bitsOf w 16 7 = a ∧ bitsOf w 9 7 = b ∧ bitsOf w 0 2 = c := by
  subst hw
  have c0 : fld m 16 7 = 0 := h0
  have c1 : fld (m + a.toNat * 2 ^ 16) 9 7 = 0 := (below (by decide)).trans h1
  have c2 : fld (m + a.toNat * 2 ^ 16 + b.toNat * 2 ^ 9) 0 2 = 0 := (below (by decide)).trans ((below (by decide)).trans h2)
  have c3 : fld (m + a.toNat * 2 ^ 16 + b.toNat * 2 ^ 9 + c.toNat * 2 ^ 0) 30 1 = 0 := (above c2 c.isLt (by decide)).trans ((above c1 b.isLt (by decide)).trans ((above c0 a.isLt (by decide)).trans h3))
  refine ⟨(above c3 hs (by decide)).trans ((above c2 c.isLt (by decide)).trans ((above c1 b.isLt (by decide)).trans (above c0 a.isLt (by decide)))),
    (below (by decide)).trans ((above c2 c.isLt (by decide)).trans ((above c1 b.isLt (by decide)).trans (above c0 a.isLt (by decide)))),
    (below (by decide)).trans ((above c2 c.isLt (by decide)).trans ((below (by decide)).trans (below (by decide)))),
    bits_eq ((below (by decide)).trans ((above c2 c.isLt (by decide)).trans ((above c1 b.isLt (by decide)).trans (there c0 a.isLt)))),
    bits_eq ((below (by decide)).trans ((above c2 c.isLt (by decide)).trans (there c1 b.isLt))),
    bits_eq ((below (by decide)).trans (there c2 c.isLt))⟩

theorem lay_16w7_9w7_2w1_0w2 {m s w : Nat} {a : BitVec 7} {b : BitVec 7} {c : BitVec 1} {d : BitVec 2} (hw : w = lay4 m a.toNat 16 b.toNat 9 c.toNat 2 d.toNat 0 + s * 2 ^ 30) (hs : s < 2)
    (h0 : fld m 16 7 = 0) (h1 : fld m 9 7 = 0) (h2 : fld m 2 1 = 0) (h3 : fld m 0 2 = 0) (h4 : fld m 30 1 = 0) :
    fld w 31 1 = fld m 31 1 ∧ fld w 23 7 = fld m 23 7 ∧ fld w 2 7 = fld m 2 7 + c.toNat ∧ bitsOf w 16 7 = a ∧ bitsOf w 9 7 = b ∧ bitsOf w 2 1 = c ∧ bitsOf w 0 2 = d := by
  subst hw
  have := a.isLt
  have := b.isLt
  have := c.isLt
  have := d.isLt
  have c0 : fld m 16 7 = 0 := h0
  have c1 : fld (m + a.toNat * 2 ^ 16) 9 7 = 0 := (below (by decide)).trans h1
  have c2 : fld (m + a.toNat * 2 ^ 16 + b.toNat * 2 ^ 9) 2 1 = 0 := (below (by decide)).trans ((below (by decide)).trans h2)
  have c3 : fld (m + a.toNat * 2 ^ 16 + b.toNat * 2 ^ 9 + c.toNat * 2 ^ 2) 0 2 = 0 := (below (by decide)).trans ((below (by decide)).trans ((below (by decide)).trans h3))
  have c4 : fld (m + a.toNat * 2 ^ 16 + b.toNat * 2 ^ 9 + c.toNat * 2 ^ 2 + d.toNat * 2 ^ 0) 30 1 = 0 := (above c3 d.isLt (by decide)).trans ((above c2 c.isLt (by decide)).trans ((above c1 b.isLt (by decide)).trans ((above c0 a.isLt (by decide)).trans h4)))
  refine ⟨(above c4 hs (by decide)).trans ((above c3 d.isLt (by decide)).trans ((above c2 c.isLt (by decide)).trans ((above c1 b.isLt (by decide)).trans (above c0 a.isLt (by decide))))),
    (below (by decide)).trans ((above c3 d.isLt (by decide)).trans ((above c2 c.isLt (by decide)).trans ((above c1 b.isLt (by decide)).trans (above c0 a.isLt (by decide))))),
    by simp only [fld, lay4] at *; omega,
    bits_eq ((below (by decide)).trans ((above c3 d.isLt (by decide)).trans ((above c2 c.isLt (by decide)).trans ((above c1 b.isLt (by decide)).trans (there c0 a.isLt))))),
    bits_eq ((below (by decide)).trans ((above c3 d.isLt (by decide)).trans ((above c2 c.isLt (by decide)).trans (there c1 b.isLt)))),
    bits_eq ((below (by decide)).trans ((above c3 d.isLt (by decide)).trans (there c2 c.isLt))),
    bits_eq ((below (by decide)).trans (there c3 d.isLt))⟩

theorem lay_16w7_9w7_2w2_0w2 {m s w : Nat} {a : BitVec 7} {b : BitVec 7} {c : BitVec 2} {d : BitVec 2} (hw : w = lay4 m a.toNat 16 b.toNat 9 c.toNat 2 d.toNat 0 + s * 2 ^ 30) (hs : s < 2)
    (h0 : fld m 16 7 = 0) (h1 : fld m 9 7 = 0) (h2 : fld m 2 2 = 0) (h3 : fld m 0 2 = 0) (h4 : fld m 30 1 = 0) :
    fld w 31 1 = fld m 31 1 ∧ fld w 23 7 = fld m 23 7 ∧ fld w 2 7 = fld m 2 7 + c.toNat ∧ bitsOf w 16 7 = a ∧ bitsOf w 9 7 = b ∧ bitsOf w 2 2 = c ∧ bitsOf w 0 2 = d := by
  subst hw
  have := a.isLt
  have := b.isLt
  have := c.isLt
  have := d.isLt
  have c0 : fld m 16 7 = 0 := h0
  have c1 : fld (m + a.toNat * 2 ^ 16) 9 7 = 0 := (below (by decide)).trans h1
  have c2 : fld (m + a.toNat * 2 ^ 16 + b.toNat * 2 ^ 9) 2 2 = 0 := (below (by decide)).trans ((below (by decide)).trans h2)
  have c3 : fld (m + a.toNat * 2 ^ 16 + b.toNat * 2 ^ 9 + c.toNat * 2 ^ 2) 0 2 = 0 := (below (by decide)).trans ((below (by decide)).trans ((below (by decide)).trans h3))
  have c4 : fld (m + a.toNat * 2 ^ 16 + b.toNat * 2 ^ 9 + c.toNat * 2 ^ 2 + d.toNat * 2 ^ 0) 30 1 = 0 := (above c3 d.isLt (by decide)).trans ((above c2 c.isLt (by decide)).trans ((above c1 b.isLt (by decide)).trans ((above c0 a.isLt (by decide)).trans h4)))
  refine ⟨(above c4 hs (by decide)).trans ((above c3 d.isLt (by decide)).trans ((above c2 c.isLt (by decide)).trans ((above c1 b.isLt (by decide)).trans (above c0 a.isLt (by decide))))),
    (below (by decide)).trans ((above c3 d.isLt (by decide)).trans ((above c2 c.isLt (by decide)).trans ((above c1 b.isLt (by decide)).trans (above c0 a.isLt (by decide))))),
    by simp only [fld, lay4] at *; omega,
    bits_eq ((below (by decide)).trans ((above c3 d.isLt (by decide)).trans ((above c2 c.isLt (by decide)).trans ((above c1 b.isLt (by decide)).trans (there c0 a.isLt))))),
    bits_eq ((below (by decide)).trans ((above c3 d.isLt (by decide)).trans ((above c2 c.isLt (by decide)).trans (there c1 b.isLt)))),
    bits_eq ((below (by decide)).trans ((above c3 d.isLt (by decide)).trans (there c2 c.isLt))),
    bits_eq ((below (by decide)).trans (there c3 d.isLt))⟩

theorem lay_16w7_9w7_2w4_0w2 {m s w : Nat} {a : BitVec 7} {b : BitVec 7} {c : BitVec 4} {d : BitVec 2} (hw : w = lay4 m a.toNat 16 b.toNat 9 c.toNat 2 d.toNat 0 + s * 2 ^ 30) (hs : s < 2)
    (h0 : fld m 16 7 = 0) (h1 : fld m 9 7 = 0) (h2 : fld m 2 4 = 0) (h3 : fld m 0 2 = 0) (h4 : fld m 30 1 = 0) :
    fld w 31 1 = fld m 31 1 ∧ fld w 23 7 = fld m 23 7 ∧ fld w 6 3 = fld m 6 3 ∧ bitsOf w 16 7 = a ∧ bitsOf w 9 7 = b ∧ bitsOf w 2 4 = c ∧ bitsOf w 0 2 = d := by
  subst hw
  have c0 : fld m 16 7 = 0 := h0
  have c1 : fld (m + a.toNat * 2 ^ 16) 9 7 = 0 := (below (by decide)).trans h1
  have c2 : fld (m + a.toNat * 2 ^ 16 + b.toNat * 2 ^ 9) 2 4 = 0 := (below (by decide)).trans ((below (by decide)).trans h2)
  have c3 : fld (m + a.toNat * 2 ^ 16 + b.toNat * 2 ^ 9 + c.toNat * 2 ^ 2) 0 2 = 0 := (below (by decide)).trans ((below (by decide)).trans ((below (by decide)).trans h3))
  have c4 : fld (m + a.toNat * 2 ^ 16 + b.toNat * 2 ^ 9 + c.toNat * 2 ^ 2 + d.toNat * 2 ^ 0) 30 1 = 0 := (above c3 d.isLt (by decide)).trans ((above c2 c.isLt (by decide)).trans ((above c1 b.isLt (by decide)).trans ((above c0 a.isLt (by decide)).trans h4)))
  refine ⟨(above c4 hs (by decide)).trans ((above c3 d.isLt (by decide)).trans ((above c2 c.isLt (by decide)).trans ((above c1 b.isLt (by decide)).trans (above c0 a.isLt (by decide))))),
    (below (by decide)).trans ((above c3 d.isLt (by decide)).trans ((above c2 c.isLt (by decide)).trans ((above c1 b.isLt (by decide)).trans (above c0 a.isLt (by decide))))),
    (below (by decide)).trans ((above c3 d.isLt (by decide)).trans ((above c2 c.isLt (by decide)).trans ((below (by decide)).trans (below (by decide))))),
    bits_eq ((below (by decide)).trans ((above c3 d.isLt (by decide)).trans ((above c2 c.isLt (by decide)).trans ((above c1 b.isLt (by decide)).trans (there c0 a.isLt))))),
    bits_eq ((below (by decide)).trans ((above c3 d.isLt (by decide)).trans ((above c2 c.isLt (by decide)).trans (there c1 b.isLt)))),
    bits_eq ((below (by decide)).trans ((above c3 d.isLt (by decide)).trans (there c2 c.isLt))),
    bits_eq ((below (by decide)).trans (there c3 d.isLt))⟩

theorem lay_16w7_9w7_2w7 {m s w : Nat} {a : BitVec 7} {b : BitVec 7} {c : BitVec 7} (hw : w = lay3 m a.toNat 16 b.toNat 9 c.toNat 2 + s * 2 ^ 30) (hs : s < 2)
    (h0 : fld m 16 7 = 0) (h1 : fld m 9 7 = 0) (h2 : fld m 2 7 = 0) (h3 : fld m 30 1 = 0) :
    fld w 31 1 = fld m 31 1 ∧ fld w 23 7 = fld m 23 7 ∧ fld w 0 2 = fld m 0 2 ∧ bitsOf w 16 7 = a ∧ bitsOf w 9 7 = b ∧ bitsOf w 2 7 = c := by
  subst hw
  have c0 : fld m 16 7 = 0 := h0
  have c1 : fld (m + a.toNat * 2 ^ 16) 9 7 = 0 := (below (by decide)).trans h1
  have c2 : fld (m + a.toNat * 2 ^ 16 + b.toNat * 2 ^ 9) 2 7 = 0 := (below (by decide)).trans ((below (by decide)).trans h2)
  have c3 : fld (m + a.toNat * 2 ^ 16 + b.toNat * 2 ^ 9 + c.toNat * 2 ^ 2) 30 1 = 0 := (above c2 c.isLt (by decide)).trans ((above c1 b.isLt (by decide)).trans ((above c0 a.isLt (by decide)).trans h3))
  refine ⟨(above c3 hs (by decide)).trans ((above c2 c.isLt (by decide)).trans ((above c1 b.isLt (by decide)).trans (above c0 a.isLt (by decide)))),
    (below (by decide)).trans ((above c2 c.isLt (by decide)).trans ((above c1 b.isLt (by decide)).trans (above c0 a.isLt (by decide)))),
    (below (by decide)).trans ((below (by decide)).trans ((below (by decide)).trans (below (by decide)))),
    bits_eq ((below (by decide)).trans ((above c2 c.isLt (by decide)).trans ((above c1 b.isLt (by decide)).trans (there c0 a.isLt)))),
    bits_eq ((below (by decide)).trans ((above c2 c.isLt (by decide)).trans (there c1 b.isLt))),
    bits_eq ((below (by decide)).trans (there c2 c.isLt))⟩

theorem lay_16w7_9w7 {m s w : Nat} {a : BitVec 7} {b : BitVec 7} (hw : w = lay2 m a.toNat 16 b.toNat 9 + s * 2 ^ 30) (hs : s < 2)
    (h0 : fld m 16 7 = 0) (h1 : fld m 9 7 = 0) (h2 : fld m 30 1 = 0) :
    fld w 31 1 = fld m 31 1 ∧ fld w 23 7 = fld m 23 7 ∧ fld w 0 9 = fld m 0 9 ∧ bitsOf w 16 7 = a ∧ bitsOf w 9 7 = b := by
  subst hw
  have c0 : fld m 16 7 = 0 := h0
  have c1 : fld (m + a.toNat * 2 ^ 16) 9 7 = 0 := (below (by decide)).trans h1
  have c2 : fld (m + a.toNat * 2 ^ 16 + b.toNat * 2 ^ 9) 30 1 = 0 := (above c1 b.isLt (by decide)).trans ((above c0 a.isLt (by decide)).trans h2)
  refine ⟨(above c2 hs (by decide)).trans ((above c1 b.isLt (by decide)).trans (above c0 a.isLt (by decide))),
    (below (by decide)).trans ((above c1 b.isLt (by decide)).trans (above c0 a.isLt (by decide))),
    (below (by decide)).trans ((below (by decide)).trans (below (by decide))),
    bits_eq ((below (by decide)).trans ((above c1 b.isLt (by decide)).trans (there c0 a.isLt))),
    bits_eq ((below (by decide)).trans (there c1 b.isLt))⟩

theorem lay_16w7_2w7_0w2 {m s w : Nat} {a : BitVec 7} {b : BitVec 7} {c : BitVec 2} (hw : w = lay3 m a.toNat 16 b.toNat 2 c.toNat 0 + s * 2 ^ 30) (hs : s < 2)
    (h0 : fld m 16 7 = 0) (h1 : fld m 2 7 = 0) (h2 : fld m 0 2 = 0) (h3 : fld m 30 1 = 0) :
    fld w 31 1 = fld m 31 1 ∧ fld w 23 7 = fld m 23 7 ∧ fld w 9 7 = fld m 9 7 ∧ bitsOf w 16 7 = a ∧ bitsOf w 2 7 = b ∧ bitsOf w 0 2 = c := by
  subst hw
  have c0 : fld m 16 7 = 0 := h0
  have c1 : fld (m + a.toNat * 2 ^ 16) 2 7 = 0 := (below (by decide)).trans h1
  have c2 : fld (m + a.toNat * 2 ^ 16 + b.toNat * 2 ^ 2) 0 2 = 0 := (below (by decide)).trans ((below (by decide)).trans h2)
  have c3 : fld (m + a.toNat * 2 ^ 16 + b.toNat * 2 ^ 2 + c.toNat * 2 ^ 0) 30 1 = 0 := (above c2 c.isLt (by decide)).trans ((above c1 b.isLt (by decide)).trans ((above c0 a.isLt (by decide)).trans h3))
  refine ⟨(above c3 hs (by decide)).trans ((above c2 c.isLt (by decide)).trans ((above c1 b.isLt (by decide)).trans (above c0 a.isLt (by decide)))),
    (below (by decide)).trans ((above c2 c.isLt (by decide)).trans ((above c1 b.isLt (by decide)).trans (above c0 a.isLt (by decide)))),
    (below (by decide)).trans ((above c2 c.isLt (by decide)).trans ((above c1 b.isLt (by decide)).trans (below (by decide)))),
    bits_eq ((below (by decide)).trans ((above c2 c.isLt (by decide)).trans ((above c1 b.isLt (by decide)).trans (there c0 a.isLt)))),
    bits_eq ((below (by decide)).trans ((above c2 c.isLt (by decide)).trans (there c1 b.isLt))),
    bits_eq ((below (by decide)).trans (there c2 c.isLt))⟩

theorem lay_16w7_0w2 {m s w : Nat} {a : BitVec 7} {b : BitVec 2} (hw : w = lay2 m a.toNat 16 b.toNat 0 + s * 2 ^ 30) (hs : s < 2)
    (h0 : fld m 16 7 = 0) (h1 : fld m 0 2 = 0) (h2 : fld m 30 1 = 0) :
    fld w 31 1 = fld m 31 1 ∧ fld w 23 7 = fld m 23 7 ∧ fld w 2 14 = fld m 2 14 ∧ bitsOf w 16 7 = a ∧ bitsOf w 0 2 = b := by
  subst hw
  have c0 : fld m 16 7 = 0 := h0
  have c1 : fld (m + a.toNat * 2 ^ 16) 0 2 = 0 := (below (by decide)).trans h1
  have c2 : fld (m + a.toNat * 2 ^ 16 + b.toNat * 2 ^ 0) 30 1 = 0 := (above c1 b.isLt (by decide)).trans ((above c0 a.isLt (by decide)).trans h2)
  refine ⟨(above c2 hs (by decide)).trans ((above c1 b.isLt (by decide)).trans (above c0 a.isLt (by decide))),
    (below (by decide)).trans ((above c1 b.isLt (by decide)).trans (above c0 a.isLt (by decide))),
    (below (by decide)).trans ((above c1 b.isLt (by decide)).trans (below (by decide))),
    bits_eq ((below (by decide)).trans ((above c1 b.isLt (by decide)).trans (there c0 a.isLt))),
    bits_eq ((below (by decide)).trans (there c1 b.isLt))⟩

theorem lay_9w7_2w7 {m s w : Nat} {a : BitVec 7} {b : BitVec 7} (hw : w = lay2 m a.toNat 9 b.toNat 2 + s * 2 ^ 30) (hs : s < 2)
    (h0 : fld m 9 7 = 0) (h1 : fld m 2 7 = 0) (h2 : fld m 30 1 = 0) :
    fld w 31 1 = fld m 31 1 ∧ fld w 23 7 = fld m 23 7 ∧ fld w 16 7 = fld m 16 7 ∧ fld w 0 2 = fld m 0 2 ∧ bitsOf w 9 7 = a ∧ bitsOf w 2 7 = b := by
  subst hw
  have c0 : fld m 9 7 = 0 := h0
  have c1 : fld (m + a.toNat * 2 ^ 9) 2 7 = 0 := (below (by decide)).trans h1
  have c2 : fld (m + a.toNat * 2 ^ 9 + b.toNat * 2 ^ 2) 30 1 = 0 := (above c1 b.isLt (by decide)).trans ((above c0 a.isLt (by decide)).trans h2)
  refine ⟨(above c2 hs (by decide)).trans ((above c1 b.isLt (by decide)).trans (above c0 a.isLt (by decide))),
    (below (by decide)).trans ((above c1 b.isLt (by decide)).trans (above c0 a.isLt (by decide))),
    (below (by decide)).trans ((above c1 b.isLt (by decide)).trans (above c0 a.isLt (by decide))),
    (below (by decide)).trans ((below (by decide)).trans (below (by decide))),
    bits_eq ((below (by decide)).trans ((above c1 b.isLt (by decide)).trans (there c0 a.isLt))),
    bits_eq ((below (by decide)).trans (there c1 b.isLt))⟩

theorem lay_2w7 {m s w : Nat} {a : BitVec 7} (hw : w = lay1 m a.toNat 2 + s * 2 ^ 30) (hs : s < 2)
    (h0 : fld m 2 7 = 0) (h1 : fld m 30 1 = 0) :
    fld w 31 1 = fld m 31 1 ∧ fld w 23 7 = fld m 23 7 ∧ fld w 16 7 = fld m 16 7 ∧ fld w 0 2 = fld m 0 2 ∧ fld w 9 7 = fld m 9 7 ∧ bitsOf w 2 7 = a := by
  subst hw
  have c0 : fld m 2 7 = 0 := h0
  have c1 : fld (m + a.toNat * 2 ^ 2) 30 1 = 0 := (above c0 a.isLt (by decide)).trans h1
  refine ⟨(above c1 hs (by decide)).trans (above c0 a.isLt (by decide)),
    (below (by decide)).trans (above c0 a.isLt (by decide)),
    (below (by decide)).trans (above c0 a.isLt (by decide)),
    (below (by decide)).trans (below (by decide)),
    (below (by decide)).trans (above c0 a.isLt (by decide)),
    bits_eq ((below (by decide)).trans (there c0 a.isLt))⟩

theorem lay_0w23 {m s w : Nat} {a : BitVec 23} (hw : w = lay1 m a.toNat 0 + s * 2 ^ 30) (hs : s < 2)
    (h0 : fld m 0 23 = 0) (h1 : fld m 30 1 = 0) :
    fld w 31 1 = fld m 31 1 ∧ fld w 23 7 = fld m 23 7 ∧ bitsOf w 0 23 = a := by
  subst hw
  have c0 : fld m 0 23 = 0 := h0
  have c1 : fld (m + a.toNat * 2 ^ 0) 30 1 = 0 := (above c0 a.isLt (by decide)).trans h1
  refine ⟨(above c1 hs (by decide)).trans (above c0 a.isLt (by decide)),
    (below (by decide)).trans (above c0 a.isLt (by decide)),
    bits_eq ((below (by decide)).trans (there c0 a.isLt))⟩

theorem lay_20w3_17w3_14w3 {m s w : Nat} {a : BitVec 3} {b : BitVec 3} {c : BitVec 3} (hw : w = lay3 m a.toNat 20 b.toNat 17 c.toNat 14 + s * 2 ^ 30) (hs : s < 2)
    (h0 : fld m 20 3 = 0) (h1 : fld m 17 3 = 0) (h2 : fld m 14 3 = 0) (h3 : fld m 30 1 = 0) :
    fld w 31 1 = fld m 31 1 ∧ fld w 23 7 = fld m 23 7 ∧ fld w 2 5 = fld m 2 5 ∧ fld w 0 2 = fld m 0 2 ∧ fld w 7 7 = fld m 7 7 ∧ bitsOf w 20 3 = a ∧ bitsOf w 17 3 = b ∧ bitsOf w 14 3 = c ∧ fld w 14 3 = c.toNat := by
  subst hw
  have c0 : fld m 20 3 = 0 := h0
  have c1 : fld (m + a.toNat * 2 ^ 20) 17 3 = 0 := (below (by decide)).trans h1
  have c2 : fld (m + a.toNat * 2 ^ 20 + b.toNat * 2 ^ 17) 14 3 = 0 := (below (by decide)).trans ((below (by decide)).trans h2)
  have c3 : fld (m + a.toNat * 2 ^ 20 + b.toNat * 2 ^ 17 + c.toNat * 2 ^ 14) 30 1 = 0 := (above c2 c.isLt (by decide)).trans ((above c1 b.isLt (by decide)).trans ((above c0 a.isLt (by decide)).trans h3))
  refine ⟨(above c3 hs (by decide)).trans ((above c2 c.isLt (by decide)).trans ((above c1 b.isLt (by decide)).trans (above c0 a.isLt (by decide)))),
    (below (by decide)).trans ((above c2 c.isLt (by decide)).trans ((above c1 b.isLt (by decide)).trans (above c0 a.isLt (by decide)))),
    (below (by decide)).trans ((below (by decide)).trans ((below (by decide)).trans (below (by decide)))),
    (below (by decide)).trans ((below (by decide)).trans ((below (by decide)).trans (below (by decide)))),
    (below (by decide)).trans ((below (by decide)).trans ((below (by decide)).trans (below (by decide)))),
    bits_eq ((below (by decide)).trans ((above c2 c.isLt (by decide)).trans ((above c1 b.isLt (by decide)).trans (there c0 a.isLt)))),
    bits_eq ((below (by decide)).trans ((above c2 c.isLt (by decide)).trans (there c1 b.isLt))),
    bits_eq ((below (by decide)).trans (there c2 c.isLt)),
    (below (by decide)).trans (there c2 c.isLt)⟩

theorem lay_20w3_17w3_7w7 {m s w : Nat} {a : BitVec 3} {b : BitVec 3} {c : BitVec 7} (hw : w = lay3 m a.toNat 20 b.toNat 17 c.toNat 7 + s * 2 ^ 30) (hs : s < 2)
    (h0 : fld m 20 3 = 0) (h1 : fld m 17 3 = 0) (h2 : fld m 7 7 = 0) (h3 : fld m 30 1 = 0) :
    fld w 31 1 = fld m 31 1 ∧ fld w 23 7 = fld m 23 7 ∧ fld w 2 5 = fld m 2 5 ∧ fld w 0 2 = fld m 0 2 ∧ fld w 14 3 = fld m 14 3 ∧ bitsOf w 20 3 = a ∧ bitsOf w 17 3 = b ∧ bitsOf w 7 7 = c := by
  subst hw
  have c0 : fld m 20 3 = 0 := h0
  have c1 : fld (m + a.toNat * 2 ^ 20) 17 3 = 0 := (below (by decide)).trans h1
  have c2 : fld (m + a.toNat * 2 ^ 20 + b.toNat * 2 ^ 17) 7 7 = 0 := (below (by decide)).trans ((below (by decide)).trans h2)
  have c3 : fld (m + a.toNat * 2 ^ 20 + b.toNat * 2 ^ 17 + c.toNat * 2 ^ 7) 30 1 = 0 := (above c2 c.isLt (by decide)).trans ((above c1 b.isLt (by decide)).trans ((above c0 a.isLt (by decide)).trans h3))
  refine ⟨(above c3 hs (by decide)).trans ((above c2 c.isLt (by decide)).trans ((above c1 b.isLt (by decide)).trans (above c0 a.isLt (by decide)))),
    (below (by decide)).trans ((above c2 c.isLt (by decide)).trans ((above c1 b.isLt (by decide)).trans (above c0 a.isLt (by decide)))),
    (below (by decide)).trans ((below (by decide)).trans ((below (by decide)).trans (below (by decide)))),
    (below (by decide)).trans ((below (by decide)).trans ((below (by decide)).trans (below (by decide)))),
    (below (by decide)).trans ((above c2 c.isLt (by decide)).trans ((below (by decide)).trans (below (by decide)))),
    bits_eq ((below (by decide)).trans ((above c2 c.isLt (by decide)).trans ((above c1 b.isLt (by decide)).trans (there c0 a.isLt)))),
    bits_eq ((below (by decide)).trans ((above c2 c.isLt (by decide)).trans (there c1 b.isLt))),
    bits_eq ((below (by decide)).trans (there c2 c.isLt))⟩

theorem lay_20w3_17w3 {m s w : Nat} {a : BitVec 3} {b : BitVec 3} (hw : w = lay2 m a.toNat 20 b.toNat 17 + s * 2 ^ 30) (hs : s < 2)
    (h0 : fld m 20 3 = 0) (h1 : fld m 17 3 = 0) (h2 : fld m 30 1 = 0) :
    fld w 31 1 = fld m 31 1 ∧ fld w 23 7 = fld m 23 7 ∧ fld w 2 5 = fld m 2 5 ∧ fld w 0 2 = fld m 0 2 ∧ fld w 7 10 = fld m 7 10 ∧ bitsOf w 20 3 = a ∧ bitsOf w 17 3 = b := by
  subst hw
  have c0 : fld m 20 3 = 0 := h0
  have c1 : fld (m + a.toNat * 2 ^ 20) 17 3 = 0 := (below (by decide)).trans h1
  have c2 : fld (m + a.toNat * 2 ^ 20 + b.toNat * 2 ^ 17) 30 1 = 0 := (above c1 b.isLt (by decide)).trans ((above c0 a.isLt (by decide)).trans h2)
  refine ⟨(above c2 hs (by decide)).trans ((above c1 b.isLt (by decide)).trans (above c0 a.isLt (by decide))),
    (below (by decide)).trans ((above c1 b.isLt (by decide)).trans (above c0 a.isLt (by decide))),
    (below (by decide)).trans ((below (by decide)).trans (below (by decide))),
    (below (by decide)).trans ((below (by decide)).trans (below (by decide))),
    (below (by decide)).trans ((below (by decide)).trans (below (by decide))),
    bits_eq ((below (by decide)).trans ((above c1 b.isLt (by decide)).trans (there c0 a.isLt))),
    bits_eq ((below (by decide)).trans (there c1 b.isLt))⟩

theorem lay_20w3_17w3_14w3_7w7_0w2 {m s w : Nat} {a : BitVec 3} {b : BitVec 3} {c : BitVec 3} {d : BitVec 7} {e : BitVec 2} (hw : w = lay5 m a.toNat 20 b.toNat 17 c.toNat 14 d.toNat 7 e.toNat 0 + s * 2 ^ 30) (hs : s < 2)
    (h0 : fld m 20 3 = 0) (h1 : fld m 17 3 = 0) (h2 : fld m 14 3 = 0) (h3 : fld m 7 7 = 0) (h4 : fld m 0 2 = 0) (h5 : fld m 30 1 = 0) :
    fld w 31 1 = fld m 31 1 ∧ fld w 23 7 = fld m 23 7 ∧ fld w 2 5 = fld m 2 5 ∧ fld w 20 3 = a.toNat ∧ bitsOf w 20 3 = a ∧ bitsOf w 17 3 = b ∧ bitsOf w 14 3 = c ∧ bitsOf w 7 7 = d ∧ bitsOf w 0 2 = e := by
  subst hw
  have c0 : fld m 20 3 = 0 := h0
  have c1 : fld (m + a.toNat * 2 ^ 20) 17 3 = 0 := (below (by decide)).trans h1
  have c2 : fld (m + a.toNat * 2 ^ 20 + b.toNat * 2 ^ 17) 14 3 = 0 := (below (by decide)).trans ((below (by decide)).trans h2)
  have c3 : fld (m + a.toNat * 2 ^ 20 + b.toNat * 2 ^ 17 + c.toNat * 2 ^ 14) 7 7 = 0 := (below (by decide)).trans ((below (by decide)).trans ((below (by decide)).trans h3))
  have c4 : fld (m + a.toNat * 2 ^ 20 + b.toNat * 2 ^ 17 + c.toNat * 2 ^ 14 + d.toNat * 2 ^ 7) 0 2 = 0 := (below (by decide)).trans ((below (by decide)).trans ((below (by decide)).trans ((below (by decide)).trans h4)))
  have c5 : fld (m + a.toNat * 2 ^ 20 + b.toNat * 2 ^ 17 + c.toNat * 2 ^ 14 + d.toNat * 2 ^ 7 + e.toNat * 2 ^ 0) 30 1 = 0 := (above c4 e.isLt (by decide)).trans ((above c3 d.isLt (by decide)).trans ((above c2 c.isLt (by decide)).trans ((above c1 b.isLt (by decide)).trans ((above c0 a.isLt (by decide)).trans h5))))
  refine ⟨(above c5 hs (by decide)).trans ((above c4 e.isLt (by decide)).trans ((above c3 d.isLt (by decide)).trans ((above c2 c.isLt (by decide)).trans ((above c1 b.isLt (by decide)).trans (above c0 a.isLt (by decide)))))),
    (below (by decide)).trans ((above c4 e.isLt (by decide)).trans ((above c3 d.isLt (by decide)).trans ((above c2 c.isLt (by decide)).trans ((above c1 b.isLt (by decide)).trans (above c0 a.isLt (by decide)))))),
    (below (by decide)).trans ((above c4 e.isLt (by decide)).trans ((below (by decide)).trans ((below (by decide)).trans ((below (by decide)).trans (below (by decide)))))),
    (below (by decide)).trans ((above c4 e.isLt (by decide)).trans ((above c3 d.isLt (by decide)).trans ((above c2 c.isLt (by decide)).trans ((above c1 b.isLt (by decide)).trans (there c0 a.isLt))))),
    bits_eq ((below (by decide)).trans ((above c4 e.isLt (by decide)).trans ((above c3 d.isLt (by decide)).trans ((above c2 c.isLt (by decide)).trans ((above c1 b.isLt (by decide)).trans (there c0 a.isLt)))))),
    bits_eq ((below (by decide)).trans ((above c4 e.isLt (by decide)).trans ((above c3 d.isLt (by decide)).trans ((above c2 c.isLt (by decide)).trans (there c1 b.isLt))))),
    bits_eq ((below (by decide)).trans ((above c4 e.isLt (by decide)).trans ((above c3 d.isLt (by decide)).trans (there c2 c.isLt)))),
    bits_eq ((below (by decide)).trans ((above c4 e.isLt (by decide)).trans (there c3 d.isLt))),
    bits_eq ((below (by decide)).trans (there c4 e.isLt))⟩

theorem lay_17w3_14w3_7w7_0w2 {m s w : Nat} {a : BitVec 3} {b : BitVec 3} {c : BitVec 7} {d : BitVec 2} (hw : w = lay4 m a.toNat 17 b.toNat 14 c.toNat 7 d.toNat 0 + s * 2 ^ 30) (hs : s < 2)
    (h0 : fld m 17 3 = 0) (h1 : fld m 14 3 = 0) (h2 : fld m 7 7 = 0) (h3 : fld m 0 2 = 0) (h4 : fld m 30 1 = 0) :
    fld w 31 1 = fld m 31 1 ∧ fld w 23 7 = fld m 23 7 ∧ fld w 2 5 = fld m 2 5 ∧ fld w 14 3 = b.toNat ∧ fld w 20 3 = fld m 20 3 ∧ bitsOf w 17 3 = a ∧ bitsOf w 14 3 = b ∧ bitsOf w 7 7 = c ∧ bitsOf w 0 2 = d := by
  subst hw
  have c0 : fld m 17 3 = 0 := h0
  have c1 : fld (m + a.toNat * 2 ^ 17) 14 3 = 0 := (below (by decide)).trans h1
  have c2 : fld (m + a.toNat * 2 ^ 17 + b.toNat * 2 ^ 14) 7 7 = 0 := (below (by decide)).trans ((below (by decide)).trans h2)
  have c3 : fld (m + a.toNat * 2 ^ 17 + b.toNat * 2 ^ 14 + c.toNat * 2 ^ 7) 0 2 = 0 := (below (by decide)).trans ((below (by decide)).trans ((below (by decide)).trans h3))
  have c4 : fld (m + a.toNat * 2 ^ 17 + b.toNat * 2 ^ 14 + c.toNat * 2 ^ 7 + d.toNat * 2 ^ 0) 30 1 = 0 := (above c3 d.isLt (by decide)).trans ((above c2 c.isLt (by decide)).trans ((above c1 b.isLt (by decide)).trans ((above c0 a.isLt (by decide)).trans h4)))
  refine ⟨(above c4 hs (by decide)).trans ((above c3 d.isLt (by decide)).trans ((above c2 c.isLt (by decide)).trans ((above c1 b.isLt (by decide)).trans (above c0 a.isLt (by decide))))),
    (below (by decide)).trans ((above c3 d.isLt (by decide)).trans ((above c2 c.isLt (by decide)).trans ((above c1 b.isLt (by decide)).trans (above c0 a.isLt (by decide))))),
    (below (by decide)).trans ((above c3 d.isLt (by decide)).trans ((below (by decide)).trans ((below (by decide)).trans (below (by decide))))),
    (below (by decide)).trans ((above c3 d.isLt (by decide)).trans ((above c2 c.isLt (by decide)).trans (there c1 b.isLt))),
    (below (by decide)).trans ((above c3 d.isLt (by decide)).trans ((above c2 c.isLt (by decide)).trans ((above c1 b.isLt (by decide)).trans (above c0 a.isLt (by decide))))),
    bits_eq ((below (by decide)).trans ((above c3 d.isLt (by decide)).trans ((above c2 c.isLt (by decide)).trans ((above c1 b.isLt (by decide)).trans (there c0 a.isLt))))),
    bits_eq ((below (by decide)).trans ((above c3 d.isLt (by decide)).trans ((above c2 c.isLt (by decide)).trans (there c1 b.isLt)))),
    bits_eq ((below (by decide)).trans ((above c3 d.isLt (by decide)).trans (there c2 c.isLt))),
    bits_eq ((below (by decide)).trans (there c3 d.isLt))⟩

theorem lay_17w3_7w7_0w2 {m s w : Nat} {a : BitVec 3} {b : BitVec 7} {c : BitVec 2} (hw : w = lay3 m a.toNat 17 b.toNat 7 c.toNat 0 + s * 2 ^ 30) (hs : s < 2)
    (h0 : fld m 17 3 = 0) (h1 : fld m 7 7 = 0) (h2 : fld m 0 2 = 0) (h3 : fld m 30 1 = 0) :
    fld w 31 1 = fld m 31 1 ∧ fld w 23 7 = fld m 23 7 ∧ fld w 2 5 = fld m 2 5 ∧ fld w 14 3 = fld m 14 3 ∧ fld w 20 3 = fld m 20 3 ∧ bitsOf w 17 3 = a ∧ bitsOf w 7 7 = b ∧ bitsOf w 0 2 = c := by
  subst hw
  have c0 : fld m 17 3 = 0 := h0
  have c1 : fld (m + a.toNat * 2 ^ 17) 7 7 = 0 := (below (by decide)).trans h1
  have c2 : fld (m + a.toNat * 2 ^ 17 + b.toNat * 2 ^ 7) 0 2 = 0 := (below (by decide)).trans ((below (by decide)).trans h2)
  have c3 : fld (m + a.toNat * 2 ^ 17 + b.toNat * 2 ^ 7 + c.toNat * 2 ^ 0) 30 1 = 0 := (above c2 c.isLt (by decide)).trans ((above c1 b.isLt (by decide)).trans ((above c0 a.isLt (by decide)).trans h3))
  refine ⟨(above c3 hs (by decide)).trans ((above c2 c.isLt (by decide)).trans ((above c1 b.isLt (by decide)).trans (above c0 a.isLt (by decide)))),
    (below (by decide)).trans ((above c2 c.isLt (by decide)).trans ((above c1 b.isLt (by decide)).trans (above c0 a.isLt (by decide)))),
    (below (by decide)).trans ((above c2 c.isLt (by decide)).trans ((below (by decide)).trans (below (by decide)))),
    (below (by decide)).trans ((above c2 c.isLt (by decide)).trans ((above c1 b.isLt (by decide)).trans (below (by decide)))),
    (below (by decide)).trans ((above c2 c.isLt (by decide)).trans ((above c1 b.isLt (by decide)).trans (above c0 a.isLt (by decide)))),
    bits_eq ((below (by decide)).trans ((above c2 c.isLt (by decide)).trans ((above c1 b.isLt (by decide)).trans (there c0 a.isLt)))),
    bits_eq ((below (by decide)).trans ((above c2 c.isLt (by decide)).trans (there c1 b.isLt))),
    bits_eq ((below (by decide)).trans (there c2 c.isLt))⟩

theorem add (d a b : BitVec 5) : Statement (.add d a b) := by
  refine of_code rfl fun w y hw hy => ?_
  obtain ⟨h0, h1, h2, h3, h4, h5, -, -⟩ := lay_19w5_14w5_9w5 hw hy rfl rfl rfl rfl
  rw [decodeNat, h0, decodeA, h1, decodeA01, h2, h3, h4, h5]
  rfl

theorem sub (d a b : BitVec 5) : Statement (.sub d a b) := by
  refine of_code rfl fun w y hw hy => ?_
  obtain ⟨h0, h1, h2, h3, h4, h5, -, -⟩ := lay_19w5_14w5_9w5 hw hy rfl rfl rfl rfl
  rw [decodeNat, h0, decodeA, h1, decodeA01, h2, h3, h4, h5]
  rfl

theorem and (d a b : BitVec 5) : Statement (.and d a b) := by
  refine of_code rfl fun w y hw hy => ?_
  obtain ⟨h0, h1, h2, h3, h4, h5, -, -⟩ := lay_19w5_14w5_9w5 hw hy rfl rfl rfl rfl
  rw [decodeNat, h0, decodeA, h1, decodeA01, h2, h3, h4, h5]
  rfl

theorem or (d a b : BitVec 5) : Statement (.or d a b) := by
  refine of_code rfl fun w y hw hy => ?_
  obtain ⟨h0, h1, h2, h3, h4, h5, -, -⟩ := lay_19w5_14w5_9w5 hw hy rfl rfl rfl rfl
  rw [decodeNat, h0, decodeA, h1, decodeA01, h2, h3, h4, h5]
  rfl

theorem xor (d a b : BitVec 5) : Statement (.xor d a b) := by
  refine of_code rfl fun w y hw hy => ?_
  obtain ⟨h0, h1, h2, h3, h4, h5, -, -⟩ := lay_19w5_14w5_9w5 hw hy rfl rfl rfl rfl
  rw [decodeNat, h0, decodeA, h1, decodeA01, h2, h3, h4, h5]
  rfl

theorem andn (d a b : BitVec 5) : Statement (.andn d a b) := by
  refine of_code rfl fun w y hw hy => ?_
  obtain ⟨h0, h1, h2, h3, h4, h5, -, -⟩ := lay_19w5_14w5_9w5 hw hy rfl rfl rfl rfl
  rw [decodeNat, h0, decodeA, h1, decodeA01, h2, h3, h4, h5]
  rfl

theorem shl (d a b : BitVec 5) : Statement (.shl d a b) := by
  refine of_code rfl fun w y hw hy => ?_
  obtain ⟨h0, h1, h2, h3, h4, h5, -, -⟩ := lay_19w5_14w5_9w5 hw hy rfl rfl rfl rfl
  rw [decodeNat, h0, decodeA, h1, decodeA01, h2, h3, h4, h5]
  rfl

theorem shr (d a b : BitVec 5) : Statement (.shr d a b) := by
  refine of_code rfl fun w y hw hy => ?_
  obtain ⟨h0, h1, h2, h3, h4, h5, -, -⟩ := lay_19w5_14w5_9w5 hw hy rfl rfl rfl rfl
  rw [decodeNat, h0, decodeA, h1, decodeA01, h2, h3, h4, h5]
  rfl

theorem sra (d a b : BitVec 5) : Statement (.sra d a b) := by
  refine of_code rfl fun w y hw hy => ?_
  obtain ⟨h0, h1, h2, h3, h4, h5, -, -⟩ := lay_19w5_14w5_9w5 hw hy rfl rfl rfl rfl
  rw [decodeNat, h0, decodeA, h1, decodeA01, h2, h3, h4, h5]
  rfl

theorem slt (d a b : BitVec 5) : Statement (.slt d a b) := by
  refine of_code rfl fun w y hw hy => ?_
  obtain ⟨h0, h1, h2, h3, h4, h5, -, -⟩ := lay_19w5_14w5_9w5 hw hy rfl rfl rfl rfl
  rw [decodeNat, h0, decodeA, h1, decodeA01, h2, h3, h4, h5]
  rfl

theorem sltn (d a b : BitVec 5) : Statement (.sltn d a b) := by
  refine of_code rfl fun w y hw hy => ?_
  obtain ⟨h0, h1, h2, h3, h4, h5, -, -⟩ := lay_19w5_14w5_9w5 hw hy rfl rfl rfl rfl
  rw [decodeNat, h0, decodeA, h1, decodeA01, h2, h3, h4, h5]
  rfl

theorem seq (d a b : BitVec 5) : Statement (.seq d a b) := by
  refine of_code rfl fun w y hw hy => ?_
  obtain ⟨h0, h1, h2, h3, h4, h5, -, -⟩ := lay_19w5_14w5_9w5 hw hy rfl rfl rfl rfl
  rw [decodeNat, h0, decodeA, h1, decodeA01, h2, h3, h4, h5]
  rfl

theorem min (d a b : BitVec 5) : Statement (.min d a b) := by
  refine of_code rfl fun w y hw hy => ?_
  obtain ⟨h0, h1, h2, h3, h4, h5, -, -⟩ := lay_19w5_14w5_9w5 hw hy rfl rfl rfl rfl
  rw [decodeNat, h0, decodeA, h1, decodeA01, h2, h3, h4, h5]
  rfl

theorem minn (d a b : BitVec 5) : Statement (.minn d a b) := by
  refine of_code rfl fun w y hw hy => ?_
  obtain ⟨h0, h1, h2, h3, h4, h5, -, -⟩ := lay_19w5_14w5_9w5 hw hy rfl rfl rfl rfl
  rw [decodeNat, h0, decodeA, h1, decodeA01, h2, h3, h4, h5]
  rfl

theorem max (d a b : BitVec 5) : Statement (.max d a b) := by
  refine of_code rfl fun w y hw hy => ?_
  obtain ⟨h0, h1, h2, h3, h4, h5, -, -⟩ := lay_19w5_14w5_9w5 hw hy rfl rfl rfl rfl
  rw [decodeNat, h0, decodeA, h1, decodeA01, h2, h3, h4, h5]
  rfl

theorem maxn (d a b : BitVec 5) : Statement (.maxn d a b) := by
  refine of_code rfl fun w y hw hy => ?_
  obtain ⟨h0, h1, h2, h3, h4, h5, -, -⟩ := lay_19w5_14w5_9w5 hw hy rfl rfl rfl rfl
  rw [decodeNat, h0, decodeA, h1, decodeA01, h2, h3, h4, h5]
  rfl

theorem addx4 (d a b : BitVec 5) : Statement (.addx4 d a b) := by
  refine of_code rfl fun w y hw hy => ?_
  obtain ⟨h0, h1, h2, h3, h4, h5, -, -⟩ := lay_19w5_14w5_9w5 hw hy rfl rfl rfl rfl
  rw [decodeNat, h0, decodeA, h1, decodeA01, h2, h3, h4, h5]
  rfl

theorem addx64 (d a b : BitVec 5) : Statement (.addx64 d a b) := by
  refine of_code rfl fun w y hw hy => ?_
  obtain ⟨h0, h1, h2, h3, h4, h5, -, -⟩ := lay_19w5_14w5_9w5 hw hy rfl rfl rfl rfl
  rw [decodeNat, h0, decodeA, h1, decodeA01, h2, h3, h4, h5]
  rfl

theorem mul (d a b : BitVec 5) : Statement (.mul d a b) := by
  refine of_code rfl fun w y hw hy => ?_
  obtain ⟨h0, h1, h2, h3, h4, h5, -, -⟩ := lay_19w5_14w5_9w5 hw hy rfl rfl rfl rfl
  rw [decodeNat, h0, decodeA, h1, decodeA01, h2, h3, h4, h5]
  rfl

theorem mulh (d a b : BitVec 5) : Statement (.mulh d a b) := by
  refine of_code rfl fun w y hw hy => ?_
  obtain ⟨h0, h1, h2, h3, h4, h5, -, -⟩ := lay_19w5_14w5_9w5 hw hy rfl rfl rfl rfl
  rw [decodeNat, h0, decodeA, h1, decodeA01, h2, h3, h4, h5]
  rfl

theorem mulhn (d a b : BitVec 5) : Statement (.mulhn d a b) := by
  refine of_code rfl fun w y hw hy => ?_
  obtain ⟨h0, h1, h2, h3, h4, h5, -, -⟩ := lay_19w5_14w5_9w5 hw hy rfl rfl rfl rfl
  rw [decodeNat, h0, decodeA, h1, decodeA01, h2, h3, h4, h5]
  rfl

theorem div (d a b : BitVec 5) : Statement (.div d a b) := by
  refine of_code rfl fun w y hw hy => ?_
  obtain ⟨h0, h1, h2, h3, h4, h5, -, -⟩ := lay_19w5_14w5_9w5 hw hy rfl rfl rfl rfl
  rw [decodeNat, h0, decodeA, h1, decodeA01, h2, h3, h4, h5]
  rfl

theorem divn (d a b : BitVec 5) : Statement (.divn d a b) := by
  refine of_code rfl fun w y hw hy => ?_
  obtain ⟨h0, h1, h2, h3, h4, h5, -, -⟩ := lay_19w5_14w5_9w5 hw hy rfl rfl rfl rfl
  rw [decodeNat, h0, decodeA, h1, decodeA01, h2, h3, h4, h5]
  rfl

theorem rem (d a b : BitVec 5) : Statement (.rem d a b) := by
  refine of_code rfl fun w y hw hy => ?_
  obtain ⟨h0, h1, h2, h3, h4, h5, -, -⟩ := lay_19w5_14w5_9w5 hw hy rfl rfl rfl rfl
  rw [decodeNat, h0, decodeA, h1, decodeA01, h2, h3, h4, h5]
  rfl

theorem remn (d a b : BitVec 5) : Statement (.remn d a b) := by
  refine of_code rfl fun w y hw hy => ?_
  obtain ⟨h0, h1, h2, h3, h4, h5, -, -⟩ := lay_19w5_14w5_9w5 hw hy rfl rfl rfl rfl
  rw [decodeNat, h0, decodeA, h1, decodeA01, h2, h3, h4, h5]
  rfl

theorem movz (d a b : BitVec 5) : Statement (.movz d a b) := by
  refine of_code rfl fun w y hw hy => ?_
  obtain ⟨h0, h1, h2, h3, h4, h5, -, -⟩ := lay_19w5_14w5_9w5 hw hy rfl rfl rfl rfl
  rw [decodeNat, h0, decodeA, h1, decodeA01, h2, h3, h4, h5]
  rfl

theorem movnz (d a b : BitVec 5) : Statement (.movnz d a b) := by
  refine of_code rfl fun w y hw hy => ?_
  obtain ⟨h0, h1, h2, h3, h4, h5, -, -⟩ := lay_19w5_14w5_9w5 hw hy rfl rfl rfl rfl
  rw [decodeNat, h0, decodeA, h1, decodeA01, h2, h3, h4, h5]
  rfl

theorem clz (d a : BitVec 5) : Statement (.clz d a) := by
  refine of_code rfl fun w y hw hy => ?_
  obtain ⟨h0, h1, h2, h3, h4, h5, -, -⟩ := lay_19w5_14w5 hw hy rfl rfl rfl
  rw [decodeNat, h0, decodeA, h1, decodeA01, h2, h3, h4, h5]
  rfl

theorem popc (d a : BitVec 5) : Statement (.popc d a) := by
  refine of_code rfl fun w y hw hy => ?_
  obtain ⟨h0, h1, h2, h3, h4, h5, -, -⟩ := lay_19w5_14w5 hw hy rfl rfl rfl
  rw [decodeNat, h0, decodeA, h1, decodeA01, h2, h3, h4, h5]
  rfl

theorem prd (d a : BitVec 5) : Statement (.prd d a) := by
  refine of_code rfl fun w y hw hy => ?_
  obtain ⟨h0, h1, h2, h3, h4, h5, -, -⟩ := lay_19w5_14w5 hw hy rfl rfl rfl
  rw [decodeNat, h0, decodeA, h1, decodeA01, h2, h3, h4, h5]
  rfl

theorem pwr (d a : BitVec 5) : Statement (.pwr d a) := by
  refine of_code rfl fun w y hw hy => ?_
  obtain ⟨h0, h1, h2, h3, h4, h5, -, -⟩ := lay_19w5_14w5 hw hy rfl rfl rfl
  rw [decodeNat, h0, decodeA, h1, decodeA01, h2, h3, h4, h5]
  rfl

theorem addi (d a : BitVec 5) (i : BitVec 14) : Statement (.addi d a i) := by
  refine of_code rfl fun w y hw hy => ?_
  obtain ⟨h0, h1, h2, h3, h4⟩ := lay_19w5_14w5_0w14 hw hy rfl rfl rfl rfl
  rw [decodeNat, h0, decodeA, h1, h2, h3, h4]
  rfl

theorem andi (d a : BitVec 5) (i : BitVec 14) : Statement (.andi d a i) := by
  refine of_code rfl fun w y hw hy => ?_
  obtain ⟨h0, h1, h2, h3, h4⟩ := lay_19w5_14w5_0w14 hw hy rfl rfl rfl rfl
  rw [decodeNat, h0, decodeA, h1, h2, h3, h4]
  rfl

theorem ori (d a : BitVec 5) (i : BitVec 14) : Statement (.ori d a i) := by
  refine of_code rfl fun w y hw hy => ?_
  obtain ⟨h0, h1, h2, h3, h4⟩ := lay_19w5_14w5_0w14 hw hy rfl rfl rfl rfl
  rw [decodeNat, h0, decodeA, h1, h2, h3, h4]
  rfl

theorem xori (d a : BitVec 5) (i : BitVec 14) : Statement (.xori d a i) := by
  refine of_code rfl fun w y hw hy => ?_
  obtain ⟨h0, h1, h2, h3, h4⟩ := lay_19w5_14w5_0w14 hw hy rfl rfl rfl rfl
  rw [decodeNat, h0, decodeA, h1, h2, h3, h4]
  rfl

theorem shli (d a n : BitVec 5) : Statement (.shli d a n) := by
  refine of_code rfl fun w y hw hy => ?_
  obtain ⟨h0, h1, h2, h3, h4, h5, h6⟩ := lay_19w5_14w5_0w5 hw hy rfl rfl rfl rfl
  rw [decodeNat, h0, decodeA, h1, decodeA06, h2, h3, h4, h5, h6]
  rfl

theorem shri (d a n : BitVec 5) : Statement (.shri d a n) := by
  refine of_code rfl fun w y hw hy => ?_
  obtain ⟨h0, h1, h2, h3, h4, h5, h6⟩ := lay_19w5_14w5_0w5 hw hy rfl rfl rfl rfl
  rw [decodeNat, h0, decodeA, h1, decodeA06, h2, h3, h4, h5, h6]
  rfl

theorem srai (d a n : BitVec 5) : Statement (.srai d a n) := by
  refine of_code rfl fun w y hw hy => ?_
  obtain ⟨h0, h1, h2, h3, h4, h5, h6⟩ := lay_19w5_14w5_0w5 hw hy rfl rfl rfl rfl
  rw [decodeNat, h0, decodeA, h1, decodeA06, h2, h3, h4, h5, h6]
  rfl

theorem lui (d : BitVec 5) (i : BitVec 19) : Statement (.lui d i) := by
  refine of_code rfl fun w y hw hy => ?_
  obtain ⟨h0, h1, h2, h3⟩ := lay_19w5_0w19 hw hy rfl rfl rfl
  rw [decodeNat, h0, decodeA, h1, h2, h3]
  rfl

theorem slti (d a : BitVec 5) (i : BitVec 14) : Statement (.slti d a i) := by
  refine of_code rfl fun w y hw hy => ?_
  obtain ⟨h0, h1, h2, h3, h4⟩ := lay_19w5_14w5_0w14 hw hy rfl rfl rfl rfl
  rw [decodeNat, h0, decodeA, h1, h2, h3, h4]
  rfl

theorem sltni (d a : BitVec 5) (i : BitVec 14) : Statement (.sltni d a i) := by
  refine of_code rfl fun w y hw hy => ?_
  obtain ⟨h0, h1, h2, h3, h4⟩ := lay_19w5_14w5_0w14 hw hy rfl rfl rfl rfl
  rw [decodeNat, h0, decodeA, h1, h2, h3, h4]
  rfl

theorem csrr (d : BitVec 5) (n : BitVec 12) : Statement (.csrr d n) := by
  refine of_code rfl fun w y hw hy => ?_
  obtain ⟨h0, h1, h2, h3, h4, h5⟩ := lay_19w5_0w12 hw hy rfl rfl rfl
  rw [decodeNat, h0, decodeA, h1, decodeA0A, h2, h3, h4, h5]
  rfl

theorem csrw (d a : BitVec 5) (n : BitVec 12) : Statement (.csrw d a n) := by
  refine of_code rfl fun w y hw hy => ?_
  obtain ⟨h0, h1, h2, h3, h4, h5⟩ := lay_19w5_14w5_0w12 hw hy rfl rfl rfl rfl
  rw [decodeNat, h0, decodeA, h1, decodeA0A, h2, h3, h4, h5]
  rfl

theorem csrs (d a : BitVec 5) (n : BitVec 12) : Statement (.csrs d a n) := by
  refine of_code rfl fun w y hw hy => ?_
  obtain ⟨h0, h1, h2, h3, h4, h5⟩ := lay_19w5_14w5_0w12 hw hy rfl rfl rfl rfl
  rw [decodeNat, h0, decodeA, h1, decodeA0A, h2, h3, h4, h5]
  rfl

theorem csrc (d a : BitVec 5) (n : BitVec 12) : Statement (.csrc d a n) := by
  refine of_code rfl fun w y hw hy => ?_
  obtain ⟨h0, h1, h2, h3, h4, h5⟩ := lay_19w5_14w5_0w12 hw hy rfl rfl rfl rfl
  rw [decodeNat, h0, decodeA, h1, decodeA0A, h2, h3, h4, h5]
  rfl

theorem j (i : BitVec 24) : Statement (.j i) := by
  refine of_code rfl fun w y hw hy => ?_
  obtain ⟨h0, h1, h2⟩ := lay_0w24 hw hy rfl rfl
  rw [decodeNat, h0, decodeA, h1, h2]
  rfl

theorem jal (i : BitVec 24) : Statement (.jal i) := by
  refine of_code rfl fun w y hw hy => ?_
  obtain ⟨h0, h1, h2⟩ := lay_0w24 hw hy rfl rfl
  rw [decodeNat, h0, decodeA, h1, h2]
  rfl

theorem jr (a : BitVec 5) : Statement (.jr a) := by
  refine of_code rfl fun w y hw hy => ?_
  obtain ⟨h0, h1, h2, h3, h4, h5, -, -⟩ := lay_14w5 hw hy rfl rfl
  rw [decodeNat, h0, decodeA, h1, decodeA0E, h2, h3, h4, h5]
  rfl

theorem jalr (d a : BitVec 5) : Statement (.jalr d a) := by
  refine of_code rfl fun w y hw hy => ?_
  obtain ⟨h0, h1, h2, h3, h4, h5, -, -⟩ := lay_19w5_14w5 hw hy rfl rfl rfl
  rw [decodeNat, h0, decodeA, h1, decodeA0E, h2, h3, h4, h5]
  rfl

theorem beq (d a : BitVec 5) (i : BitVec 14) : Statement (.beq d a i) := by
  refine of_code rfl fun w y hw hy => ?_
  obtain ⟨h0, h1, h2, h3, h4⟩ := lay_19w5_14w5_0w14 hw hy rfl rfl rfl rfl
  rw [decodeNat, h0, decodeA, h1, h2, h3, h4]
  rfl

theorem bne (d a : BitVec 5) (i : BitVec 14) : Statement (.bne d a i) := by
  refine of_code rfl fun w y hw hy => ?_
  obtain ⟨h0, h1, h2, h3, h4⟩ := lay_19w5_14w5_0w14 hw hy rfl rfl rfl rfl
  rw [decodeNat, h0, decodeA, h1, h2, h3, h4]
  rfl

theorem blt (d a : BitVec 5) (i : BitVec 14) : Statement (.blt d a i) := by
  refine of_code rfl fun w y hw hy => ?_
  obtain ⟨h0, h1, h2, h3, h4⟩ := lay_19w5_14w5_0w14 hw hy rfl rfl rfl rfl
  rw [decodeNat, h0, decodeA, h1, h2, h3, h4]
  rfl

theorem bge (d a : BitVec 5) (i : BitVec 14) : Statement (.bge d a i) := by
  refine of_code rfl fun w y hw hy => ?_
  obtain ⟨h0, h1, h2, h3, h4⟩ := lay_19w5_14w5_0w14 hw hy rfl rfl rfl rfl
  rw [decodeNat, h0, decodeA, h1, h2, h3, h4]
  rfl

theorem bltn (d a : BitVec 5) (i : BitVec 14) : Statement (.bltn d a i) := by
  refine of_code rfl fun w y hw hy => ?_
  obtain ⟨h0, h1, h2, h3, h4⟩ := lay_19w5_14w5_0w14 hw hy rfl rfl rfl rfl
  rw [decodeNat, h0, decodeA, h1, h2, h3, h4]
  rfl

theorem bgen (d a : BitVec 5) (i : BitVec 14) : Statement (.bgen d a i) := by
  refine of_code rfl fun w y hw hy => ?_
  obtain ⟨h0, h1, h2, h3, h4⟩ := lay_19w5_14w5_0w14 hw hy rfl rfl rfl rfl
  rw [decodeNat, h0, decodeA, h1, h2, h3, h4]
  rfl

theorem bp (c : BitVec 2) (p : BitVec 3) (i : BitVec 14) : Statement (.bp c p i) := by
  by_cases good : c = 0 ∨ c = 1 ∨ c = 2
  swap
  · refine ill ?_
    show Option.isNone (selCause (c == 3)) = false
    revert good; revert c; decide
  refine of_code rfl fun w y hw hy => ?_
  obtain ⟨h0, h1, h2, h3, h4, h5, h6⟩ := lay_22w2_19w3_0w14 hw hy rfl rfl rfl rfl
  rcases good with rfl | rfl | rfl <;> (rw [decodeNat, h0, decodeA, h1, h2, h3, h4, h5, h6]; rfl)

theorem loop (d : BitVec 5) (i : BitVec 14) : Statement (.loop d i) := by
  refine of_code rfl fun w y hw hy => ?_
  obtain ⟨h0, h1, h2, h3, h4⟩ := lay_19w5_0w14 hw hy rfl rfl rfl
  rw [decodeNat, h0, decodeA, h1, h2, h3, h4]
  rfl

theorem ldI8 (d a : BitVec 5) (o : BitVec 14) : Statement (.ldI8 d a o) := by
  refine of_code rfl fun w y hw hy => ?_
  obtain ⟨h0, h1, h2, h3, h4⟩ := lay_19w5_14w5_0w14 hw hy rfl rfl rfl rfl
  rw [decodeNat, h0, decodeA, h1, h2, h3, h4]
  rfl

theorem ldN8 (d a : BitVec 5) (o : BitVec 14) : Statement (.ldN8 d a o) := by
  refine of_code rfl fun w y hw hy => ?_
  obtain ⟨h0, h1, h2, h3, h4⟩ := lay_19w5_14w5_0w14 hw hy rfl rfl rfl rfl
  rw [decodeNat, h0, decodeA, h1, h2, h3, h4]
  rfl

theorem ldI16 (d a : BitVec 5) (o : BitVec 14) : Statement (.ldI16 d a o) := by
  refine of_code rfl fun w y hw hy => ?_
  obtain ⟨h0, h1, h2, h3, h4⟩ := lay_19w5_14w5_0w14 hw hy rfl rfl rfl rfl
  rw [decodeNat, h0, decodeA, h1, h2, h3, h4]
  rfl

theorem ldN16 (d a : BitVec 5) (o : BitVec 14) : Statement (.ldN16 d a o) := by
  refine of_code rfl fun w y hw hy => ?_
  obtain ⟨h0, h1, h2, h3, h4⟩ := lay_19w5_14w5_0w14 hw hy rfl rfl rfl rfl
  rw [decodeNat, h0, decodeA, h1, h2, h3, h4]
  rfl

theorem ldI32 (d a : BitVec 5) (o : BitVec 14) : Statement (.ldI32 d a o) := by
  refine of_code rfl fun w y hw hy => ?_
  obtain ⟨h0, h1, h2, h3, h4⟩ := lay_19w5_14w5_0w14 hw hy rfl rfl rfl rfl
  rw [decodeNat, h0, decodeA, h1, h2, h3, h4]
  rfl

theorem stI8 (d a : BitVec 5) (o : BitVec 14) : Statement (.stI8 d a o) := by
  refine of_code rfl fun w y hw hy => ?_
  obtain ⟨h0, h1, h2, h3, h4⟩ := lay_19w5_14w5_0w14 hw hy rfl rfl rfl rfl
  rw [decodeNat, h0, decodeA, h1, h2, h3, h4]
  rfl

theorem stI16 (d a : BitVec 5) (o : BitVec 14) : Statement (.stI16 d a o) := by
  refine of_code rfl fun w y hw hy => ?_
  obtain ⟨h0, h1, h2, h3, h4⟩ := lay_19w5_14w5_0w14 hw hy rfl rfl rfl rfl
  rw [decodeNat, h0, decodeA, h1, h2, h3, h4]
  rfl

theorem stI32 (d a : BitVec 5) (o : BitVec 14) : Statement (.stI32 d a o) := by
  refine of_code rfl fun w y hw hy => ?_
  obtain ⟨h0, h1, h2, h3, h4⟩ := lay_19w5_14w5_0w14 hw hy rfl rfl rfl rfl
  rw [decodeNat, h0, decodeA, h1, h2, h3, h4]
  rfl

theorem ldc (d a : BitVec 5) (o : BitVec 14) : Statement (.ldc d a o) := by
  refine of_code rfl fun w y hw hy => ?_
  obtain ⟨h0, h1, h2, h3, h4⟩ := lay_19w5_14w5_0w14 hw hy rfl rfl rfl rfl
  rw [decodeNat, h0, decodeA, h1, h2, h3, h4]
  rfl

theorem vld (v : BitVec 6) (a : BitVec 5) (p : BitVec 3) (o : BitVec 10) : Statement (.vld v a p o) := by
  refine of_code rfl fun w y hw hy => ?_
  obtain ⟨h0, h1, h2, h3, h4, h5⟩ := lay_18w6_13w5_10w3_0w10 hw hy rfl rfl rfl rfl rfl
  rw [decodeNat, h0, decodeA, h1, h2, h3, h4, h5]
  rfl

theorem vst (v : BitVec 6) (a : BitVec 5) (p : BitVec 3) (o : BitVec 10) : Statement (.vst v a p o) := by
  refine of_code rfl fun w y hw hy => ?_
  obtain ⟨h0, h1, h2, h3, h4, h5⟩ := lay_18w6_13w5_10w3_0w10 hw hy rfl rfl rfl rfl rfl
  rw [decodeNat, h0, decodeA, h1, h2, h3, h4, h5]
  rfl

theorem vlds (v : BitVec 6) (a : BitVec 5) (p : BitVec 3) (b : BitVec 5) : Statement (.vlds v a p b) := by
  refine of_code rfl fun w y hw hy => ?_
  obtain ⟨h0, h1, h2, h3, h4, h5, h6⟩ := lay_18w6_13w5_10w3_5w5 hw hy rfl rfl rfl rfl rfl
  rw [decodeNat, h0, decodeA, h1, h2, h3, h4, h5, h6]
  rfl

theorem vsts (v : BitVec 6) (a : BitVec 5) (p : BitVec 3) (b : BitVec 5) : Statement (.vsts v a p b) := by
  refine of_code rfl fun w y hw hy => ?_
  obtain ⟨h0, h1, h2, h3, h4, h5, h6⟩ := lay_18w6_13w5_10w3_5w5 hw hy rfl rfl rfl rfl rfl
  rw [decodeNat, h0, decodeA, h1, h2, h3, h4, h5, h6]
  rfl

theorem vldx (v : BitVec 6) (a : BitVec 5) (p : BitVec 3) (x : BitVec 6) (e : BitVec 2) : Statement (.vldx v a p x e) := by
  by_cases good : e = 0 ∨ e = 1 ∨ e = 2
  swap
  · refine ill ?_
    show Option.isNone (selCause (e == 3)) = false
    revert good; revert e; decide
  refine of_code rfl fun w y hw hy => ?_
  obtain ⟨h0, h1, h2, h3, h4, h5, h6, h7, h8⟩ := lay_18w6_13w5_10w3_4w6_2w2 hw hy rfl rfl rfl rfl rfl rfl
  rcases good with rfl | rfl | rfl <;> (rw [decodeNat, h0, decodeA, h1, h2, h3, h4, h5, h6, h7, h8]; rfl)

theorem vstx (v : BitVec 6) (a : BitVec 5) (p : BitVec 3) (x : BitVec 6) (e : BitVec 2) : Statement (.vstx v a p x e) := by
  by_cases good : e = 0 ∨ e = 1 ∨ e = 2
  swap
  · refine ill ?_
    show Option.isNone (selCause (e == 3)) = false
    revert good; revert e; decide
  refine of_code rfl fun w y hw hy => ?_
  obtain ⟨h0, h1, h2, h3, h4, h5, h6, h7, h8⟩ := lay_18w6_13w5_10w3_4w6_2w2 hw hy rfl rfl rfl rfl rfl rfl
  rcases good with rfl | rfl | rfl <;> (rw [decodeNat, h0, decodeA, h1, h2, h3, h4, h5, h6, h7, h8]; rfl)

theorem vldc (v : BitVec 6) (a : BitVec 5) (p : BitVec 3) (o : BitVec 10) : Statement (.vldc v a p o) := by
  refine of_code rfl fun w y hw hy => ?_
  obtain ⟨h0, h1, h2, h3, h4, h5⟩ := lay_18w6_13w5_10w3_0w10 hw hy rfl rfl rfl rfl rfl
  rw [decodeNat, h0, decodeA, h1, h2, h3, h4, h5]
  rfl

theorem qld (q : BitVec 6) (a : BitVec 5) (o : BitVec 10) : Statement (.qld q a o) := by
  refine of_code rfl fun w y hw hy => ?_
  obtain ⟨h0, h1, h2, h3, h4, h5⟩ := lay_18w6_13w5_0w10 hw hy rfl rfl rfl rfl
  rw [decodeNat, h0, decodeA, h1, h2, h3, h4, h5]
  rfl

theorem qst (q : BitVec 6) (a : BitVec 5) (o : BitVec 10) : Statement (.qst q a o) := by
  refine of_code rfl fun w y hw hy => ?_
  obtain ⟨h0, h1, h2, h3, h4, h5⟩ := lay_18w6_13w5_0w10 hw hy rfl rfl rfl rfl
  rw [decodeNat, h0, decodeA, h1, h2, h3, h4, h5]
  rfl

theorem amoswap (d a b : BitVec 5) : Statement (.amoswap d a b) := by
  refine of_code rfl fun w y hw hy => ?_
  obtain ⟨h0, h1, h2, h3, h4, h5, -, -⟩ := lay_19w5_14w5_9w5 hw hy rfl rfl rfl rfl
  rw [decodeNat, h0, decodeA, h1, decodeA2A, h2, h3, h4, h5]
  rfl

theorem amoadd (d a b : BitVec 5) : Statement (.amoadd d a b) := by
  refine of_code rfl fun w y hw hy => ?_
  obtain ⟨h0, h1, h2, h3, h4, h5, -, -⟩ := lay_19w5_14w5_9w5 hw hy rfl rfl rfl rfl
  rw [decodeNat, h0, decodeA, h1, decodeA2A, h2, h3, h4, h5]
  rfl

theorem amoand (d a b : BitVec 5) : Statement (.amoand d a b) := by
  refine of_code rfl fun w y hw hy => ?_
  obtain ⟨h0, h1, h2, h3, h4, h5, -, -⟩ := lay_19w5_14w5_9w5 hw hy rfl rfl rfl rfl
  rw [decodeNat, h0, decodeA, h1, decodeA2A, h2, h3, h4, h5]
  rfl

theorem amoor (d a b : BitVec 5) : Statement (.amoor d a b) := by
  refine of_code rfl fun w y hw hy => ?_
  obtain ⟨h0, h1, h2, h3, h4, h5, -, -⟩ := lay_19w5_14w5_9w5 hw hy rfl rfl rfl rfl
  rw [decodeNat, h0, decodeA, h1, decodeA2A, h2, h3, h4, h5]
  rfl

theorem amoxor (d a b : BitVec 5) : Statement (.amoxor d a b) := by
  refine of_code rfl fun w y hw hy => ?_
  obtain ⟨h0, h1, h2, h3, h4, h5, -, -⟩ := lay_19w5_14w5_9w5 hw hy rfl rfl rfl rfl
  rw [decodeNat, h0, decodeA, h1, decodeA2A, h2, h3, h4, h5]
  rfl

theorem amomin (d a b : BitVec 5) : Statement (.amomin d a b) := by
  refine of_code rfl fun w y hw hy => ?_
  obtain ⟨h0, h1, h2, h3, h4, h5, -, -⟩ := lay_19w5_14w5_9w5 hw hy rfl rfl rfl rfl
  rw [decodeNat, h0, decodeA, h1, decodeA2A, h2, h3, h4, h5]
  rfl

theorem amomax (d a b : BitVec 5) : Statement (.amomax d a b) := by
  refine of_code rfl fun w y hw hy => ?_
  obtain ⟨h0, h1, h2, h3, h4, h5, -, -⟩ := lay_19w5_14w5_9w5 hw hy rfl rfl rfl rfl
  rw [decodeNat, h0, decodeA, h1, decodeA2A, h2, h3, h4, h5]
  rfl

theorem amominn (d a b : BitVec 5) : Statement (.amominn d a b) := by
  refine of_code rfl fun w y hw hy => ?_
  obtain ⟨h0, h1, h2, h3, h4, h5, -, -⟩ := lay_19w5_14w5_9w5 hw hy rfl rfl rfl rfl
  rw [decodeNat, h0, decodeA, h1, decodeA2A, h2, h3, h4, h5]
  rfl

theorem amomaxn (d a b : BitVec 5) : Statement (.amomaxn d a b) := by
  refine of_code rfl fun w y hw hy => ?_
  obtain ⟨h0, h1, h2, h3, h4, h5, -, -⟩ := lay_19w5_14w5_9w5 hw hy rfl rfl rfl rfl
  rw [decodeNat, h0, decodeA, h1, decodeA2A, h2, h3, h4, h5]
  rfl

theorem amocas (d a b : BitVec 5) : Statement (.amocas d a b) := by
  refine of_code rfl fun w y hw hy => ?_
  obtain ⟨h0, h1, h2, h3, h4, h5, -, -⟩ := lay_19w5_14w5_9w5 hw hy rfl rfl rfl rfl
  rw [decodeNat, h0, decodeA, h1, decodeA2A, h2, h3, h4, h5]
  rfl

theorem movws (v : BitVec 6) (d : BitVec 5) (l : BitVec 4) : Statement (.movws v d l) := by
  refine of_code rfl fun w y hw hy => ?_
  obtain ⟨h0, h1, h2, h3, h4, h5⟩ := lay_18w6_13w5_0w4 hw hy rfl rfl rfl rfl
  rw [decodeNat, h0, decodeA, h1, h2, h3, h4, h5]
  rfl

theorem gang (n : BitVec 2) : Statement (.gang n) := by
  by_cases good : n = 1 ∨ n = 2 ∨ n = 3
  swap
  · refine ill ?_
    show Option.isNone (selCause (n == 0)) = false
    revert good; revert n; decide
  refine of_code rfl fun w y hw hy => ?_
  obtain ⟨h0, h1, h2, h3, h4⟩ := lay_0w2 hw hy rfl rfl
  rcases good with rfl | rfl | rfl <;> (rw [decodeNat, h0, decodeA, h1, h2, h3, h4]; rfl)

theorem split : Statement (.split) := by
  refine of_code rfl fun w y hw hy => ?_
  obtain ⟨h0, h1, h2, -, -, -, -⟩ := lay_none hw hy rfl
  rw [decodeNat, h0, decodeA, h1, h2]
  rfl

theorem barw (b : BitVec 9) : Statement (.barw b) := by
  refine of_code rfl fun w y hw hy => ?_
  obtain ⟨h0, h1, h2, h3, h4, h5⟩ := lay_0w9 hw hy rfl rfl
  rw [decodeNat, h0, decodeA, h1, decodeA2E, h2, h3, h4, h5]
  rfl

theorem bara (b : BitVec 9) : Statement (.bara b) := by
  refine of_code rfl fun w y hw hy => ?_
  obtain ⟨h0, h1, h2, h3, h4, h5⟩ := lay_0w9 hw hy rfl rfl
  rw [decodeNat, h0, decodeA, h1, decodeA2E, h2, h3, h4, h5]
  rfl

theorem barwt (b : BitVec 9) : Statement (.barwt b) := by
  refine of_code rfl fun w y hw hy => ?_
  obtain ⟨h0, h1, h2, h3, h4, h5⟩ := lay_0w9 hw hy rfl rfl
  rw [decodeNat, h0, decodeA, h1, decodeA2E, h2, h3, h4, h5]
  rfl

theorem trap (a : BitVec 5) (n : BitVec 6) : Statement (.trap a n) := by
  refine of_code rfl fun w y hw hy => ?_
  obtain ⟨h0, h1, h2, h3, h4, h5⟩ := lay_14w5_0w6 hw hy rfl rfl rfl
  rw [decodeNat, h0, decodeA, h1, h2, h3, h4, h5]
  rfl

theorem eret : Statement (.eret) := by
  refine of_code rfl fun w y hw hy => ?_
  obtain ⟨h0, h1, h2, -, -, -, -⟩ := lay_none hw hy rfl
  rw [decodeNat, h0, decodeA, h1, h2]
  rfl

theorem rgn : Statement (.rgn) := by
  refine of_code rfl fun w y hw hy => ?_
  obtain ⟨h0, h1, -, h2, h3, -, -⟩ := lay_none hw hy rfl
  rw [decodeNat, h0, decodeA, h1, decodeA31, h2, h3]
  rfl

theorem rgnA : Statement (.rgnA) := by
  refine of_code rfl fun w y hw hy => ?_
  obtain ⟨h0, h1, -, h2, h3, -, -⟩ := lay_none hw hy rfl
  rw [decodeNat, h0, decodeA, h1, decodeA31, h2, h3]
  rfl

theorem abort (a : BitVec 5) : Statement (.abort a) := by
  refine of_code rfl fun w y hw hy => ?_
  obtain ⟨h0, h1, h2, h3, h4, h5, -, -⟩ := lay_14w5 hw hy rfl rfl
  rw [decodeNat, h0, decodeA, h1, decodeA31, h2, h3, h4, h5]
  rfl

theorem rgnq (d : BitVec 5) : Statement (.rgnq d) := by
  refine of_code rfl fun w y hw hy => ?_
  obtain ⟨h0, h1, h2, h3, h4, -, -⟩ := lay_19w5 hw hy rfl rfl
  rw [decodeNat, h0, decodeA, h1, decodeA31, h2, h3, h4]
  rfl

theorem trcr (d a b : BitVec 5) : Statement (.trcr d a b) := by
  refine of_code rfl fun w y hw hy => ?_
  obtain ⟨h0, h1, h2, h3, h4, h5, -, -⟩ := lay_19w5_14w5_9w5 hw hy rfl rfl rfl rfl
  rw [decodeNat, h0, decodeA, h1, decodeA31, h2, h3, h4, h5]
  rfl

theorem trcc (d a b : BitVec 5) : Statement (.trcc d a b) := by
  refine of_code rfl fun w y hw hy => ?_
  obtain ⟨h0, h1, h2, h3, h4, h5, -, -⟩ := lay_19w5_14w5_9w5 hw hy rfl rfl rfl rfl
  rw [decodeNat, h0, decodeA, h1, decodeA31, h2, h3, h4, h5]
  rfl

theorem mwld (t a b : BitVec 5) (f : BitVec 3) : Statement (.mwld t a b f) := by
  by_cases good : f = 0 ∨ f = 1 ∨ f = 2 ∨ f = 3 ∨ f = 4
  swap
  · have hs : selCause (5 ≤ f.toNat) = some 0x006 := by revert good; revert f; decide
    refine ill ?_
    show (Option.orElse (selCause (5 ≤ f.toNat)) _).isNone = false
    rw [hs]
    rfl
  by_cases hb : f.toNat < 3 ∧ b ≠ 0
  · refine ill ?_
    obtain ⟨hf, hb⟩ := hb
    have hs : selCause (5 ≤ f.toNat) = none := by rw [decide_eq_false (by omega)]; rfl
    show (Option.orElse (selCause (5 ≤ f.toNat)) fun _ => if f.toNat < 3 ∧ b ≠ 0 then some 0x007 else none).isNone = false
    rw [hs, if_pos ⟨hf, hb⟩]
    rfl
  refine of_code rfl fun w y hw hy => ?_
  obtain ⟨h0, h1, h2, h3, h4, h5, h6, h7, h8, h9⟩ := lay_19w5_14w5_9w5_4w3 hw hy rfl rfl rfl rfl rfl
  have g : ¬ 3 ≤ f.toNat → b.toNat = 0 := fun h => by
    by_contra hn
    exact hb ⟨by omega, fun e => hn (by rw [e]; rfl)⟩
  rcases good with rfl | rfl | rfl | rfl | rfl <;>
    (rw [decodeNat, h0, decodeA, h1, decodeA32, h2, h3, h4, h5, h6, h7, h8, h9]; first | rfl | (rw [g (by decide)]; rfl))

theorem mmaBf16 (t a b c : BitVec 5) : Statement (.mmaBf16 t a b c) := by
  refine of_code rfl fun w y hw hy => ?_
  obtain ⟨h0, h1, h2, h3, h4, h5, h6, -, -⟩ := lay_19w5_14w5_9w5_4w5 hw hy rfl rfl rfl rfl rfl
  rw [decodeNat, h0, decodeA, h1, decodeA32, h2, h3, h4, h5, h6]
  rfl

theorem mmaE4m3 (t a b c : BitVec 5) : Statement (.mmaE4m3 t a b c) := by
  refine of_code rfl fun w y hw hy => ?_
  obtain ⟨h0, h1, h2, h3, h4, h5, h6, -, -⟩ := lay_19w5_14w5_9w5_4w5 hw hy rfl rfl rfl rfl rfl
  rw [decodeNat, h0, decodeA, h1, decodeA32, h2, h3, h4, h5, h6]
  rfl

theorem mmaE5m2 (t a b c : BitVec 5) : Statement (.mmaE5m2 t a b c) := by
  refine of_code rfl fun w y hw hy => ?_
  obtain ⟨h0, h1, h2, h3, h4, h5, h6, -, -⟩ := lay_19w5_14w5_9w5_4w5 hw hy rfl rfl rfl rfl rfl
  rw [decodeNat, h0, decodeA, h1, decodeA32, h2, h3, h4, h5, h6]
  rfl

theorem mmaB4 (t a b c : BitVec 5) : Statement (.mmaB4 t a b c) := by
  refine of_code rfl fun w y hw hy => ?_
  obtain ⟨h0, h1, h2, h3, h4, h5, h6, -, -⟩ := lay_19w5_14w5_9w5_4w5 hw hy rfl rfl rfl rfl rfl
  rw [decodeNat, h0, decodeA, h1, decodeA32, h2, h3, h4, h5, h6]
  rfl

theorem mmasBf16 (t a b c : BitVec 5) : Statement (.mmasBf16 t a b c) := by
  refine of_code rfl fun w y hw hy => ?_
  obtain ⟨h0, h1, h2, h3, h4, h5, h6, -, -⟩ := lay_19w5_14w5_9w5_4w5 hw hy rfl rfl rfl rfl rfl
  rw [decodeNat, h0, decodeA, h1, decodeA32, h2, h3, h4, h5, h6]
  rfl

theorem mmasE4m3 (t a b c : BitVec 5) : Statement (.mmasE4m3 t a b c) := by
  refine of_code rfl fun w y hw hy => ?_
  obtain ⟨h0, h1, h2, h3, h4, h5, h6, -, -⟩ := lay_19w5_14w5_9w5_4w5 hw hy rfl rfl rfl rfl rfl
  rw [decodeNat, h0, decodeA, h1, decodeA32, h2, h3, h4, h5, h6]
  rfl

theorem mmasE5m2 (t a b c : BitVec 5) : Statement (.mmasE5m2 t a b c) := by
  refine of_code rfl fun w y hw hy => ?_
  obtain ⟨h0, h1, h2, h3, h4, h5, h6, -, -⟩ := lay_19w5_14w5_9w5_4w5 hw hy rfl rfl rfl rfl rfl
  rw [decodeNat, h0, decodeA, h1, decodeA32, h2, h3, h4, h5, h6]
  rfl

theorem mmasB4 (t a b c : BitVec 5) : Statement (.mmasB4 t a b c) := by
  refine of_code rfl fun w y hw hy => ?_
  obtain ⟨h0, h1, h2, h3, h4, h5, h6, -, -⟩ := lay_19w5_14w5_9w5_4w5 hw hy rfl rfl rfl rfl rfl
  rw [decodeNat, h0, decodeA, h1, decodeA32, h2, h3, h4, h5, h6]
  rfl

theorem mzero (t b : BitVec 5) (k : BitVec 1) : Statement (.mzero t b k) := by
  refine of_code rfl fun w y hw hy => ?_
  obtain ⟨h0, h1, h2, h3, h4, h5, h6, h7⟩ := lay_19w5_9w5_4w1 hw hy rfl rfl rfl rfl
  rw [decodeNat, h0, decodeA, h1, decodeA32, h2, h3, h4, h5, h6, h7]
  rfl

theorem mdrain (t a b : BitVec 5) (o : BitVec 3) : Statement (.mdrain t a b o) := by
  refine of_code rfl fun w y hw hy => ?_
  obtain ⟨h0, h1, h2, -, h3, -, h4, h5, h6, h7⟩ := lay_19w5_14w5_9w5_4w3 hw hy rfl rfl rfl rfl rfl
  rw [decodeNat, h0, decodeA, h1, decodeA32, h2, h3, h4, h5, h6, h7]
  rfl

theorem mdrainBf16 (t a b : BitVec 5) (o : BitVec 2) : Statement (.mdrainBf16 t a b o) := by
  refine of_code rfl fun w y hw hy => ?_
  obtain ⟨h0, h1, h2, h3, h4, h5, h6, h7⟩ := lay_19w5_14w5_9w5_4w2 hw hy rfl rfl rfl rfl rfl
  rw [decodeNat, h0, decodeA, h1, decodeA32, h2, h3, h4, h5, h6, h7]
  rfl

theorem mwait (t : BitVec 5) : Statement (.mwait t) := by
  refine of_code rfl fun w y hw hy => ?_
  obtain ⟨h0, h1, -, -, h4, h2, h3⟩ := lay_19w5 hw hy rfl rfl
  rw [decodeNat, h0, decodeA, h1, decodeA32, h2, h3, h4]
  rfl

theorem mqry (t : BitVec 5) (k : BitVec 4) : Statement (.mqry t k) := by
  refine of_code rfl fun w y hw hy => ?_
  obtain ⟨h0, h1, h2, h3, h4, h5⟩ := lay_19w5_4w4 hw hy rfl rfl rfl
  rw [decodeNat, h0, decodeA, h1, decodeA32, h2, h3, h4, h5]
  rfl

theorem cpy (t a c : BitVec 5) : Statement (.cpy t a c) := by
  refine of_code rfl fun w y hw hy => ?_
  obtain ⟨h0, h1, h2, h3, h4, h5, h6, -⟩ := lay_19w5_14w5_4w5 hw hy rfl rfl rfl rfl
  rw [decodeNat, h0, decodeA, h1, decodeA33, h2, h3, h4, h5, h6]
  rfl

theorem pull (t a b c : BitVec 5) : Statement (.pull t a b c) := by
  refine of_code rfl fun w y hw hy => ?_
  obtain ⟨h0, h1, h2, h3, h4, h5, h6, -, -⟩ := lay_19w5_14w5_9w5_4w5 hw hy rfl rfl rfl rfl rfl
  rw [decodeNat, h0, decodeA, h1, decodeA33, h2, h3, h4, h5, h6]
  rfl

theorem pullc (t a b c : BitVec 5) : Statement (.pullc t a b c) := by
  refine of_code rfl fun w y hw hy => ?_
  obtain ⟨h0, h1, h2, h3, h4, h5, h6, -, -⟩ := lay_19w5_14w5_9w5_4w5 hw hy rfl rfl rfl rfl rfl
  rw [decodeNat, h0, decodeA, h1, decodeA33, h2, h3, h4, h5, h6]
  rfl

theorem pulld (t a b c : BitVec 5) : Statement (.pulld t a b c) := by
  refine of_code rfl fun w y hw hy => ?_
  obtain ⟨h0, h1, h2, h5, h7, h8, h6, h3, h4⟩ := lay_19w5_14w5_9w5_4w5 hw hy rfl rfl rfl rfl rfl
  rw [decodeNat, h0, decodeA, h1, decodeA33, h2, h3, h4, h5, h6, h7, h8]
  by_cases h : a = 0 ∧ b = 0
  · obtain ⟨rfl, rfl⟩ := h; rfl
  · have g : ¬ (a.toNat = 0 ∧ b.toNat = 0) := fun g => h ⟨BitVec.eq_of_toNat_eq g.1, BitVec.eq_of_toNat_eq g.2⟩
    rw [Instr.canon, if_neg h]
    exact if_neg g

theorem pulldVerify (t c : BitVec 5) : Statement (.pulldVerify t c) := by
  refine of_code rfl fun w y hw hy => ?_
  obtain ⟨h0, h1, h2, h3, h4, h5, h6, h7, h8⟩ := lay_19w5_4w5 hw hy rfl rfl rfl
  rw [decodeNat, h0, decodeA, h1, decodeA33, h2, h3, h4, h5, h6, h7, h8]
  rfl

theorem watch (t a b c : BitVec 5) : Statement (.watch t a b c) := by
  refine of_code rfl fun w y hw hy => ?_
  obtain ⟨h0, h1, h2, h3, h4, h5, h6, -, -⟩ := lay_19w5_14w5_9w5_4w5 hw hy rfl rfl rfl rfl rfl
  rw [decodeNat, h0, decodeA, h1, decodeA33, h2, h3, h4, h5, h6]
  rfl

theorem watcht (t a b c : BitVec 5) : Statement (.watcht t a b c) := by
  refine of_code rfl fun w y hw hy => ?_
  obtain ⟨h0, h1, h2, h3, h4, h5, h6, -, -⟩ := lay_19w5_14w5_9w5_4w5 hw hy rfl rfl rfl rfl rfl
  rw [decodeNat, h0, decodeA, h1, decodeA33, h2, h3, h4, h5, h6]
  rfl

theorem seqadv (a b : BitVec 5) : Statement (.seqadv a b) := by
  refine of_code rfl fun w y hw hy => ?_
  obtain ⟨h0, h1, h2, h3, h4, h5, h6⟩ := lay_14w5_9w5 hw hy rfl rfl rfl
  rw [decodeNat, h0, decodeA, h1, decodeA33, h2, h3, h4, h5, h6]
  rfl

theorem wcancel (t : BitVec 5) : Statement (.wcancel t) := by
  refine of_code rfl fun w y hw hy => ?_
  obtain ⟨h0, h1, -, -, h4, h2, h3⟩ := lay_19w5 hw hy rfl rfl
  rw [decodeNat, h0, decodeA, h1, decodeA33, h2, h3, h4]
  rfl

theorem ldg (d a b : BitVec 5) (k : BitVec 9) : Statement (.ldg d a b k) := by
  refine of_code rfl fun w y hw hy => ?_
  obtain ⟨h0, h1, h2, h3, h4, h5⟩ := lay_19w5_14w5_9w5_0w9 hw hy rfl rfl rfl rfl rfl
  rw [decodeNat, h0, decodeA, h1, h2, h3, h4, h5]
  rfl

theorem seqldA (d a b : BitVec 5) : Statement (.seqldA d a b) := by
  refine of_code rfl fun w y hw hy => ?_
  obtain ⟨h0, h1, h2, h3, h4, h5, -, -⟩ := lay_19w5_14w5_9w5 hw hy rfl rfl rfl rfl
  rw [decodeNat, h0, decodeA, h1, h2, h3, h4, h5]
  rfl

theorem tpart (a c : BitVec 5) : Statement (.tpart a c) := by
  refine of_code rfl fun w y hw hy => ?_
  obtain ⟨h0, h1, h2, h3, h4, h5, h6⟩ := lay_14w5_4w5 hw hy rfl rfl rfl
  rw [decodeNat, h0, decodeA, h1, decodeA36, h2, h3, h4, h5, h6]
  rfl

theorem talloc (t a b c : BitVec 5) : Statement (.talloc t a b c) := by
  refine of_code rfl fun w y hw hy => ?_
  obtain ⟨h0, h1, h2, h3, h4, h5, h6, -, -⟩ := lay_19w5_14w5_9w5_4w5 hw hy rfl rfl rfl rfl rfl
  rw [decodeNat, h0, decodeA, h1, decodeA36, h2, h3, h4, h5, h6]
  rfl

theorem tallocn (t a b c : BitVec 5) : Statement (.tallocn t a b c) := by
  refine of_code rfl fun w y hw hy => ?_
  obtain ⟨h0, h1, h2, h3, h4, h5, h6, -, -⟩ := lay_19w5_14w5_9w5_4w5 hw hy rfl rfl rfl rfl rfl
  rw [decodeNat, h0, decodeA, h1, decodeA36, h2, h3, h4, h5, h6]
  rfl

theorem tqry (t a q : BitVec 5) : Statement (.tqry t a q) := by
  by_cases good : q = 0 ∨ q = 1 ∨ q = 2
  swap
  · have hs : selCause (3 ≤ q.toNat) = some 0x006 := by revert good; revert q; decide
    refine ill ?_
    show (Option.orElse (selCause (3 ≤ q.toNat)) _).isNone = false
    rw [hs]
    rfl
  refine of_code rfl fun w y hw hy => ?_
  obtain ⟨h0, h1, h2, h4, h5, h6, h7, h3⟩ := lay_19w5_14w5_4w5 hw hy rfl rfl rfl rfl
  rcases good with rfl | rfl | rfl <;> (rw [decodeNat, h0, decodeA, h1, decodeA36, h2, h3, h4, h5, h6, h7]; rfl)

theorem taban (a b : BitVec 5) : Statement (.taban a b) := by
  refine of_code rfl fun w y hw hy => ?_
  obtain ⟨h0, h1, h2, h3, h4, h5, h6⟩ := lay_14w5_9w5 hw hy rfl rfl rfl
  rw [decodeNat, h0, decodeA, h1, decodeA36, h2, h3, h4, h5, h6]
  rfl

theorem ropen (t a b : BitVec 5) : Statement (.ropen t a b) := by
  refine of_code rfl fun w y hw hy => ?_
  obtain ⟨h0, h1, -, h4, h5, h6, h2, h3⟩ := lay_19w5_14w5_9w5 hw hy rfl rfl rfl rfl
  rw [decodeNat, h0, decodeA, h1, decodeA37, h2, h3, h4, h5, h6]
  rfl

theorem rclose (a : BitVec 5) : Statement (.rclose a) := by
  refine of_code rfl fun w y hw hy => ?_
  obtain ⟨h0, h1, -, -, h4, h5, h2, h3⟩ := lay_14w5 hw hy rfl rfl
  rw [decodeNat, h0, decodeA, h1, decodeA37, h2, h3, h4, h5]
  rfl

theorem send (t a b c : BitVec 5) : Statement (.send t a b c) := by
  refine of_code rfl fun w y hw hy => ?_
  obtain ⟨h0, h1, h2, h3, h4, h5, h6, -, -⟩ := lay_19w5_14w5_9w5_4w5 hw hy rfl rfl rfl rfl rfl
  rw [decodeNat, h0, decodeA, h1, decodeA37, h2, h3, h4, h5, h6]
  rfl

theorem sendv (t a b c : BitVec 5) : Statement (.sendv t a b c) := by
  refine of_code rfl fun w y hw hy => ?_
  obtain ⟨h0, h1, h2, h3, h4, h5, h6, -, -⟩ := lay_19w5_14w5_9w5_4w5 hw hy rfl rfl rfl rfl rfl
  rw [decodeNat, h0, decodeA, h1, decodeA37, h2, h3, h4, h5, h6]
  rfl

theorem recv (t a : BitVec 5) : Statement (.recv t a) := by
  refine of_code rfl fun w y hw hy => ?_
  obtain ⟨h0, h1, -, -, h4, h5, h2, h3⟩ := lay_19w5_14w5 hw hy rfl rfl rfl
  rw [decodeNat, h0, decodeA, h1, decodeA37, h2, h3, h4, h5]
  rfl

theorem recvn (t a : BitVec 5) : Statement (.recvn t a) := by
  refine of_code rfl fun w y hw hy => ?_
  obtain ⟨h0, h1, -, -, h4, h5, h2, h3⟩ := lay_19w5_14w5 hw hy rfl rfl rfl
  rw [decodeNat, h0, decodeA, h1, decodeA37, h2, h3, h4, h5]
  rfl

theorem submit (t a b : BitVec 5) : Statement (.submit t a b) := by
  refine of_code rfl fun w y hw hy => ?_
  obtain ⟨h0, h1, -, h4, h5, h6, h2, h3⟩ := lay_19w5_14w5_9w5 hw hy rfl rfl rfl rfl
  rw [decodeNat, h0, decodeA, h1, decodeA38, h2, h3, h4, h5, h6]
  rfl

theorem cancel (t a b : BitVec 5) : Statement (.cancel t a b) := by
  refine of_code rfl fun w y hw hy => ?_
  obtain ⟨h0, h1, -, h4, h5, h6, h2, h3⟩ := lay_19w5_14w5_9w5 hw hy rfl rfl rfl rfl
  rw [decodeNat, h0, decodeA, h1, decodeA38, h2, h3, h4, h5, h6]
  rfl

theorem yield (a b : BitVec 5) : Statement (.yield a b) := by
  refine of_code rfl fun w y hw hy => ?_
  obtain ⟨h0, h1, h2, h3, h4, h5, h6⟩ := lay_14w5_9w5 hw hy rfl rfl rfl
  rw [decodeNat, h0, decodeA, h1, decodeA38, h2, h3, h4, h5, h6]
  rfl

theorem retire : Statement (.retire) := by
  refine of_code rfl fun w y hw hy => ?_
  obtain ⟨h0, h1, -, -, -, h2, h3⟩ := lay_none hw hy rfl
  rw [decodeNat, h0, decodeA, h1, decodeA38, h2, h3]
  rfl

theorem sleept (a b : BitVec 5) : Statement (.sleept a b) := by
  refine of_code rfl fun w y hw hy => ?_
  obtain ⟨h0, h1, h2, h3, h4, h5, h6⟩ := lay_14w5_9w5 hw hy rfl rfl rfl
  rw [decodeNat, h0, decodeA, h1, decodeA38, h2, h3, h4, h5, h6]
  rfl

theorem subat (t a b c : BitVec 5) : Statement (.subat t a b c) := by
  refine of_code rfl fun w y hw hy => ?_
  obtain ⟨h0, h1, h2, h3, h4, h5, h6, -, -⟩ := lay_19w5_14w5_9w5_4w5 hw hy rfl rfl rfl rfl rfl
  rw [decodeNat, h0, decodeA, h1, decodeA38, h2, h3, h4, h5, h6]
  rfl

theorem qstat (t a : BitVec 5) : Statement (.qstat t a) := by
  refine of_code rfl fun w y hw hy => ?_
  obtain ⟨h0, h1, -, -, h4, h5, h2, h3⟩ := lay_19w5_14w5 hw hy rfl rfl rfl
  rw [decodeNat, h0, decodeA, h1, decodeA38, h2, h3, h4, h5]
  rfl

theorem fpin (t a b : BitVec 5) : Statement (.fpin t a b) := by
  refine of_code rfl fun w y hw hy => ?_
  obtain ⟨h0, h1, -, h4, h5, h6, h2, h3⟩ := lay_19w5_14w5_9w5 hw hy rfl rfl rfl rfl
  rw [decodeNat, h0, decodeA, h1, decodeA38, h2, h3, h4, h5, h6]
  rfl

theorem rkreg (t a b c : BitVec 5) : Statement (.rkreg t a b c) := by
  refine of_code rfl fun w y hw hy => ?_
  obtain ⟨h0, h1, h2, h3, h4, h5, h6, -, -⟩ := lay_19w5_14w5_9w5_4w5 hw hy rfl rfl rfl rfl rfl
  rw [decodeNat, h0, decodeA, h1, decodeA39, h2, h3, h4, h5, h6]
  rfl

theorem rkrev (a : BitVec 5) : Statement (.rkrev a) := by
  refine of_code rfl fun w y hw hy => ?_
  obtain ⟨h0, h1, -, -, h4, h5, h2, h3⟩ := lay_14w5 hw hy rfl rfl
  rw [decodeNat, h0, decodeA, h1, decodeA39, h2, h3, h4, h5]
  rfl

theorem ckreg (t a b : BitVec 5) : Statement (.ckreg t a b) := by
  refine of_code rfl fun w y hw hy => ?_
  obtain ⟨h0, h1, -, h4, h5, h6, h2, h3⟩ := lay_19w5_14w5_9w5 hw hy rfl rfl rfl rfl
  rw [decodeNat, h0, decodeA, h1, decodeA39, h2, h3, h4, h5, h6]
  rfl

theorem ckdel (t a : BitVec 5) : Statement (.ckdel t a) := by
  refine of_code rfl fun w y hw hy => ?_
  obtain ⟨h0, h1, -, -, h4, h5, h2, h3⟩ := lay_19w5_14w5 hw hy rfl rfl rfl
  rw [decodeNat, h0, decodeA, h1, decodeA39, h2, h3, h4, h5]
  rfl

theorem hovrTake (t a b c : BitVec 5) : Statement (.hovrTake t a b c) := by
  refine of_code rfl fun w y hw hy => ?_
  obtain ⟨h0, h1, h2, h3, h4, h5, h6, -, -⟩ := lay_19w5_14w5_9w5_4w5 hw hy rfl rfl rfl rfl rfl
  rw [decodeNat, h0, decodeA, h1, decodeA3A, h2, h3, h4, h5, h6]
  rfl

theorem hovrGive (t a b c : BitVec 5) : Statement (.hovrGive t a b c) := by
  refine of_code rfl fun w y hw hy => ?_
  obtain ⟨h0, h1, h2, h3, h4, h5, h6, -, -⟩ := lay_19w5_14w5_9w5_4w5 hw hy rfl rfl rfl rfl rfl
  rw [decodeNat, h0, decodeA, h1, decodeA3A, h2, h3, h4, h5, h6]
  rfl

theorem plbinv (t a b c : BitVec 5) : Statement (.plbinv t a b c) := by
  refine of_code rfl fun w y hw hy => ?_
  obtain ⟨h0, h1, h2, h3, h4, h5, h6, -, -⟩ := lay_19w5_14w5_9w5_4w5 hw hy rfl rfl rfl rfl rfl
  rw [decodeNat, h0, decodeA, h1, decodeA3A, h2, h3, h4, h5, h6]
  rfl

theorem xlinv (t a b c : BitVec 5) : Statement (.xlinv t a b c) := by
  refine of_code rfl fun w y hw hy => ?_
  obtain ⟨h0, h1, h2, h3, h4, h5, h6, -, -⟩ := lay_19w5_14w5_9w5_4w5 hw hy rfl rfl rfl rfl rfl
  rw [decodeNat, h0, decodeA, h1, decodeA3A, h2, h3, h4, h5, h6]
  rfl

theorem migrSeal (t c : BitVec 5) : Statement (.migrSeal t c) := by
  refine of_code rfl fun w y hw hy => ?_
  obtain ⟨h0, h1, h2, h3, h4, h5, h6, h7, h8⟩ := lay_19w5_4w5 hw hy rfl rfl rfl
  rw [decodeNat, h0, decodeA, h1, decodeA3A, h2, h3, h4, h5, h6, h7, h8]
  rfl

theorem migrTake (t a b c : BitVec 5) : Statement (.migrTake t a b c) := by
  refine of_code rfl fun w y hw hy => ?_
  obtain ⟨h0, h1, h2, h5, h7, h8, h6, h3, h4⟩ := lay_19w5_14w5_9w5_4w5 hw hy rfl rfl rfl rfl rfl
  rw [decodeNat, h0, decodeA, h1, decodeA3A, h2, h3, h4, h5, h6, h7, h8]
  by_cases h : a = 0 ∧ b = 0
  · obtain ⟨rfl, rfl⟩ := h; rfl
  · have g : ¬ (a.toNat = 0 ∧ b.toNat = 0) := fun g => h ⟨BitVec.eq_of_toNat_eq g.1, BitVec.eq_of_toNat_eq g.2⟩
    rw [Instr.canon, if_neg h]
    exact if_neg g

theorem migrDiscard (t c : BitVec 5) : Statement (.migrDiscard t c) := by
  refine of_code rfl fun w y hw hy => ?_
  obtain ⟨h0, h1, h2, h3, h4, h5, h6, h7, h8⟩ := lay_19w5_4w5 hw hy rfl rfl rfl
  rw [decodeNat, h0, decodeA, h1, decodeA3A, h2, h3, h4, h5, h6, h7, h8]
  rfl

theorem migrReclaim (t c : BitVec 5) : Statement (.migrReclaim t c) := by
  refine of_code rfl fun w y hw hy => ?_
  obtain ⟨h0, h1, h2, h3, h4, h5, h6, h7, h8⟩ := lay_19w5_4w5 hw hy rfl rfl rfl
  rw [decodeNat, h0, decodeA, h1, decodeA3A, h2, h3, h4, h5, h6, h7, h8]
  rfl

theorem nop (x : BitVec 24) : Statement (.nop x) := by
  refine of_code rfl fun w y hw hy => ?_
  obtain ⟨h0, h1, h2⟩ := lay_0w24 hw hy rfl rfl
  rw [decodeNat, h0, decodeA, h1, h2]
  rfl

theorem reservedHintA (m : BitVec 2) (x : BitVec 24) : Statement (.reservedHintA m x) := by
  by_cases good : m = 0 ∨ m = 1 ∨ m = 2
  swap
  · refine ill ?_
    show Option.isNone (if m = 3 then some 0x006 else none) = false
    revert good; revert m; decide
  refine of_code rfl fun w y hw hy => ?_
  obtain ⟨h0, h1, h2, h3⟩ := lay_24w2_0w24 hw hy rfl rfl rfl
  rcases good with rfl | rfl | rfl <;> (rw [decodeNat, h0, decodeA, h1, h2, h3]; rfl)

theorem reservedHintB (m : BitVec 3) (x : BitVec 23) : Statement (.reservedHintB m x) := by
  by_cases good : m = 0 ∨ m = 1 ∨ m = 2 ∨ m = 3 ∨ m = 4 ∨ m = 5 ∨ m = 6
  swap
  · refine ill ?_
    show Option.isNone (if m = 7 then some 0x006 else none) = false
    revert good; revert m; decide
  refine of_code rfl fun w y hw hy => ?_
  obtain ⟨h0, h1, h2, h3⟩ := lay_23w3_0w23 hw hy rfl rfl rfl
  rcases good with rfl | rfl | rfl | rfl | rfl | rfl | rfl <;> (rw [decodeNat, h0, decodeB, h1, h2, h3]; rfl)

theorem illegalInstruction (cause : BitVec 10) (word : BitVec 32) : Statement (.illegalInstruction cause word) := no_word rfl

theorem vaddI32 (d a b : BitVec 7) (g : BitVec 2) : Statement (.vaddI32 d a b g) := by
  refine of_code rfl fun w y hw hy => ?_
  obtain ⟨h0, h1, h2, h3, h4, h5⟩ := lay_16w7_9w7_2w7_0w2 hw hy rfl rfl rfl rfl rfl
  rw [decodeNat, h0, decodeB, h1, h2, h3, h4, h5]
  rfl

theorem vsubI32 (d a b : BitVec 7) (g : BitVec 2) : Statement (.vsubI32 d a b g) := by
  refine of_code rfl fun w y hw hy => ?_
  obtain ⟨h0, h1, h2, h3, h4, h5⟩ := lay_16w7_9w7_2w7_0w2 hw hy rfl rfl rfl rfl rfl
  rw [decodeNat, h0, decodeB, h1, h2, h3, h4, h5]
  rfl

theorem vmulI32 (d a b : BitVec 7) (g : BitVec 2) : Statement (.vmulI32 d a b g) := by
  refine of_code rfl fun w y hw hy => ?_
  obtain ⟨h0, h1, h2, h3, h4, h5⟩ := lay_16w7_9w7_2w7_0w2 hw hy rfl rfl rfl rfl rfl
  rw [decodeNat, h0, decodeB, h1, h2, h3, h4, h5]
  rfl

theorem vmulhI32 (d a b : BitVec 7) (g : BitVec 2) : Statement (.vmulhI32 d a b g) := by
  refine of_code rfl fun w y hw hy => ?_
  obtain ⟨h0, h1, h2, h3, h4, h5⟩ := lay_16w7_9w7_2w7_0w2 hw hy rfl rfl rfl rfl rfl
  rw [decodeNat, h0, decodeB, h1, h2, h3, h4, h5]
  rfl

theorem vmulhN32 (d a b : BitVec 7) (g : BitVec 2) : Statement (.vmulhN32 d a b g) := by
  refine of_code rfl fun w y hw hy => ?_
  obtain ⟨h0, h1, h2, h3, h4, h5⟩ := lay_16w7_9w7_2w7_0w2 hw hy rfl rfl rfl rfl rfl
  rw [decodeNat, h0, decodeB, h1, h2, h3, h4, h5]
  rfl

theorem vaddsI32 (d a b : BitVec 7) (g : BitVec 2) : Statement (.vaddsI32 d a b g) := by
  refine of_code rfl fun w y hw hy => ?_
  obtain ⟨h0, h1, h2, h3, h4, h5⟩ := lay_16w7_9w7_2w7_0w2 hw hy rfl rfl rfl rfl rfl
  rw [decodeNat, h0, decodeB, h1, h2, h3, h4, h5]
  rfl

theorem vaddsN32 (d a b : BitVec 7) (g : BitVec 2) : Statement (.vaddsN32 d a b g) := by
  refine of_code rfl fun w y hw hy => ?_
  obtain ⟨h0, h1, h2, h3, h4, h5⟩ := lay_16w7_9w7_2w7_0w2 hw hy rfl rfl rfl rfl rfl
  rw [decodeNat, h0, decodeB, h1, h2, h3, h4, h5]
  rfl

theorem vsubsI32 (d a b : BitVec 7) (g : BitVec 2) : Statement (.vsubsI32 d a b g) := by
  refine of_code rfl fun w y hw hy => ?_
  obtain ⟨h0, h1, h2, h3, h4, h5⟩ := lay_16w7_9w7_2w7_0w2 hw hy rfl rfl rfl rfl rfl
  rw [decodeNat, h0, decodeB, h1, h2, h3, h4, h5]
  rfl

theorem vsubsN32 (d a b : BitVec 7) (g : BitVec 2) : Statement (.vsubsN32 d a b g) := by
  refine of_code rfl fun w y hw hy => ?_
  obtain ⟨h0, h1, h2, h3, h4, h5⟩ := lay_16w7_9w7_2w7_0w2 hw hy rfl rfl rfl rfl rfl
  rw [decodeNat, h0, decodeB, h1, h2, h3, h4, h5]
  rfl

theorem vaddsI16 (d a b : BitVec 7) (g : BitVec 2) : Statement (.vaddsI16 d a b g) := by
  refine of_code rfl fun w y hw hy => ?_
  obtain ⟨h0, h1, h2, h3, h4, h5⟩ := lay_16w7_9w7_2w7_0w2 hw hy rfl rfl rfl rfl rfl
  rw [decodeNat, h0, decodeB, h1, h2, h3, h4, h5]
  rfl

theorem vaddsI8 (d a b : BitVec 7) (g : BitVec 2) : Statement (.vaddsI8 d a b g) := by
  refine of_code rfl fun w y hw hy => ?_
  obtain ⟨h0, h1, h2, h3, h4, h5⟩ := lay_16w7_9w7_2w7_0w2 hw hy rfl rfl rfl rfl rfl
  rw [decodeNat, h0, decodeB, h1, h2, h3, h4, h5]
  rfl

theorem vaddsN8 (d a b : BitVec 7) (g : BitVec 2) : Statement (.vaddsN8 d a b g) := by
  refine of_code rfl fun w y hw hy => ?_
  obtain ⟨h0, h1, h2, h3, h4, h5⟩ := lay_16w7_9w7_2w7_0w2 hw hy rfl rfl rfl rfl rfl
  rw [decodeNat, h0, decodeB, h1, h2, h3, h4, h5]
  rfl

theorem vminI32 (d a b : BitVec 7) (g : BitVec 2) : Statement (.vminI32 d a b g) := by
  refine of_code rfl fun w y hw hy => ?_
  obtain ⟨h0, h1, h2, h3, h4, h5⟩ := lay_16w7_9w7_2w7_0w2 hw hy rfl rfl rfl rfl rfl
  rw [decodeNat, h0, decodeB, h1, h2, h3, h4, h5]
  rfl

theorem vminN32 (d a b : BitVec 7) (g : BitVec 2) : Statement (.vminN32 d a b g) := by
  refine of_code rfl fun w y hw hy => ?_
  obtain ⟨h0, h1, h2, h3, h4, h5⟩ := lay_16w7_9w7_2w7_0w2 hw hy rfl rfl rfl rfl rfl
  rw [decodeNat, h0, decodeB, h1, h2, h3, h4, h5]
  rfl

theorem vmaxI32 (d a b : BitVec 7) (g : BitVec 2) : Statement (.vmaxI32 d a b g) := by
  refine of_code rfl fun w y hw hy => ?_
  obtain ⟨h0, h1, h2, h3, h4, h5⟩ := lay_16w7_9w7_2w7_0w2 hw hy rfl rfl rfl rfl rfl
  rw [decodeNat, h0, decodeB, h1, h2, h3, h4, h5]
  rfl

theorem vmaxN32 (d a b : BitVec 7) (g : BitVec 2) : Statement (.vmaxN32 d a b g) := by
  refine of_code rfl fun w y hw hy => ?_
  obtain ⟨h0, h1, h2, h3, h4, h5⟩ := lay_16w7_9w7_2w7_0w2 hw hy rfl rfl rfl rfl rfl
  rw [decodeNat, h0, decodeB, h1, h2, h3, h4, h5]
  rfl

theorem vand (d a b : BitVec 7) (g : BitVec 2) : Statement (.vand d a b g) := by
  refine of_code rfl fun w y hw hy => ?_
  obtain ⟨h0, h1, h2, h3, h4, h5⟩ := lay_16w7_9w7_2w7_0w2 hw hy rfl rfl rfl rfl rfl
  rw [decodeNat, h0, decodeB, h1, h2, h3, h4, h5]
  rfl

theorem vor (d a b : BitVec 7) (g : BitVec 2) : Statement (.vor d a b g) := by
  refine of_code rfl fun w y hw hy => ?_
  obtain ⟨h0, h1, h2, h3, h4, h5⟩ := lay_16w7_9w7_2w7_0w2 hw hy rfl rfl rfl rfl rfl
  rw [decodeNat, h0, decodeB, h1, h2, h3, h4, h5]
  rfl

theorem vxor (d a b : BitVec 7) (g : BitVec 2) : Statement (.vxor d a b g) := by
  refine of_code rfl fun w y hw hy => ?_
  obtain ⟨h0, h1, h2, h3, h4, h5⟩ := lay_16w7_9w7_2w7_0w2 hw hy rfl rfl rfl rfl rfl
  rw [decodeNat, h0, decodeB, h1, h2, h3, h4, h5]
  rfl

theorem vandn (d a b : BitVec 7) (g : BitVec 2) : Statement (.vandn d a b g) := by
  refine of_code rfl fun w y hw hy => ?_
  obtain ⟨h0, h1, h2, h3, h4, h5⟩ := lay_16w7_9w7_2w7_0w2 hw hy rfl rfl rfl rfl rfl
  rw [decodeNat, h0, decodeB, h1, h2, h3, h4, h5]
  rfl

theorem vshl (d a b : BitVec 7) (g : BitVec 2) : Statement (.vshl d a b g) := by
  refine of_code rfl fun w y hw hy => ?_
  obtain ⟨h0, h1, h2, h3, h4, h5⟩ := lay_16w7_9w7_2w7_0w2 hw hy rfl rfl rfl rfl rfl
  rw [decodeNat, h0, decodeB, h1, h2, h3, h4, h5]
  rfl

theorem vshrN32 (d a b : BitVec 7) (g : BitVec 2) : Statement (.vshrN32 d a b g) := by
  refine of_code rfl fun w y hw hy => ?_
  obtain ⟨h0, h1, h2, h3, h4, h5⟩ := lay_16w7_9w7_2w7_0w2 hw hy rfl rfl rfl rfl rfl
  rw [decodeNat, h0, decodeB, h1, h2, h3, h4, h5]
  rfl

theorem vshrI32 (d a b : BitVec 7) (g : BitVec 2) : Statement (.vshrI32 d a b g) := by
  refine of_code rfl fun w y hw hy => ?_
  obtain ⟨h0, h1, h2, h3, h4, h5⟩ := lay_16w7_9w7_2w7_0w2 hw hy rfl rfl rfl rfl rfl
  rw [decodeNat, h0, decodeB, h1, h2, h3, h4, h5]
  rfl

theorem vshli (d a : BitVec 7) (n : BitVec 5) (g : BitVec 2) : Statement (.vshli d a n g) := by
  refine of_code rfl fun w y hw hy => ?_
  obtain ⟨h0, h1, h2, h3, h4, h5, h6⟩ := lay_16w7_9w7_2w5_0w2 hw hy rfl rfl rfl rfl rfl
  rw [decodeNat, h0, decodeB, h1, h2, h3, h4, h5, h6]
  rfl

theorem vshriN32 (d a : BitVec 7) (n : BitVec 5) (g : BitVec 2) : Statement (.vshriN32 d a n g) := by
  refine of_code rfl fun w y hw hy => ?_
  obtain ⟨h0, h1, h2, h3, h4, h5, h6⟩ := lay_16w7_9w7_2w5_0w2 hw hy rfl rfl rfl rfl rfl
  rw [decodeNat, h0, decodeB, h1, h2, h3, h4, h5, h6]
  rfl

theorem vshriI32 (d a : BitVec 7) (n : BitVec 5) (g : BitVec 2) : Statement (.vshriI32 d a n g) := by
  refine of_code rfl fun w y hw hy => ?_
  obtain ⟨h0, h1, h2, h3, h4, h5, h6⟩ := lay_16w7_9w7_2w5_0w2 hw hy rfl rfl rfl rfl rfl
  rw [decodeNat, h0, decodeB, h1, h2, h3, h4, h5, h6]
  rfl

theorem vaddiI32 (d a i : BitVec 7) (g : BitVec 2) : Statement (.vaddiI32 d a i g) := by
  refine of_code rfl fun w y hw hy => ?_
  obtain ⟨h0, h1, h2, h3, h4, h5⟩ := lay_16w7_9w7_2w7_0w2 hw hy rfl rfl rfl rfl rfl
  rw [decodeNat, h0, decodeB, h1, h2, h3, h4, h5]
  rfl

theorem vabsI32 (d a : BitVec 7) (g : BitVec 2) : Statement (.vabsI32 d a g) := by
  refine of_code rfl fun w y hw hy => ?_
  obtain ⟨h0, h1, h2, h3, h4, h5⟩ := lay_16w7_9w7_0w2 hw hy rfl rfl rfl rfl
  rw [decodeNat, h0, decodeB, h1, h2, h3, h4, h5]
  rfl

theorem vcmpeqI32 (d a b : BitVec 7) (g : BitVec 2) : Statement (.vcmpeqI32 d a b g) := by
  refine of_code rfl fun w y hw hy => ?_
  obtain ⟨h0, h1, h2, h3, h4, h5⟩ := lay_16w7_9w7_2w7_0w2 hw hy rfl rfl rfl rfl rfl
  rw [decodeNat, h0, decodeB, h1, h2, h3, h4, h5]
  rfl

theorem vcmpltI32 (d a b : BitVec 7) (g : BitVec 2) : Statement (.vcmpltI32 d a b g) := by
  refine of_code rfl fun w y hw hy => ?_
  obtain ⟨h0, h1, h2, h3, h4, h5⟩ := lay_16w7_9w7_2w7_0w2 hw hy rfl rfl rfl rfl rfl
  rw [decodeNat, h0, decodeB, h1, h2, h3, h4, h5]
  rfl

theorem vcmpltN32 (d a b : BitVec 7) (g : BitVec 2) : Statement (.vcmpltN32 d a b g) := by
  refine of_code rfl fun w y hw hy => ?_
  obtain ⟨h0, h1, h2, h3, h4, h5⟩ := lay_16w7_9w7_2w7_0w2 hw hy rfl rfl rfl rfl rfl
  rw [decodeNat, h0, decodeB, h1, h2, h3, h4, h5]
  rfl

theorem vsel (d a b : BitVec 7) (g : BitVec 2) : Statement (.vsel d a b g) := by
  refine of_code rfl fun w y hw hy => ?_
  obtain ⟨h0, h1, h2, h3, h4, h5⟩ := lay_16w7_9w7_2w7_0w2 hw hy rfl rfl rfl rfl rfl
  rw [decodeNat, h0, decodeB, h1, h2, h3, h4, h5]
  rfl

theorem vaddF32 (d a b : BitVec 7) (g : BitVec 2) : Statement (.vaddF32 d a b g) := by
  refine of_code rfl fun w y hw hy => ?_
  obtain ⟨h0, h1, h2, h3, h4, h5⟩ := lay_16w7_9w7_2w7_0w2 hw hy rfl rfl rfl rfl rfl
  rw [decodeNat, h0, decodeB, h1, h2, h3, h4, h5]
  rfl

theorem vsubF32 (d a b : BitVec 7) (g : BitVec 2) : Statement (.vsubF32 d a b g) := by
  refine of_code rfl fun w y hw hy => ?_
  obtain ⟨h0, h1, h2, h3, h4, h5⟩ := lay_16w7_9w7_2w7_0w2 hw hy rfl rfl rfl rfl rfl
  rw [decodeNat, h0, decodeB, h1, h2, h3, h4, h5]
  rfl

theorem vmulF32 (d a b : BitVec 7) (g : BitVec 2) : Statement (.vmulF32 d a b g) := by
  refine of_code rfl fun w y hw hy => ?_
  obtain ⟨h0, h1, h2, h3, h4, h5⟩ := lay_16w7_9w7_2w7_0w2 hw hy rfl rfl rfl rfl rfl
  rw [decodeNat, h0, decodeB, h1, h2, h3, h4, h5]
  rfl

theorem vfmaF32 (d a b : BitVec 7) (g : BitVec 2) : Statement (.vfmaF32 d a b g) := by
  refine of_code rfl fun w y hw hy => ?_
  obtain ⟨h0, h1, h2, h3, h4, h5⟩ := lay_16w7_9w7_2w7_0w2 hw hy rfl rfl rfl rfl rfl
  rw [decodeNat, h0, decodeB, h1, h2, h3, h4, h5]
  rfl

theorem vfmsF32 (d a b : BitVec 7) (g : BitVec 2) : Statement (.vfmsF32 d a b g) := by
  refine of_code rfl fun w y hw hy => ?_
  obtain ⟨h0, h1, h2, h3, h4, h5⟩ := lay_16w7_9w7_2w7_0w2 hw hy rfl rfl rfl rfl rfl
  rw [decodeNat, h0, decodeB, h1, h2, h3, h4, h5]
  rfl

theorem vminF32 (d a b : BitVec 7) (g : BitVec 2) : Statement (.vminF32 d a b g) := by
  refine of_code rfl fun w y hw hy => ?_
  obtain ⟨h0, h1, h2, h3, h4, h5⟩ := lay_16w7_9w7_2w7_0w2 hw hy rfl rfl rfl rfl rfl
  rw [decodeNat, h0, decodeB, h1, h2, h3, h4, h5]
  rfl

theorem vmaxF32 (d a b : BitVec 7) (g : BitVec 2) : Statement (.vmaxF32 d a b g) := by
  refine of_code rfl fun w y hw hy => ?_
  obtain ⟨h0, h1, h2, h3, h4, h5⟩ := lay_16w7_9w7_2w7_0w2 hw hy rfl rfl rfl rfl rfl
  rw [decodeNat, h0, decodeB, h1, h2, h3, h4, h5]
  rfl

theorem vabsF32 (d a : BitVec 7) (g : BitVec 2) : Statement (.vabsF32 d a g) := by
  refine of_code rfl fun w y hw hy => ?_
  obtain ⟨h0, h1, h2, h3, h4, h5⟩ := lay_16w7_9w7_0w2 hw hy rfl rfl rfl rfl
  rw [decodeNat, h0, decodeB, h1, h2, h3, h4, h5]
  rfl

theorem vaddBf16 (d a b : BitVec 7) (g : BitVec 2) : Statement (.vaddBf16 d a b g) := by
  refine of_code rfl fun w y hw hy => ?_
  obtain ⟨h0, h1, h2, h3, h4, h5⟩ := lay_16w7_9w7_2w7_0w2 hw hy rfl rfl rfl rfl rfl
  rw [decodeNat, h0, decodeB, h1, h2, h3, h4, h5]
  rfl

theorem vmulBf16 (d a b : BitVec 7) (g : BitVec 2) : Statement (.vmulBf16 d a b g) := by
  refine of_code rfl fun w y hw hy => ?_
  obtain ⟨h0, h1, h2, h3, h4, h5⟩ := lay_16w7_9w7_2w7_0w2 hw hy rfl rfl rfl rfl rfl
  rw [decodeNat, h0, decodeB, h1, h2, h3, h4, h5]
  rfl

theorem vfmaBf16 (d a b : BitVec 7) (g : BitVec 2) : Statement (.vfmaBf16 d a b g) := by
  refine of_code rfl fun w y hw hy => ?_
  obtain ⟨h0, h1, h2, h3, h4, h5⟩ := lay_16w7_9w7_2w7_0w2 hw hy rfl rfl rfl rfl rfl
  rw [decodeNat, h0, decodeB, h1, h2, h3, h4, h5]
  rfl

theorem vaddF16 (d a b : BitVec 7) (g : BitVec 2) : Statement (.vaddF16 d a b g) := by
  refine of_code rfl fun w y hw hy => ?_
  obtain ⟨h0, h1, h2, h3, h4, h5⟩ := lay_16w7_9w7_2w7_0w2 hw hy rfl rfl rfl rfl rfl
  rw [decodeNat, h0, decodeB, h1, h2, h3, h4, h5]
  rfl

theorem vmulF16 (d a b : BitVec 7) (g : BitVec 2) : Statement (.vmulF16 d a b g) := by
  refine of_code rfl fun w y hw hy => ?_
  obtain ⟨h0, h1, h2, h3, h4, h5⟩ := lay_16w7_9w7_2w7_0w2 hw hy rfl rfl rfl rfl rfl
  rw [decodeNat, h0, decodeB, h1, h2, h3, h4, h5]
  rfl

theorem vfmaF16 (d a b : BitVec 7) (g : BitVec 2) : Statement (.vfmaF16 d a b g) := by
  refine of_code rfl fun w y hw hy => ?_
  obtain ⟨h0, h1, h2, h3, h4, h5⟩ := lay_16w7_9w7_2w7_0w2 hw hy rfl rfl rfl rfl rfl
  rw [decodeNat, h0, decodeB, h1, h2, h3, h4, h5]
  rfl

theorem vcmpeqF32 (d a b : BitVec 7) (g : BitVec 2) : Statement (.vcmpeqF32 d a b g) := by
  refine of_code rfl fun w y hw hy => ?_
  obtain ⟨h0, h1, h2, h3, h4, h5⟩ := lay_16w7_9w7_2w7_0w2 hw hy rfl rfl rfl rfl rfl
  rw [decodeNat, h0, decodeB, h1, h2, h3, h4, h5]
  rfl

theorem vcmpltF32 (d a b : BitVec 7) (g : BitVec 2) : Statement (.vcmpltF32 d a b g) := by
  refine of_code rfl fun w y hw hy => ?_
  obtain ⟨h0, h1, h2, h3, h4, h5⟩ := lay_16w7_9w7_2w7_0w2 hw hy rfl rfl rfl rfl rfl
  rw [decodeNat, h0, decodeB, h1, h2, h3, h4, h5]
  rfl

theorem vcmpleF32 (d a b : BitVec 7) (g : BitVec 2) : Statement (.vcmpleF32 d a b g) := by
  refine of_code rfl fun w y hw hy => ?_
  obtain ⟨h0, h1, h2, h3, h4, h5⟩ := lay_16w7_9w7_2w7_0w2 hw hy rfl rfl rfl rfl rfl
  rw [decodeNat, h0, decodeB, h1, h2, h3, h4, h5]
  rfl

theorem vcmpunF32 (d a b : BitVec 7) (g : BitVec 2) : Statement (.vcmpunF32 d a b g) := by
  refine of_code rfl fun w y hw hy => ?_
  obtain ⟨h0, h1, h2, h3, h4, h5⟩ := lay_16w7_9w7_2w7_0w2 hw hy rfl rfl rfl rfl rfl
  rw [decodeNat, h0, decodeB, h1, h2, h3, h4, h5]
  rfl

theorem vcvtF32I32 (d a : BitVec 7) (g : BitVec 2) : Statement (.vcvtF32I32 d a g) := by
  refine of_code rfl fun w y hw hy => ?_
  obtain ⟨h0, h1, h2, h3, h4, h5⟩ := lay_16w7_9w7_0w2 hw hy rfl rfl rfl rfl
  rw [decodeNat, h0, decodeB, h1, decodeB32, h2, h3, h4, h5]
  rfl

theorem vcvtF32N32 (d a : BitVec 7) (g : BitVec 2) : Statement (.vcvtF32N32 d a g) := by
  refine of_code rfl fun w y hw hy => ?_
  obtain ⟨h0, h1, h2, h3, h4, h5⟩ := lay_16w7_9w7_0w2 hw hy rfl rfl rfl rfl
  rw [decodeNat, h0, decodeB, h1, decodeB32, h2, h3, h4, h5]
  rfl

theorem vcvtF32I16 (d a : BitVec 7) (g : BitVec 2) : Statement (.vcvtF32I16 d a g) := by
  refine of_code rfl fun w y hw hy => ?_
  obtain ⟨h0, h1, h2, h3, h4, h5⟩ := lay_16w7_9w7_0w2 hw hy rfl rfl rfl rfl
  rw [decodeNat, h0, decodeB, h1, decodeB32, h2, h3, h4, h5]
  rfl

theorem vcvtF32N16 (d a : BitVec 7) (g : BitVec 2) : Statement (.vcvtF32N16 d a g) := by
  refine of_code rfl fun w y hw hy => ?_
  obtain ⟨h0, h1, h2, h3, h4, h5⟩ := lay_16w7_9w7_0w2 hw hy rfl rfl rfl rfl
  rw [decodeNat, h0, decodeB, h1, decodeB32, h2, h3, h4, h5]
  rfl

theorem vcvtF32I8 (d a : BitVec 7) (g : BitVec 2) : Statement (.vcvtF32I8 d a g) := by
  refine of_code rfl fun w y hw hy => ?_
  obtain ⟨h0, h1, h2, h3, h4, h5⟩ := lay_16w7_9w7_0w2 hw hy rfl rfl rfl rfl
  rw [decodeNat, h0, decodeB, h1, decodeB32, h2, h3, h4, h5]
  rfl

theorem vcvtF32N8 (d a : BitVec 7) (g : BitVec 2) : Statement (.vcvtF32N8 d a g) := by
  refine of_code rfl fun w y hw hy => ?_
  obtain ⟨h0, h1, h2, h3, h4, h5⟩ := lay_16w7_9w7_0w2 hw hy rfl rfl rfl rfl
  rw [decodeNat, h0, decodeB, h1, decodeB32, h2, h3, h4, h5]
  rfl

theorem vcvtI32F32 (d a : BitVec 7) (g : BitVec 2) : Statement (.vcvtI32F32 d a g) := by
  refine of_code rfl fun w y hw hy => ?_
  obtain ⟨h0, h1, h2, h3, h4, h5⟩ := lay_16w7_9w7_0w2 hw hy rfl rfl rfl rfl
  rw [decodeNat, h0, decodeB, h1, decodeB32, h2, h3, h4, h5]
  rfl

theorem vcvtN32F32 (d a : BitVec 7) (g : BitVec 2) : Statement (.vcvtN32F32 d a g) := by
  refine of_code rfl fun w y hw hy => ?_
  obtain ⟨h0, h1, h2, h3, h4, h5⟩ := lay_16w7_9w7_0w2 hw hy rfl rfl rfl rfl
  rw [decodeNat, h0, decodeB, h1, decodeB32, h2, h3, h4, h5]
  rfl

theorem vcvtF32Bf16 (d a : BitVec 7) (g : BitVec 2) : Statement (.vcvtF32Bf16 d a g) := by
  refine of_code rfl fun w y hw hy => ?_
  obtain ⟨h0, h1, h2, h3, h4, h5⟩ := lay_16w7_9w7_0w2 hw hy rfl rfl rfl rfl
  rw [decodeNat, h0, decodeB, h1, decodeB32, h2, h3, h4, h5]
  rfl

theorem vcvtF32F16 (d a : BitVec 7) (g : BitVec 2) : Statement (.vcvtF32F16 d a g) := by
  refine of_code rfl fun w y hw hy => ?_
  obtain ⟨h0, h1, h2, h3, h4, h5⟩ := lay_16w7_9w7_0w2 hw hy rfl rfl rfl rfl
  rw [decodeNat, h0, decodeB, h1, decodeB32, h2, h3, h4, h5]
  rfl

theorem vcvtF32E4m3 (d a : BitVec 7) (g : BitVec 2) : Statement (.vcvtF32E4m3 d a g) := by
  refine of_code rfl fun w y hw hy => ?_
  obtain ⟨h0, h1, h2, h3, h4, h5⟩ := lay_16w7_9w7_0w2 hw hy rfl rfl rfl rfl
  rw [decodeNat, h0, decodeB, h1, decodeB32, h2, h3, h4, h5]
  rfl

theorem vcvtF32E5m2 (d a : BitVec 7) (g : BitVec 2) : Statement (.vcvtF32E5m2 d a g) := by
  refine of_code rfl fun w y hw hy => ?_
  obtain ⟨h0, h1, h2, h3, h4, h5⟩ := lay_16w7_9w7_0w2 hw hy rfl rfl rfl rfl
  rw [decodeNat, h0, decodeB, h1, decodeB32, h2, h3, h4, h5]
  rfl

theorem vcvtBf16F32 (d a : BitVec 7) (k : BitVec 1) (g : BitVec 2) : Statement (.vcvtBf16F32 d a k g) := by
  have good : k = 0 ∨ k = 1 := by revert k; decide
  refine of_code rfl fun w y hw hy => ?_
  obtain ⟨h0, h1, h2, h3, h4, h5, h6⟩ := lay_16w7_9w7_2w1_0w2 hw hy rfl rfl rfl rfl rfl
  rcases good with rfl | rfl <;> (rw [decodeNat, h0, decodeB, h1, decodeB32, h2, h3, h4, h5, h6]; rfl)

theorem vcvtF16F32 (d a : BitVec 7) (k : BitVec 1) (g : BitVec 2) : Statement (.vcvtF16F32 d a k g) := by
  have good : k = 0 ∨ k = 1 := by revert k; decide
  refine of_code rfl fun w y hw hy => ?_
  obtain ⟨h0, h1, h2, h3, h4, h5, h6⟩ := lay_16w7_9w7_2w1_0w2 hw hy rfl rfl rfl rfl rfl
  rcases good with rfl | rfl <;> (rw [decodeNat, h0, decodeB, h1, decodeB32, h2, h3, h4, h5, h6]; rfl)

theorem vcvtE4m3F32 (d a : BitVec 7) (k g : BitVec 2) : Statement (.vcvtE4m3F32 d a k g) := by
  have good : k = 0 ∨ k = 1 ∨ k = 2 ∨ k = 3 := by revert k; decide
  refine of_code rfl fun w y hw hy => ?_
  obtain ⟨h0, h1, h2, h3, h4, h5, h6⟩ := lay_16w7_9w7_2w2_0w2 hw hy rfl rfl rfl rfl rfl
  rcases good with rfl | rfl | rfl | rfl <;> (rw [decodeNat, h0, decodeB, h1, decodeB32, h2, h3, h4, h5, h6]; rfl)

theorem vcvtE5m2F32 (d a : BitVec 7) (k g : BitVec 2) : Statement (.vcvtE5m2F32 d a k g) := by
  have good : k = 0 ∨ k = 1 ∨ k = 2 ∨ k = 3 := by revert k; decide
  refine of_code rfl fun w y hw hy => ?_
  obtain ⟨h0, h1, h2, h3, h4, h5, h6⟩ := lay_16w7_9w7_2w2_0w2 hw hy rfl rfl rfl rfl rfl
  rcases good with rfl | rfl | rfl | rfl <;> (rw [decodeNat, h0, decodeB, h1, decodeB32, h2, h3, h4, h5, h6]; rfl)

theorem vcvtI32I16 (d a : BitVec 7) (g : BitVec 2) : Statement (.vcvtI32I16 d a g) := by
  refine of_code rfl fun w y hw hy => ?_
  obtain ⟨h0, h1, h2, h3, h4, h5⟩ := lay_16w7_9w7_0w2 hw hy rfl rfl rfl rfl
  rw [decodeNat, h0, decodeB, h1, decodeB32, h2, h3, h4, h5]
  rfl

theorem vcvtI32N16 (d a : BitVec 7) (g : BitVec 2) : Statement (.vcvtI32N16 d a g) := by
  refine of_code rfl fun w y hw hy => ?_
  obtain ⟨h0, h1, h2, h3, h4, h5⟩ := lay_16w7_9w7_0w2 hw hy rfl rfl rfl rfl
  rw [decodeNat, h0, decodeB, h1, decodeB32, h2, h3, h4, h5]
  rfl

theorem vcvtI32I8 (d a : BitVec 7) (g : BitVec 2) : Statement (.vcvtI32I8 d a g) := by
  refine of_code rfl fun w y hw hy => ?_
  obtain ⟨h0, h1, h2, h3, h4, h5⟩ := lay_16w7_9w7_0w2 hw hy rfl rfl rfl rfl
  rw [decodeNat, h0, decodeB, h1, decodeB32, h2, h3, h4, h5]
  rfl

theorem vcvtI32N8 (d a : BitVec 7) (g : BitVec 2) : Statement (.vcvtI32N8 d a g) := by
  refine of_code rfl fun w y hw hy => ?_
  obtain ⟨h0, h1, h2, h3, h4, h5⟩ := lay_16w7_9w7_0w2 hw hy rfl rfl rfl rfl
  rw [decodeNat, h0, decodeB, h1, decodeB32, h2, h3, h4, h5]
  rfl

theorem vcvtN32I32 (d a : BitVec 7) (g : BitVec 2) : Statement (.vcvtN32I32 d a g) := by
  refine of_code rfl fun w y hw hy => ?_
  obtain ⟨h0, h1, h2, h3, h4, h5⟩ := lay_16w7_9w7_0w2 hw hy rfl rfl rfl rfl
  rw [decodeNat, h0, decodeB, h1, decodeB32, h2, h3, h4, h5]
  rfl

theorem vcvtI32N32 (d a : BitVec 7) (g : BitVec 2) : Statement (.vcvtI32N32 d a g) := by
  refine of_code rfl fun w y hw hy => ?_
  obtain ⟨h0, h1, h2, h3, h4, h5⟩ := lay_16w7_9w7_0w2 hw hy rfl rfl rfl rfl
  rw [decodeNat, h0, decodeB, h1, decodeB32, h2, h3, h4, h5]
  rfl

theorem vqb4 (d a b : BitVec 7) (t : BitVec 2) : Statement (.vqb4 d a b t) := by
  refine of_code rfl fun w y hw hy => ?_
  obtain ⟨h0, h1, h2, h3, h4, h5⟩ := lay_16w7_9w7_2w7_0w2 hw hy rfl rfl rfl rfl rfl
  rw [decodeNat, h0, decodeB, h1, h2, h3, h4, h5]
  rfl

theorem vrcpE (d a : BitVec 7) (g : BitVec 2) : Statement (.vrcpE d a g) := by
  refine of_code rfl fun w y hw hy => ?_
  obtain ⟨h0, h1, h2, h3, h4, h5⟩ := lay_16w7_9w7_0w2 hw hy rfl rfl rfl rfl
  rw [decodeNat, h0, decodeB, h1, h2, h3, h4, h5]
  rfl

theorem vrsqE (d a : BitVec 7) (g : BitVec 2) : Statement (.vrsqE d a g) := by
  refine of_code rfl fun w y hw hy => ?_
  obtain ⟨h0, h1, h2, h3, h4, h5⟩ := lay_16w7_9w7_0w2 hw hy rfl rfl rfl rfl
  rw [decodeNat, h0, decodeB, h1, h2, h3, h4, h5]
  rfl

theorem vrcps (d a b : BitVec 7) (g : BitVec 2) : Statement (.vrcps d a b g) := by
  refine of_code rfl fun w y hw hy => ?_
  obtain ⟨h0, h1, h2, h3, h4, h5⟩ := lay_16w7_9w7_2w7_0w2 hw hy rfl rfl rfl rfl rfl
  rw [decodeNat, h0, decodeB, h1, h2, h3, h4, h5]
  rfl

theorem vrsqs (d a b : BitVec 7) (g : BitVec 2) : Statement (.vrsqs d a b g) := by
  refine of_code rfl fun w y hw hy => ?_
  obtain ⟨h0, h1, h2, h3, h4, h5⟩ := lay_16w7_9w7_2w7_0w2 hw hy rfl rfl rfl rfl rfl
  rw [decodeNat, h0, decodeB, h1, h2, h3, h4, h5]
  rfl

theorem vexp2E (d a : BitVec 7) (g : BitVec 2) : Statement (.vexp2E d a g) := by
  refine of_code rfl fun w y hw hy => ?_
  obtain ⟨h0, h1, h2, h3, h4, h5⟩ := lay_16w7_9w7_0w2 hw hy rfl rfl rfl rfl
  rw [decodeNat, h0, decodeB, h1, h2, h3, h4, h5]
  rfl

theorem vlog2E (d a : BitVec 7) (g : BitVec 2) : Statement (.vlog2E d a g) := by
  refine of_code rfl fun w y hw hy => ?_
  obtain ⟨h0, h1, h2, h3, h4, h5⟩ := lay_16w7_9w7_0w2 hw hy rfl rfl rfl rfl
  rw [decodeNat, h0, decodeB, h1, h2, h3, h4, h5]
  rfl

theorem vtanhE (d a : BitVec 7) (g : BitVec 2) : Statement (.vtanhE d a g) := by
  refine of_code rfl fun w y hw hy => ?_
  obtain ⟨h0, h1, h2, h3, h4, h5⟩ := lay_16w7_9w7_0w2 hw hy rfl rfl rfl rfl
  rw [decodeNat, h0, decodeB, h1, h2, h3, h4, h5]
  rfl

theorem vrsumF32 (d a : BitVec 7) (g : BitVec 2) : Statement (.vrsumF32 d a g) := by
  refine of_code rfl fun w y hw hy => ?_
  obtain ⟨h0, h1, h2, h3, h4, h5⟩ := lay_16w7_9w7_0w2 hw hy rfl rfl rfl rfl
  rw [decodeNat, h0, decodeB, h1, h2, h3, h4, h5]
  rfl

theorem vrmaxF32 (d a : BitVec 7) (g : BitVec 2) : Statement (.vrmaxF32 d a g) := by
  refine of_code rfl fun w y hw hy => ?_
  obtain ⟨h0, h1, h2, h3, h4, h5⟩ := lay_16w7_9w7_0w2 hw hy rfl rfl rfl rfl
  rw [decodeNat, h0, decodeB, h1, h2, h3, h4, h5]
  rfl

theorem vrminF32 (d a : BitVec 7) (g : BitVec 2) : Statement (.vrminF32 d a g) := by
  refine of_code rfl fun w y hw hy => ?_
  obtain ⟨h0, h1, h2, h3, h4, h5⟩ := lay_16w7_9w7_0w2 hw hy rfl rfl rfl rfl
  rw [decodeNat, h0, decodeB, h1, h2, h3, h4, h5]
  rfl

theorem vrsumI32 (d a : BitVec 7) (g : BitVec 2) : Statement (.vrsumI32 d a g) := by
  refine of_code rfl fun w y hw hy => ?_
  obtain ⟨h0, h1, h2, h3, h4, h5⟩ := lay_16w7_9w7_0w2 hw hy rfl rfl rfl rfl
  rw [decodeNat, h0, decodeB, h1, h2, h3, h4, h5]
  rfl

theorem vrmaxI32 (d a : BitVec 7) (g : BitVec 2) : Statement (.vrmaxI32 d a g) := by
  refine of_code rfl fun w y hw hy => ?_
  obtain ⟨h0, h1, h2, h3, h4, h5⟩ := lay_16w7_9w7_0w2 hw hy rfl rfl rfl rfl
  rw [decodeNat, h0, decodeB, h1, h2, h3, h4, h5]
  rfl

theorem vperm (d a b : BitVec 7) (g : BitVec 2) : Statement (.vperm d a b g) := by
  refine of_code rfl fun w y hw hy => ?_
  obtain ⟨h0, h1, h2, h3, h4, h5⟩ := lay_16w7_9w7_2w7_0w2 hw hy rfl rfl rfl rfl rfl
  rw [decodeNat, h0, decodeB, h1, h2, h3, h4, h5]
  rfl

theorem vbcast (d a : BitVec 7) (k : BitVec 4) (g : BitVec 2) : Statement (.vbcast d a k g) := by
  refine of_code rfl fun w y hw hy => ?_
  obtain ⟨h0, h1, h2, h3, h4, h5, h6⟩ := lay_16w7_9w7_2w4_0w2 hw hy rfl rfl rfl rfl rfl
  rw [decodeNat, h0, decodeB, h1, h2, h3, h4, h5, h6]
  rfl

theorem vslideup (d a : BitVec 7) (n : BitVec 5) (g : BitVec 2) : Statement (.vslideup d a n g) := by
  refine of_code rfl fun w y hw hy => ?_
  obtain ⟨h0, h1, h2, h3, h4, h5, h6⟩ := lay_16w7_9w7_2w5_0w2 hw hy rfl rfl rfl rfl rfl
  rw [decodeNat, h0, decodeB, h1, h2, h3, h4, h5, h6]
  rfl

theorem vslidedn (d a : BitVec 7) (n : BitVec 5) (g : BitVec 2) : Statement (.vslidedn d a n g) := by
  refine of_code rfl fun w y hw hy => ?_
  obtain ⟨h0, h1, h2, h3, h4, h5, h6⟩ := lay_16w7_9w7_2w5_0w2 hw hy rfl rfl rfl rfl rfl
  rw [decodeNat, h0, decodeB, h1, h2, h3, h4, h5, h6]
  rfl

theorem vzipl (d a b : BitVec 7) (g : BitVec 2) : Statement (.vzipl d a b g) := by
  refine of_code rfl fun w y hw hy => ?_
  obtain ⟨h0, h1, h2, h3, h4, h5⟩ := lay_16w7_9w7_2w7_0w2 hw hy rfl rfl rfl rfl rfl
  rw [decodeNat, h0, decodeB, h1, h2, h3, h4, h5]
  rfl

theorem vziph (d a b : BitVec 7) (g : BitVec 2) : Statement (.vziph d a b g) := by
  refine of_code rfl fun w y hw hy => ?_
  obtain ⟨h0, h1, h2, h3, h4, h5⟩ := lay_16w7_9w7_2w7_0w2 hw hy rfl rfl rfl rfl rfl
  rw [decodeNat, h0, decodeB, h1, h2, h3, h4, h5]
  rfl

theorem pand (d a b : BitVec 7) : Statement (.pand d a b) := by
  refine of_code rfl fun w y hw hy => ?_
  obtain ⟨h0, h1, h2, h3, h4, h5⟩ := lay_16w7_9w7_2w7 hw hy rfl rfl rfl rfl
  rw [decodeNat, h0, decodeB, h1, h2, h3, h4, h5]
  rfl

theorem por (d a b : BitVec 7) : Statement (.por d a b) := by
  refine of_code rfl fun w y hw hy => ?_
  obtain ⟨h0, h1, h2, h3, h4, h5⟩ := lay_16w7_9w7_2w7 hw hy rfl rfl rfl rfl
  rw [decodeNat, h0, decodeB, h1, h2, h3, h4, h5]
  rfl

theorem pxor (d a b : BitVec 7) : Statement (.pxor d a b) := by
  refine of_code rfl fun w y hw hy => ?_
  obtain ⟨h0, h1, h2, h3, h4, h5⟩ := lay_16w7_9w7_2w7 hw hy rfl rfl rfl rfl
  rw [decodeNat, h0, decodeB, h1, h2, h3, h4, h5]
  rfl

theorem pnot (d a : BitVec 7) : Statement (.pnot d a) := by
  refine of_code rfl fun w y hw hy => ?_
  obtain ⟨h0, h1, h2, h3, h4⟩ := lay_16w7_9w7 hw hy rfl rfl rfl
  rw [decodeNat, h0, decodeB, h1, h2, h3, h4]
  rfl

theorem vpcnt (d a : BitVec 7) (g : BitVec 2) : Statement (.vpcnt d a g) := by
  refine of_code rfl fun w y hw hy => ?_
  obtain ⟨h0, h1, h2, h3, h4, h5⟩ := lay_16w7_9w7_0w2 hw hy rfl rfl rfl rfl
  rw [decodeNat, h0, decodeB, h1, h2, h3, h4, h5]
  rfl

theorem movw (d a : BitVec 7) (g : BitVec 2) : Statement (.movw d a g) := by
  refine of_code rfl fun w y hw hy => ?_
  obtain ⟨h0, h1, h2, h3, h4, h5⟩ := lay_16w7_9w7_0w2 hw hy rfl rfl rfl rfl
  rw [decodeNat, h0, decodeB, h1, h2, h3, h4, h5]
  rfl

theorem movwi (d i : BitVec 7) (g : BitVec 2) : Statement (.movwi d i g) := by
  refine of_code rfl fun w y hw hy => ?_
  obtain ⟨h0, h1, h2, h3, h4, h5⟩ := lay_16w7_2w7_0w2 hw hy rfl rfl rfl rfl
  rw [decodeNat, h0, decodeB, h1, h2, h3, h4, h5]
  rfl

theorem vrng (d : BitVec 7) (g : BitVec 2) : Statement (.vrng d g) := by
  refine of_code rfl fun w y hw hy => ?_
  obtain ⟨h0, h1, h2, h3, h4⟩ := lay_16w7_0w2 hw hy rfl rfl rfl
  rw [decodeNat, h0, decodeB, h1, h2, h3, h4]
  rfl

theorem rngsetKey (a b : BitVec 7) : Statement (.rngsetKey a b) := by
  refine of_code rfl fun w y hw hy => ?_
  obtain ⟨h0, h1, h2, h3, h4, h5⟩ := lay_9w7_2w7 hw hy rfl rfl rfl
  rw [decodeNat, h0, decodeB, h1, decodeB59, h2, h3, h4, h5]
  rfl

theorem rngsetCtr (b : BitVec 7) : Statement (.rngsetCtr b) := by
  refine of_code rfl fun w y hw hy => ?_
  obtain ⟨h0, h1, h2, h3, h4, h5⟩ := lay_2w7 hw hy rfl rfl
  rw [decodeNat, h0, decodeB, h1, decodeB59, h2, h3, h4, h5]
  rfl

theorem rngsetAdv (b : BitVec 7) : Statement (.rngsetAdv b) := by
  refine of_code rfl fun w y hw hy => ?_
  obtain ⟨h0, h1, h2, h3, h4, h5⟩ := lay_2w7 hw hy rfl rfl
  rw [decodeNat, h0, decodeB, h1, decodeB59, h2, h3, h4, h5]
  rfl

theorem vnop (x : BitVec 23) : Statement (.vnop x) := by
  refine of_code rfl fun w y hw hy => ?_
  obtain ⟨h0, h1, h2⟩ := lay_0w23 hw hy rfl rfl
  rw [decodeNat, h0, decodeB, h1, h2]
  rfl

theorem qadd (d a b : BitVec 3) : Statement (.qadd d a b) := by
  refine of_code rfl fun w y hw hy => ?_
  obtain ⟨h0, h1, h2, h3, h4, h5, h6, h7, -⟩ := lay_20w3_17w3_14w3 hw hy rfl rfl rfl rfl
  rw [decodeNat, h0, decodeB, h1, decodeB60, h2, h3, h4, h5, h6, h7]
  rfl

theorem qsub (d a b : BitVec 3) : Statement (.qsub d a b) := by
  refine of_code rfl fun w y hw hy => ?_
  obtain ⟨h0, h1, h2, h3, h4, h5, h6, h7, -⟩ := lay_20w3_17w3_14w3 hw hy rfl rfl rfl rfl
  rw [decodeNat, h0, decodeB, h1, decodeB60, h2, h3, h4, h5, h6, h7]
  rfl

theorem qmul (d a b : BitVec 3) : Statement (.qmul d a b) := by
  refine of_code rfl fun w y hw hy => ?_
  obtain ⟨h0, h1, h2, h3, h4, h5, h6, h7, -⟩ := lay_20w3_17w3_14w3 hw hy rfl rfl rfl rfl
  rw [decodeNat, h0, decodeB, h1, decodeB60, h2, h3, h4, h5, h6, h7]
  rfl

theorem qmax (d a b : BitVec 3) : Statement (.qmax d a b) := by
  refine of_code rfl fun w y hw hy => ?_
  obtain ⟨h0, h1, h2, h3, h4, h5, h6, h7, -⟩ := lay_20w3_17w3_14w3 hw hy rfl rfl rfl rfl
  rw [decodeNat, h0, decodeB, h1, decodeB60, h2, h3, h4, h5, h6, h7]
  rfl

theorem qmin (d a b : BitVec 3) : Statement (.qmin d a b) := by
  refine of_code rfl fun w y hw hy => ?_
  obtain ⟨h0, h1, h2, h3, h4, h5, h6, h7, -⟩ := lay_20w3_17w3_14w3 hw hy rfl rfl rfl rfl
  rw [decodeNat, h0, decodeB, h1, decodeB60, h2, h3, h4, h5, h6, h7]
  rfl

theorem qscl (d a : BitVec 3) (v : BitVec 7) : Statement (.qscl d a v) := by
  refine of_code rfl fun w y hw hy => ?_
  obtain ⟨h0, h1, h2, h3, h4, h5, h6, h7⟩ := lay_20w3_17w3_7w7 hw hy rfl rfl rfl rfl
  rw [decodeNat, h0, decodeB, h1, decodeB61, h2, h3, h4, h5, h6, h7]
  rfl

theorem qneg (d a : BitVec 3) : Statement (.qneg d a) := by
  refine of_code rfl fun w y hw hy => ?_
  obtain ⟨h0, h1, h2, h3, h4, h5, h6⟩ := lay_20w3_17w3 hw hy rfl rfl rfl
  rw [decodeNat, h0, decodeB, h1, decodeB61, h2, h3, h4, h5, h6]
  rfl

theorem qmap (d a f : BitVec 3) : Statement (.qmap d a f) := by
  by_cases good : f = 0 ∨ f = 1 ∨ f = 2 ∨ f = 3
  swap
  · refine ill ?_
    show Option.isNone (selCause (4 ≤ f.toNat)) = false
    revert good; revert f; decide
  refine of_code rfl fun w y hw hy => ?_
  obtain ⟨h0, h1, h2, h4, h5, h6, h7, h8, h3⟩ := lay_20w3_17w3_14w3 hw hy rfl rfl rfl rfl
  rcases good with rfl | rfl | rfl | rfl <;> (rw [decodeNat, h0, decodeB, h1, decodeB61, h2, h3, h4, h5, h6, h7, h8]; rfl)

theorem qmov (d a : BitVec 3) : Statement (.qmov d a) := by
  refine of_code rfl fun w y hw hy => ?_
  obtain ⟨h0, h1, h2, h3, h4, h5, h6⟩ := lay_20w3_17w3 hw hy rfl rfl rfl
  rw [decodeNat, h0, decodeB, h1, decodeB61, h2, h3, h4, h5, h6]
  rfl

theorem qpick (p a c : BitVec 3) (v : BitVec 7) (g : BitVec 2) : Statement (.qpick p a c v g) := by
  by_cases good : p = 0 ∨ p = 1
  swap
  · have hs : selCause (2 ≤ p.toNat) = some 0x006 := by revert good; revert p; decide
    refine ill ?_
    show (Option.orElse (selCause (2 ≤ p.toNat)) _).isNone = false
    rw [hs]
    rfl
  refine of_code rfl fun w y hw hy => ?_
  obtain ⟨h0, h1, h2, h3, h4, h5, h6, h7, h8⟩ := lay_20w3_17w3_14w3_7w7_0w2 hw hy rfl rfl rfl rfl rfl rfl
  rcases good with rfl | rfl <;> (rw [decodeNat, h0, decodeB, h1, decodeB61, h2, h3, h4, h5, h6, h7, h8]; rfl)

theorem qmake (d n : BitVec 3) (v : BitVec 7) : Statement (.qmake d n v) := by
  refine of_code rfl fun w y hw hy => ?_
  obtain ⟨h0, h1, h2, h3, h4, h5, h6, h7⟩ := lay_20w3_17w3_7w7 hw hy rfl rfl rfl rfl
  rw [decodeNat, h0, decodeB, h1, decodeB62, h2, h3, h4, h5, h6, h7]
  rfl

theorem qmom (a k : BitVec 3) (v : BitVec 7) (g : BitVec 2) : Statement (.qmom a k v g) := by
  by_cases good : k = 0 ∨ k = 1 ∨ k = 2
  swap
  · have hs : selCause (3 ≤ k.toNat) = some 0x006 := by revert good; revert k; decide
    refine ill ?_
    show (Option.orElse (selCause (3 ≤ k.toNat)) _).isNone = false
    rw [hs]
    rfl
  refine of_code rfl fun w y hw hy => ?_
  obtain ⟨h0, h1, h2, h3, h4, h5, h6, h7, h8⟩ := lay_17w3_14w3_7w7_0w2 hw hy rfl rfl rfl rfl rfl
  rcases good with rfl | rfl | rfl <;> (rw [decodeNat, h0, decodeB, h1, decodeB63, h2, h3, h4, h5, h6, h7, h8]; rfl)

theorem qqnt (a : BitVec 3) (v : BitVec 7) (g : BitVec 2) : Statement (.qqnt a v g) := by
  refine of_code rfl fun w y hw hy => ?_
  obtain ⟨h0, h1, h2, h3, h4, h5, h6, h7⟩ := lay_17w3_7w7_0w2 hw hy rfl rfl rfl rfl
  rw [decodeNat, h0, decodeB, h1, decodeB63, h2, h3, h4, h5, h6, h7]
  rfl

theorem qcdf (a : BitVec 3) (v : BitVec 7) (g : BitVec 2) : Statement (.qcdf a v g) := by
  refine of_code rfl fun w y hw hy => ?_
  obtain ⟨h0, h1, h2, h3, h4, h5, h6, h7⟩ := lay_17w3_7w7_0w2 hw hy rfl rfl rfl rfl
  rw [decodeNat, h0, decodeB, h1, decodeB63, h2, h3, h4, h5, h6, h7]
  rfl

theorem asyncTrapEntry (g : Nat) : Statement (.asyncTrapEntry g) := no_word rfl

theorem commit (gc : Nat) : Statement (.commit gc) := no_word rfl

theorem loadDataArrival (g n : Nat) : Statement (.loadDataArrival g n) := no_word rfl

theorem soloRunStart (gc : Nat) : Statement (.soloRunStart gc) := no_word rfl

theorem soloRunTimeout (g : Nat) : Statement (.soloRunTimeout g) := no_word rfl

theorem barrierPhaseComplete (level scope domain b : Nat) : Statement (.barrierPhaseComplete level scope domain b) := no_word rfl

theorem fence (gc why : Nat) : Statement (.fence gc why) := no_word rfl

theorem ownerReadRequest (gc id n : Nat) (peer : PeerAnswer) : Statement (.ownerReadRequest gc id n peer) := no_word rfl

theorem remoteLoadAnswer (gc id : Nat) : Statement (.remoteLoadAnswer gc id) := no_word rfl

theorem leaseExpiry (gc : Nat) : Statement (.leaseExpiry gc) := no_word rfl

theorem matrixAFetchDone (gc seq : Nat) : Statement (.matrixAFetchDone gc seq) := no_word rfl

theorem mwldReadComplete (gc seq : Nat) : Statement (.mwldReadComplete gc seq) := no_word rfl

theorem matrixCommandStart (gc seq : Nat) : Statement (.matrixCommandStart gc seq) := no_word rfl

theorem accPortServe (gc : Nat) : Statement (.accPortServe gc) := no_word rfl

theorem mzeroDone (gc : Nat) : Statement (.mzeroDone gc) := no_word rfl

theorem mdrainDone (gc : Nat) : Statement (.mdrainDone gc) := no_word rfl

theorem mwaitDone (gc seq : Nat) : Statement (.mwaitDone gc seq) := no_word rfl

theorem onionEnter (gc : Nat) : Statement (.onionEnter gc) := no_word rfl

theorem onionGroupDue (gc k : Nat) : Statement (.onionGroupDue gc k) := no_word rfl

theorem arrayLoad (gc : Nat) : Statement (.arrayLoad gc) := no_word rfl

theorem arrayLoadDone (gc : Nat) : Statement (.arrayLoadDone gc) := no_word rfl

theorem passIssue (gc : Nat) : Statement (.passIssue gc) := no_word rfl

theorem passEnd (gc : Nat) : Statement (.passEnd gc) := no_word rfl

theorem cpyComplete (gc id : Nat) : Statement (.cpyComplete gc id) := no_word rfl

theorem pullComplete (gc id : Nat) : Statement (.pullComplete gc id) := no_word rfl

theorem pullcAnswer (gc id : Nat) : Statement (.pullcAnswer gc id) := no_word rfl

theorem pulldComplete (gc id : Nat) : Statement (.pulldComplete gc id) := no_word rfl

theorem pulldVerifyComplete (gc id : Nat) : Statement (.pulldVerifyComplete gc id) := no_word rfl

theorem ownerPullcServe (gc id : Nat) (peer : PeerAnswer) : Statement (.ownerPullcServe gc id peer) := no_word rfl

theorem watchPlacementArrival (gc id : Nat) : Statement (.watchPlacementArrival gc id) := no_word rfl

theorem watchAnswerArrival (gc id : Nat) (peer : Option (Nat × Nat)) : Statement (.watchAnswerArrival gc id peer) := no_word rfl

theorem watchtExpiry (gc id : Nat) : Statement (.watchtExpiry gc id) := no_word rfl

theorem watchRefresh (gc id : Nat) : Statement (.watchRefresh gc id) := no_word rfl

theorem watchUnackedTimeout (gc id : Nat) : Statement (.watchUnackedTimeout gc id) := no_word rfl

theorem tileLifetimeExpiry (gc k t : Nat) : Statement (.tileLifetimeExpiry gc k t) := no_word rfl

theorem crtEntryExpiry (gc : Nat) : Statement (.crtEntryExpiry gc) := no_word rfl

theorem poolEventDelivery (gc : Nat) : Statement (.poolEventDelivery gc) := no_word rfl

theorem sendArrival (gc id : Nat) (peer : PeerAnswer) : Statement (.sendArrival gc id peer) := no_word rfl

theorem foreignRingWrite (h : PeerHeader) (payload : List Byte) : Statement (.foreignRingWrite h payload) := no_word rfl

theorem sendOrderTimeout (chip slot header : Nat) : Statement (.sendOrderTimeout chip slot header) := no_word rfl

theorem sendAnswerArrival (gc id : Nat) : Statement (.sendAnswerArrival gc id) := no_word rfl

theorem submissionArrival (gc id : Nat) : Statement (.submissionArrival gc id) := no_word rfl

theorem cancelArrival (gc id : Nat) : Statement (.cancelArrival gc id) := no_word rfl

theorem timerTick (d : Nat) : Statement (.timerTick d) := no_word rfl

theorem deadlineDrop (d : Nat) : Statement (.deadlineDrop d) := no_word rfl

theorem dispatch (d : Nat) : Statement (.dispatch d) := no_word rfl

theorem sliceStart (g : Nat) : Statement (.sliceStart g) := no_word rfl

theorem abortRequestDelivery (d : Nat) : Statement (.abortRequestDelivery d) := no_word rfl

theorem sliceAbort (g : Nat) : Statement (.sliceAbort g) := no_word rfl

theorem budgetExhausted (g : Nat) : Statement (.budgetExhausted g) := no_word rfl

theorem preemptRequest (d : Nat) : Statement (.preemptRequest d) := no_word rfl

theorem preemptTimeout (g : Nat) : Statement (.preemptTimeout g) := no_word rfl

theorem sliceLeave (g : Nat) : Statement (.sliceLeave g) := no_word rfl

theorem linkTraining (k lanes : Nat) : Statement (.linkTraining k lanes) := no_word rfl

theorem linkRekey (k : Nat) : Statement (.linkRekey k) := no_word rfl

theorem flitTagFail (k : Nat) (again : Bool) : Statement (.flitTagFail k again) := no_word rfl

theorem portLaneLoss (k : Nat) : Statement (.portLaneLoss k) := no_word rfl

theorem commandPartArrival (h : PeerHeader) (part count : Nat) (c : PeerCommand) : Statement (.commandPartArrival h part count c) := no_word rfl

theorem commandReassemblyTimeout (chip rid : Nat) : Statement (.commandReassemblyTimeout chip rid) := no_word rfl

theorem peerRequestArrival (h : PeerHeader) (q : PeerRequest) : Statement (.peerRequestArrival h q) := no_word rfl

theorem requestRetry (n : Nat) : Statement (.requestRetry n) := no_word rfl

theorem requestTimeout (n : Nat) : Statement (.requestTimeout n) := no_word rfl

theorem peerEndpointDown (chip : Nat) : Statement (.peerEndpointDown chip) := no_word rfl

theorem peerSilenceTimeout (chip : Nat) : Statement (.peerSilenceTimeout chip) := no_word rfl

theorem keyEntryFree (gc : Nat) : Statement (.keyEntryFree gc) := no_word rfl

theorem attestationRequest (h : PeerHeader) (nonce : List Byte) : Statement (.attestationRequest h nonce) := no_word rfl

theorem attestationReportArrival (chip feed : Nat) : Statement (.attestationReportArrival chip feed) := no_word rfl

theorem attestationTimeout (chip : Nat) : Statement (.attestationTimeout chip) := no_word rfl

theorem violationRecord (d : Nat) : Statement (.violationRecord d) := no_word rfl

theorem translationWalkDone (g : Nat) : Statement (.translationWalkDone g) := no_word rfl

theorem invalidateComplete (gc id : Nat) : Statement (.invalidateComplete gc id) := no_word rfl

theorem sqDoorbell (tail : Word) : Statement (.sqDoorbell tail) := no_word rfl

theorem hostSubmissionTake (entry : List Word) : Statement (.hostSubmissionTake entry) := no_word rfl

theorem cqheadWrite (head : Word) : Statement (.cqheadWrite head) := no_word rfl

theorem regionKick (n : Nat) (v : Word) : Statement (.regionKick n v) := no_word rfl

theorem hovrKickTimeout (gc id : Nat) : Statement (.hovrKickTimeout gc id) := no_word rfl

theorem hovrGiveDrainDone (gc id : Nat) : Statement (.hovrGiveDrainDone gc id) := no_word rfl

theorem hostPageResponse (pasid page : Nat) (present : Bool) : Statement (.hostPageResponse pasid page present) := no_word rfl

theorem hostPageTimeout (pasid page : Nat) : Statement (.hostPageTimeout pasid page) := no_word rfl

theorem atsInvalidation (pasid first count : Nat) : Statement (.atsInvalidation pasid first count) := no_word rfl

theorem barRegisterWrite (off : Nat) (v : Word) : Statement (.barRegisterWrite off v) := no_word rfl

theorem mbQueueDescriptor : Statement (.mbQueueDescriptor) := no_word rfl

theorem mbPeerEntry (check : Option (Option Nat)) : Statement (.mbPeerEntry check) := no_word rfl

theorem mbPageTableRoot : Statement (.mbPageTableRoot) := no_word rfl

theorem mbViolationLogPlace : Statement (.mbViolationLogPlace) := no_word rfl

theorem mbHostSubmissionDomain : Statement (.mbHostSubmissionDomain) := no_word rfl

theorem mbResetHaltedSlot : Statement (.mbResetHaltedSlot) := no_word rfl

theorem mbFenceCluster : Statement (.mbFenceCluster) := no_word rfl

theorem mbClearPeerFailure (check : Option (Option Nat)) : Statement (.mbClearPeerFailure check) := no_word rfl

theorem mbAttestationReport : Statement (.mbAttestationReport) := no_word rfl

theorem mbUnknownOp : Statement (.mbUnknownOp) := no_word rfl

theorem mbRequestDone : Statement (.mbRequestDone) := no_word rfl

theorem modeClkRequest (v : Word) : Statement (.modeClkRequest v) := no_word rfl

theorem modeXstkRequest (v : Word) : Statement (.modeXstkRequest v) := no_word rfl

theorem modeLeaseRequest (v : Word) : Statement (.modeLeaseRequest v) := no_word rfl

theorem modeRlimRequest (v : Word) : Statement (.modeRlimRequest v) := no_word rfl

theorem dieClockSwitch (d stop : Nat) : Statement (.dieClockSwitch d stop) := no_word rfl

theorem moduleReset : Statement (.moduleReset) := no_word rfl

theorem bringupState (w : BootWork) : Statement (.bringupState w) := no_word rfl

theorem powerSample (power top : Nat) : Statement (.powerSample power top) := no_word rfl

theorem droopTrip (d stretch : Nat) : Statement (.droopTrip d stretch) := no_word rfl

theorem thermalHold (d temp : Nat) : Statement (.thermalHold d temp) := no_word rfl

theorem thermalRelease (d temp : Nat) : Statement (.thermalRelease d temp) := no_word rfl

theorem thermalTrip (d temp : Nat) : Statement (.thermalTrip d temp) := no_word rfl

theorem marginReplan (slack : List (List (List Int))) : Statement (.marginReplan slack) := no_word rfl

theorem podTimeDiscipline (rate : Int) (ahead : Nat) : Statement (.podTimeDiscipline rate ahead) := no_word rfl

theorem softErrorCorrected (gc : Nat) (hbm : Bool) : Statement (.softErrorCorrected gc hbm) := no_word rfl

theorem registerUncorrectable (g kind : Nat) : Statement (.registerUncorrectable g kind) := no_word rfl

theorem peerEndpointUp (chip : Nat) : Statement (.peerEndpointUp chip) := no_word rfl

theorem watchAcknowledgementArrival (gc id : Nat) : Statement (.watchAcknowledgementArrival gc id) := no_word rfl

theorem hostWriteThroughDone (n : Nat) : Statement (.hostWriteThroughDone n) := no_word rfl

theorem engineRangeRelease (gc engine op : Nat) : Statement (.engineRangeRelease gc engine op) := no_word rfl

theorem submissionAnswerArrival (gc id : Nat) : Statement (.submissionAnswerArrival gc id) := no_word rfl

end Sys2Proof.Laws.CodeDecodes
end

