-- ==== Sys2Proof/Laws/Words.lean ====
section
/-!
SUPPORT. The laws of one word on a slot of its own, by the way its bundle ends: it faults, ends its region, defers an effect, waits,
stores, or launches a request.
-/

namespace Sys2Proof.Machine

/-! ## Bundles that fault, wait or end a region -/

/-- A word on a free slot: its body runs from the bundle's beginning, and the bundle ends. -/
theorem word_runs (s : State) (u : Uses) (body : State → State) (hf : s.free u) :
    word u body s = .next { s.endBundle (body (s.begun u)) [(s.cur, (body (s.begun u)).bundleD)] with cur := s.cur, bundle := none } := by
  obtain ⟨h0, h1, h2, -, -, h5, h6⟩ := hf
  have hg : guarded u body s.started = body (s.begun u) := guarded_idle _ u body h5 h6
  rw [word, h0]; simp only
  rw [runBundle_single s 4 _ h1 h2]
  change Host.Outcome.next { s.endBundle (guarded u body s.started) [(s.cur, (guarded u body s.started).bundleD)] with
    cur := s.cur, bundle := none } = _
  rw [hg]

/-- A bundle that raised a cause: its slot takes the cause (spec/01_engines.md R43). -/
theorem endBundle_raised (s t : State) (g : Nat) (b : Bundle) (r : Nat × Word) (h : b.stall = none) (hr : b.raised = some r) (hl :
    b.logs = []) :
    s.endBundle t [(g, b)] = (s.takeCauses [(g, some (r.1, r.2, some b.pc))]).stalled [g] false := by
  simp only [State.endBundle, Bundle.forces, h, hr, State.takeLogs, hl, List.findSome?_cons, List.findSome?_nil, List.filterMap_cons, List.filterMap_nil,
    List.any_cons, List.any_nil, Option.isSome_some, Bool.true_or, ↓reduceIte, List.foldl_cons, List.foldl_nil, List.map_cons,
        List.map_nil, Option.map_some]

/-- A word that raises a cause leaves the state in which its slot has taken it. -/
theorem word_faults (s : State) (u : Uses) (body : State → State) (c : Nat) (v : Word) (hf : s.free u)
   (hb : body (s.begun u) = (s.begun u).raise c v) : word u body s = .next (s.faulted c v) := by
  rw [word_runs s u body hf, hb, endBundle_raised s _ _ _ (c, v) rfl rfl rfl]
  rfl

/-- A ck that a slot stalls is a ck that passes, unless an abort waits. -/
theorem stalled_one (s : State) (g : Nat) (h : (s.slot g).abort = false) : s.stalled [g] false = s.tick g 1 := by
  simp only [State.stalled, List.headD_cons, List.any_cons, List.any_nil, Bool.or_false, Bool.false_eq_true, ↓reduceIte, h]

/-- A bundle that waits does nothing but let a ck pass. -/
theorem endBundle_stall (s t : State) (g : Nat) (b : Bundle) (k : Stall) (h : b.stall = some k) (hf : ∀ a, k ≠ .force a) :
    s.endBundle t [(g, b)] = (s.noteStall g b).stalled [g] (k = .wait true) := by
  have h1 : b.forces = none := by
    simp only [Bundle.forces, h]; cases k <;> simp_all
  simp only [State.endBundle, h1, h, List.findSome?_cons, List.findSome?_nil, List.filterMap_cons, List.filterMap_nil,
    List.foldl_cons, List.foldl_nil, List.map_cons, List.map_nil]
  congr 1
  cases k <;> simp

/-- A word that waits lets a ck pass; a wait that ends a solo run ends it. -/
theorem word_waits (s : State) (u : Uses) (body : State → State) (o : Bool) (hf : s.free u) (ha : s.me.abort = false)
   (hb : body (s.begun u) = (s.begun u).stallFor (.wait o)) : word u body s = .next ((if o then s.endSolo s.cur else s).tick s.cur
       1) := by
  rw [word_runs s u body hf, hb, endBundle_stall s _ _ _ (.wait o) rfl (by simp)]
  have hn : s.noteStall s.cur ((s.begun u).stallFor (.wait o)).bundleD = s := rfl
  have h0 := hf.1
  have ha3 : (s.slot s.cur).abort = false := ha
  simp only [hn, Stall.wait.injEq, State.stalled, List.foldl_cons, List.foldl_nil, List.headD_cons, List.any_cons, List.any_nil,
    Bool.or_false]
  cases o <;> simp only [Bool.false_eq_true, decide_false, decide_true, ↓reduceIte, ha3] <;> congr 1 <;> cases s <;> simp only at h0 <;> subst h0 <;> rfl

/-- A bundle that ends its region asks for the commit (spec/05_commit.md R142). -/
theorem endBundle_ends (s t : State) (g : Nat) (b : Bundle) (a : After) (h : b.stall = none) (hr : b.raised = none) (ha : b.abort =
    none) (he : b.ends = some a)
    (hl : (linesOf (t.slot g).region.stores).length ≤ Config.maxLines)
    (hf : (t.slot g).region.effects.length ≤ Config.maxEffects) :
    s.endBundle t [(g, b)] = ((({ t with bundle := none }.modSlot g fun x => { x with region := { x.region with bundles := x.region.bundles + 1 } }).requestCommit
       [(g, a)] b.next).tick g b.ck) := by
  have h1 : (max 1 b.ck) = b.ck := by unfold Bundle.ck; omega
  simp [State.endBundle, Bundle.forces, h, hr, ha, he, Nat.not_lt.mpr hl, Nat.not_lt.mpr hf, h1]

/-- In a cluster where nothing waits, nothing is settled. -/
theorem settle_calm (s : State) (gc : Nat) (h : s.calm gc) : s.settle gc = s := by
  rw [State.settle, h]; rfl

/-- In a cluster where nothing waits, the commit unit grants a commit that is not held. -/
theorem grants_calm (s : State) (gc : Nat) (d : Done) (h : s.calm gc) : s.grants gc d = !s.requestHeld gc (s.askedAt gc d.work, .done d) := by
  have hp (r) : s.preceded gc r = false := by unfold State.preceded; rw [h]; rfl
  rw [State.grants, State.mayCommit, hp, Bool.not_false, Bool.and_true]

/-- The commit of some work is made when it is granted, and else requested (spec/05_commit.md R152, R156). -/
theorem attempt_granted (s : State) (gc : Nat) (d : Done) (f : State → State) (h : s.grants gc d = true) :
    s.attempt gc d f = f (s.unasked gc d.work) := if_pos h

theorem attempt_deferred (s : State) (gc : Nat) (d : Done) (f : State → State) (h : s.grants gc d = false) :
    s.attempt gc d f = s.defer gc d := by rw [State.attempt, h]; rfl

/-- A request changes no memory, no slot and no output. -/
theorem defer_keeps (s : State) (gc : Nat) (d : Done) :
    (s.defer gc d).mem = s.mem ∧ (s.defer gc d).slots = s.slots ∧ (s.defer gc d).out = s.out := ⟨rfl, rfl, rfl⟩

/-- A commit that nothing holds is made at once. -/
theorem requestCommit_commits (s : State) (gs : List Nat) (a : List (Nat × After)) (next : Word) (hg : a.map (·.1) = gs) (hc :
    s.calm (clusterOf (gs.headD 0))) (hh : s.regionHeld gs = false) :
    s.requestCommit a next = s.finishRegions a next := by
  subst hg
  have hp (r) : s.preceded (clusterOf ((a.map (·.1)).headD 0)) r = false := by unfold State.preceded; rw [hc]; rfl
  simp only [State.requestCommit, settle_calm _ _ hc, ne_eq, not_true_eq_false, ↓reduceIte, hh, hp, Bool.or_self, Bool.false_eq_true]

/-- A word that changes its slot and ends its region by a commit that nothing holds. -/
theorem word_commits (s s' : State) (u : Uses) (body : State → State) (a : After) (hf : s.free u) (hc : s'.cur = s.cur) (h0 :
    s'.bundle = none) (hu : u.reads = [])
   (hp : s'.me.pc = s.me.pc)
   (hb : body (s.begun u) = { s' with bundle := some { (s.begun u).bundleD with ends := some a } })
    (hl : (linesOf s'.me.region.stores).length ≤ Config.maxLines)
    (he : s'.me.region.effects.length ≤ Config.maxEffects) (hk : s'.commits) : word u body s = .next (s'.boundary a) := by
  generalize hbe : ({ (s.begun u).bundleD with ends := some a } : Bundle) = b at hb
  have n1 : b.stall = none := by rw [← hbe]; rfl
  have n2 : b.raised = none := by rw [← hbe]; rfl
  have n3 : b.abort = none := by rw [← hbe]; rfl
  have n4 : b.ends = some a := by rw [← hbe]
  have n5 : b.next = s.me.pc + 4 := by rw [← hbe]; rfl
  have n6 : b.ck = 1 := by
    rw [← hbe]; change 1 + (([] ++ u.reads).eraseDups.length - 2) + 0 = 1
    rw [hu]; rfl
  clear hbe
  have hd : (body (s.begun u)).bundleD = b := by rw [hb]; rfl
  have hbs : (body (s.begun u)).slot s.cur = s'.me := by rw [hb, ← hc]; rfl
  have e : ({ body (s.begun u) with bundle := none } : State) = s' := by rw [hb]; cases s'; cases h0; rfl
  have e2 : (s'.modSlot s.cur fun x => { x with region := { x.region with bundles := x.region.bundles + 1 } }) = s'.counted := by rw [← hc]; rfl
  rw [word_runs s u body hf, hd, endBundle_ends s _ _ _ a n1 n2 n3 n4 (by rw [hbs]; exact hl) (by rw [hbs]; exact he), e, e2,
    requestCommit_commits s'.counted [s.cur] _ _ rfl (by rw [← hc]; exact hk.1) (by rw [← hc]; exact hk.2), n5, n6, State.boundary, hc, hp]

/-- A word that only ends its region by a commit that nothing holds. -/
theorem word_ends_region (s : State) (u : Uses) (body : State → State) (a : After) (hf : s.free u) (hu : u.reads = [])
   (hb : body (s.begun u) = (s.begun u).endRegion a) (hk : s.commits) : word u body s = .next (s.boundary a) := by
  refine word_commits s s u body a hf rfl hf.1 hu rfl ?_ hf.2.2.2.1 hf.2.2.2.2.1 hk
  rw [hb]; rfl

/-! ## Words that defer effects, store or launch -/

/-- A deferred effect does not look at the bundle. -/
theorem effect_begun (s : State) (u : Uses) (e : Effect) : (s.begun u).effect e = { s.effect e with bundle := (s.begun u).bundle } := rfl

/-- A deferred effect joins the list of the acting slot's region. -/
theorem effect_me (s : State) (e : Effect) : (s.effect e).me = { s.me with region := { s.me.region with effects := s.me.region.effects ++ [e] } } := by
  unfold State.effect State.modMe; exact mget_mput_same _ _ _ _

/-- A word that only defers an effect. -/
theorem word_effect (s : State) (u : Uses) (body : State → State) (e : Effect) (hf : s.free u) (hu : u.reads = []) (hr : s.room)
   (hb : body (s.begun u) = (s.begun u).effect e) : word u body s = .next (s.effect e).passed := by
  have e1 : (s.effect e).slot s.cur = (s.effect e).me := rfl
  have e2 : (s.effect e).me.pc = s.me.pc := by rw [effect_me]
  rw [State.passed, e2]
  refine word_passes s _ u body hf (hb.trans (effect_begun s u e)) rfl ?_ ?_ hf.1 (by rw [hu]; exact Nat.zero_le 2)
  · rw [e1, effect_me]; exact hf.2.2.2.1
  · rw [e1, effect_me]; simpa using hr

/-- A word that leaves its region and pc as they were. -/
theorem word_regs (s s' : State) (u : Uses) (body : State → State) (hf : s.free u)
    (hb : body (s.begun u) = { s' with bundle := (s.begun u).bundle }) (hk : s'.me.region = s.me.region ∧ s'.me.pc = s.me.pc) (hc : s'.cur = s.cur) (h0 : s'.bundle = s.bundle)
    (hr : u.reads.eraseDups.length ≤ 2) : word u body s = .next s'.passed :=
  word_keeps s s' u body hf hb (congrArg _ hk.1) (congrArg _ hk.1) hk.2 hc h0 hr

/-- A bundle that has begun reads the registers as they stood. -/
theorem begun_form (s : State) (u : Uses) : ∃ b : Bundle, s.begun u = { s with bundle := some b } ∧ b.src = s.me.live := ⟨_, rfl, rfl⟩

/-- A read of readable places changes no store, effect or pc. -/
theorem noteRead_keeps (s : State) (ps : List Nat) (h : s.readable ps) :
    (s.noteRead ps).me.region.stores = s.me.region.stores ∧ (s.noteRead ps).me.region.effects = s.me.region.effects
      ∧ (s.noteRead ps).me.pc = s.me.pc ∧ (s.noteRead ps).cur = s.cur ∧ (s.noteRead ps).bundle = s.bundle := by
  have h1 := readable_finds s _ h
  unfold State.noteRead; simp only [h1, awaitPages_none s _ h.2]; simp [State.modMe, State.modSlot, State.setSlot, State.me, State.slot]

/-- A buffered store does not look at the bundle. -/
theorem bufferEq (s : State) (b) (ws) (h : s.storable ws) : ({ s with bundle := b } : State).buffer ws = { s.buffer ws with bundle := b } := by
  unfold State.buffer
  rw [storable_waits s ws h, storable_waits ({ s with bundle := b } : State) ws h]
  rfl

/-- A buffered store keeps the effects and the pc. -/
theorem buffer_keeps (s : State) (ws) (h : s.storable ws) :
    (s.buffer ws).me.region.effects = s.me.region.effects ∧ (s.buffer ws).me.pc = s.me.pc ∧ (s.buffer ws).cur = s.cur
      ∧ (s.buffer ws).bundle = s.bundle := by
  unfold State.buffer; rw [storable_waits s ws h]; simp only; rw [me_modMe]; exact ⟨rfl, rfl, rfl, rfl⟩

/-- A word that only stores. -/
theorem word_buffer (s : State) (u : Uses) (body : State → State) (ws : FMap Byte) (h : s.free u) (hs : s.storable ws) (hr : u.reads.eraseDups.length ≤
    2) (hb : body (s.begun u) = (s.begun u).buffer ws)
   (hl : (s.buffer ws).linesFit) : word u body s = .next (s.buffer ws).passed := by
  have k := buffer_keeps s ws hs
  rw [State.passed, k.2.1]
  have e : (s.buffer ws).slot s.cur = (s.buffer ws).me := by rw [← k.2.2.1]; rfl
  refine word_passes s (s.buffer ws) u body h (hb.trans (bufferEq s _ ws hs)) k.2.2.1 (by rw [e]; exact hl) ?_ (k.2.2.2.trans h.1) hr
  rw [e, k.1]; exact h.2.2.2.2.1

/-- A launch appends its effect and marks its token pending. -/
theorem launch_me (s : State) (t : BitVec 5) (e : Effect) : (s.launch t e).me = { s.me with
    region := { s.me.region with effects := s.me.region.effects ++ [e] },
    live := if t = 0 then s.me.live else { s.me.live with pend := withBit s.me.live.pend t.toNat true } } := by
  unfold State.launch State.markToken
  split
  · exact effect_me s e
  · unfold State.modLive; rw [me_modMe, effect_me]

/-- A launch does not look at the bundle. -/
theorem launch_bundle (s : State) (b : Option Bundle) (t e) : ({ s with bundle := b } : State).launch t e = { s.launch t e with bundle := b } := by
  unfold State.launch State.markToken; split <;> rfl

/-- A launch changes its slot only. -/
theorem launch_same (s : State) (t : BitVec 5) (e : Effect) : (s.launch t e).mem = s.mem ∧ (s.launch t e).clusters = s.clusters ∧
    (s.launch t e).cur = s.cur ∧ (s.launch t e).bundle = s.bundle := by
  unfold State.launch State.markToken; split <;> exact ⟨rfl, rfl, rfl, rfl⟩

/-- A word that only launches a request. -/
theorem word_launch (s : State) (u : Uses) (body : State → State) (t : BitVec 5) (e : Effect) (hf : s.free u) (hu : u.reads = [])
    (hr : s.room)
   (hb : body (s.begun u) = (s.begun u).launch t e) : word u body s = .next (s.launch t e).passed := by
  have k := launch_same s t e
  have m := launch_me s t e
  have e1 : (s.launch t e).slot s.cur = (s.launch t e).me := by rw [← k.2.2.1]; rfl
  have e2 : (s.launch t e).me.pc = s.me.pc := by rw [m]
  rw [State.passed, e2]
  refine word_passes s _ u body hf (hb.trans (launch_bundle s _ t e)) k.2.2.1 ?_ ?_ (k.2.2.2.trans hf.1) (by rw [hu]; exact Nat.zero_le 2)
  · rw [e1, m]; exact hf.2.2.2.1
  · rw [e1, m]; simpa using hr

/-- A word that launches a request from a state in which it has changed nothing of its region. -/
theorem word_launch' (s s' : State) (u : Uses) (body : State → State) (t : BitVec 5) (e : Effect) (hf : s.free u) (hu : u.reads =
    []) (hr : s.room)
   (hb : body (s.begun u) = { s'.launch t e with bundle := (s.begun u).bundle }) (h1 : s'.me.region.stores = s.me.region.stores ∧ s'.me.region.effects = s.me.region.effects ∧ s'.me.pc = s.me.pc) (h2 : s'.cur = s.cur) (h3 : s'.bundle = s.bundle) : word u body s = .next (s'.launch t e).passed := by
  have k := launch_same s' t e
  have m := launch_me s' t e
  have e1 : (s'.launch t e).slot s.cur = (s'.launch t e).me := by rw [← h2, ← k.2.2.1]; rfl
  have e2 : (s'.launch t e).me.pc = s.me.pc := by rw [m, ← h1.2.2]
  rw [State.passed, e2]
  refine word_passes s _ u body hf hb (k.2.2.1.trans h2) ?_ ?_ (k.2.2.2.trans (h3.trans hf.1)) (by rw [hu]; exact Nat.zero_le 2)
  · rw [e1, m]; simp only [h1.1]; exact hf.2.2.2.1
  · rw [e1, m]; simp only [h1.2.1]; simpa using hr

/-! ## What a launch reads -/

/-- The registers of a descriptor quad. -/
theorem quad_begun (s : State) (u : Uses) (b : BitVec 5) (i) (h : s.bundle = none) : (s.begun u).quad b i = s.quad b i := by
  unfold State.quad; rw [src_none s h]; rfl

/-- The time that a pair of registers holds. -/
theorem timeAt_begun (s : State) (u : Uses) (b : BitVec 5) (h : s.bundle = none) : (s.begun u).timeAt b = s.timeAt b := by
  unfold State.timeAt; simp only [quad_begun _ _ _ _ h]

/-- The place of a local address. -/
theorem flatLocal_begun (s : State) (u : Uses) (h : s.bundle = none) (a) : (s.begun u).flatLocal a = s.flatLocal a := by
  unfold State.flatLocal; rw [locate_begun _ _ _ h]

/-- An acquire in flight. -/
theorem acquiring_begun (s : State) (u : Uses) (h : s.bundle = none) : (s.begun u).acquiring = s.acquiring := by
  unfold State.acquiring
  have e : s.bundleD.loads = s.me.loads := by unfold State.bundleD; rw [h]; rfl
  rw [e]; rfl

/-- The checks of a pull. -/
theorem pullCause_begun (s : State) (u : Uses) (a b c d e f g) : (s.begun u).pullCause a b c d e f g = s.pullCause a b c d e f g :=
    rfl

/-- The strides of a pull. -/
theorem strides_begun (s : State) (u : Uses) (h : s.bundle = none) (c r) : (s.begun u).strides c r = s.strides c r := by
  unfold State.strides; simp only [quad_begun _ _ _ _ h]

/-- A translation. -/
theorem translate_begun (s : State) (u : Uses) (g a n : Nat) : (s.begun u).translate g a n = s.translate g a n := rfl

/-- The pages of some addresses. -/
theorem pagesFor_begun (s : State) (u : Uses) (n : Nat) (as : List Nat) (ps : List Page) : (s.begun u).pagesFor n as ps =
    s.pagesFor n as ps := by
  induction as generalizing ps with
  | nil => rfl
  | cons a as ih =>
    unfold State.pagesFor
    rw [ih, translate_begun]
    have : (s.begun u).cur = s.cur := rfl
    rw [this]
    split
    · rfl
    · split
      · rfl
      · rfl
      · exact ih _

/-- The pages of a launch enter the protection lookaside buffer. -/
def fills (ps : List Page) (s : State) : State := ps.foldl (fun s p => s.fillPlb s.cur s.me.domain p) s

/-- What a launch leaves whose bundle has its pages. -/
def filled (ps : List Page) (s : State) : State := (fills ps s).modMe fun x => { x with pages := [] }

/-- The fill does not look at the bundle. -/
theorem fills_bundle (ps : List Page) (s : State) (b) : fills ps ({ s with bundle := b } : State) = { fills ps s with bundle := b } := by
  induction ps generalizing s with
  | nil => rfl
  | cons p ps ih =>
    unfold fills at *
    rw [List.foldl_cons, List.foldl_cons]
    have : ({ s with bundle := b } : State).fillPlb ({ s with bundle := b } : State).cur ({ s with bundle := b } : State).me.domain p = { s.fillPlb s.cur s.me.domain p with bundle := b } := rfl
    rw [this, ih]

/-- The fill changes no slot. -/
theorem fills_keeps (ps : List Page) (s : State) : (fills ps s).slots = s.slots ∧ (fills ps s).cur = s.cur ∧ (fills ps s).bundle =
    s.bundle := by
  induction ps generalizing s with
  | nil => exact ⟨rfl, rfl, rfl⟩
  | cons p ps ih => exact ih _

/-- The fill keeps the acting slot. -/
theorem fills_me (ps : List Page) (s : State) : (fills ps s).me = s.me := by
  have k := fills_keeps ps s
  unfold State.me State.slot; rw [k.1, k.2.1]

/-- The place of a local address depends on the acting slot only. -/
theorem locate_core (s t : State) (h1 : t.slots = s.slots) (h2 : t.cur = s.cur) (h3 : t.bundle = s.bundle) (x) : t.locate x =
    s.locate x := by
  unfold State.locate State.src State.bundleD State.me State.slot State.myCluster; rw [h1, h2, h3]

/-- The fill keeps the places of local addresses. -/
theorem flatLocal_fills (ps : List Page) (s : State) (a) : (fills ps s).flatLocal a = s.flatLocal a := by
  have k := fills_keeps ps s
  unfold State.flatLocal; rw [locate_core s _ k.1 k.2.1 k.2.2]

/-- A bundle whose pages are translated goes on with them. -/
theorem withPages_ok (s : State) (u : Uses) (n kind : Nat) (as : List Nat) (k : List Page → State → State) (ps : List Page) (h :
    s.pagesFor n as [] = .ok ps) :
   (s.begun u).withPages n kind as k = k ps { filled ps s with bundle := (s.begun u).bundle } := by
  unfold State.withPages
  rw [pagesFor_begun, h]
  refine congrArg (k ps) ?_
  change (fills ps (s.begun u)).modMe _ = _
  rw [show s.begun u = { s with bundle := (s.begun u).bundle } from rfl, fills_bundle]
  rfl

/-- A register that the bundle reads. -/
theorem rS_bundle (s s' : State) (u : Uses) (n) : ({ s' with bundle := (s.begun u).bundle } : State).rS n = s.x n := rfl

end Sys2Proof.Machine
end

