-- ==== Sys2Proof/Laws/Region.lean ====
section
/-!
SUPPORT. The laws of commits, discards and traps: what the beginning of a commit writes, the commit of a lone region, the discard of a
region without tiles, and the entry of a trap.
-/

namespace Sys2Proof.Machine

/-! ## Slots and clusters -/

/-- A fold keeps what each of its steps keeps. -/
theorem foldl_keeps {α β γ : Type} (f : β → α → β) (p : β → γ) (h : ∀ b a, p (f b a) = p b) (l : List α) (b : β) : p (l.foldl f b)
    = p b := by
  induction l generalizing b with
  | nil => rfl
  | cons a l ih => rw [List.foldl_cons, ih, h]

/-- States with the same slots. -/
theorem slots_slot {s t : State} (h : t.slots = s.slots) (g) : t.slot g = s.slot g := by unfold State.slot; rw [h]

/-- Two changes of one slot are one change. -/
theorem modSlot_modSlot (s : State) (g f h) : (s.modSlot g f).modSlot g h = s.modSlot g fun x => h (f x) := by
  unfold State.modSlot;
  unfold State.setSlot State.slot; simp only [mput_mput, mget_mput_same]

/-- Changes of a slot that agree on it are the same. -/
theorem modSlot_congr (s : State) (g) (f h : Slot → Slot) (e : f (s.slot g) = h (s.slot g)) : s.modSlot g f = s.modSlot g h := by
  unfold State.modSlot; rw [e]

/-- A slot whose region holds no tile holds none by a grant. -/
theorem granted_none (x : Slot) (h : x.region.res.tiles = []) : x.granted = [] := by unfold Slot.granted; rw [h]; rfl

/-- The keys of a map with an entry written. -/
theorem mem_mput_key {α : Type} (m : FMap α) (k : Nat) (v : α) (j : Nat) : j ∈ (mput m k v).map (·.1) ↔ j = k ∨ j ∈ m.map (·.1) :=
    by
  induction m with
  | nil => simp [mput]
  | cons c m ih =>
    obtain ⟨a, b⟩ := c
    simp only [mput]
    split
    · simp
    · split
      · rename_i h; subst h; simp
      · simp only [List.map_cons, List.mem_cons, ih]; tauto

/-- A key that a map does not list. -/
theorem mfind_none_not_mem {α : Type} (m : FMap α) (k : Nat) (h : k ∉ m.map (·.1)) : mfind m k = none := by
  induction m with
  | nil => rfl
  | cons c m ih =>
    obtain ⟨a, v⟩ := c
    simp only [List.map_cons, List.mem_cons, not_or] at h
    simp only [mfind];
    split
    · exact absurd (by assumption) (by omega)
    · exact ih h.2

/-- The slots of a cluster, one of them changed. -/
theorem slotsOf_mod (s : State) (g f gc j) : j ∈ (s.modSlot g f).slotsOf gc → j = g ∨ j ∈ s.slotsOf gc := by
  unfold State.slotsOf State.modSlot State.setSlot
  simp only [List.mem_filter, mem_mput_key]
  rintro ⟨rfl | h, h2⟩
  · left; rfl
  · right; exact ⟨h, h2⟩

/-- The slots of a cluster, in states with the same slots. -/
theorem slotsOf_eq {s t : State} (h : t.slots = s.slots) (gc) : t.slotsOf gc = s.slotsOf gc := by unfold State.slotsOf; rw [h]

/-- A cluster, one of them changed. -/
theorem cluster_modC (s : State) (gc k f) : (s.modCluster gc f).cluster k = if k = gc then f (s.cluster k) else s.cluster k := by
  by_cases h : k = gc
  · subst h; rw [if_pos rfl, cluster_modCluster]
  · rw [if_neg h]; exact mget_mput_other _ _ _ h

/-- States with the same clusters. -/
theorem clusters_cluster {s t : State} (h : t.clusters = s.clusters) (k) : t.cluster k = s.cluster k := by unfold State.cluster; rw [h]

/-! ## The beginning of a commit (spec/01_engines.md R22, R23, R30) -/

/-- Two states with the same slots, memory, acting slot, manager and chip number. -/
structure Beside (s t : State) : Prop where
  slots : t.slots = s.slots
  mem : t.mem = s.mem
  cur : t.cur = s.cur
  man : t.man = s.man
  chip : t.chip = s.chip

/-- One after the other. -/
theorem Beside.trans {s t u : State} (h : Beside s t) (k : Beside t u) : Beside s u :=
  ⟨k.1.trans h.1, k.2.trans h.2, k.3.trans h.3, k.4.trans h.4, k.5.trans h.5⟩

/-- A state and itself. -/
theorem Beside.refl (s : State) : Beside s s := ⟨rfl, rfl, rfl, rfl, rfl⟩

/-- A fold of such steps. -/
theorem foldl_beside {α : Type} (f : State → α → State) (h : ∀ b a, Beside b (f b a)) (l : List α) (b : State) : Beside b (l.foldl
    f b) := by
  induction l generalizing b with
  | nil => exact .refl _
  | cons a l ih => rw [List.foldl_cons]; exact (h b a).trans (ih _)

/-- A change of a cluster. -/
theorem beside_modCluster (s : State) (gc f) : Beside s (s.modCluster gc f) := ⟨rfl, rfl, rfl, rfl, rfl⟩

/-- A message to the outside. -/
theorem beside_emit (s : State) (o) : Beside s (s.emit o) := by
  unfold State.emit; split <;> exact ⟨rfl, rfl, rfl, rfl, rfl⟩

/-- The answer of a watch. -/
theorem beside_answerWatch (s : State) (e a b) : Beside s (s.answerWatch e a b) := by
  unfold State.answerWatch; split
  · exact beside_modCluster ..
  · exact beside_emit ..

/-- The watches that a commit satisfies. -/
theorem beside_satisfy (s : State) (gc) : Beside s (s.satisfy gc) := by
  unfold State.satisfy
  exact (beside_modCluster ..).trans (foldl_beside _ (fun _ _ => beside_answerWatch ..) _ _)

/-- Two states whose clusters have the same commit numbers and stamps. -/
structure Numbers (s t : State) : Prop where
  get : ∀ k, (t.cluster k).commits = (s.cluster k).commits ∧ (t.cluster k).stamps = (s.cluster k).stamps

/-- A change of a cluster that keeps them. -/
theorem numbers_modCluster (s : State) (gc f) (h : ∀ c : Cluster, (f c).commits = c.commits ∧ (f c).stamps = c.stamps) : Numbers s
    (s.modCluster gc f) := by
  constructor; intro k; rw [cluster_modC]; split
  · exact h _
  · exact ⟨rfl, rfl⟩

/-- One after the other. -/
theorem Numbers.trans {s t u : State} (h : Numbers s t) (k : Numbers t u) : Numbers s u := ⟨fun n => ⟨(k.1 n).1.trans (h.1 n).1,
    (k.1 n).2.trans (h.1 n).2⟩⟩

/-- A message to the outside. -/
theorem numbers_emit (s : State) (o) : Numbers s (s.emit o) := by
  unfold State.emit; split <;> exact ⟨fun _ => ⟨rfl, rfl⟩⟩

/-- A fold of such steps. -/
theorem foldl_numbers {α : Type} (f : State → α → State) (h : ∀ b a, Numbers b (f b a)) (l : List α) (b : State) : Numbers b
    (l.foldl f b) := by
  induction l generalizing b with
  | nil => exact ⟨fun _ => ⟨rfl, rfl⟩⟩
  | cons a l ih => rw [List.foldl_cons]; exact (h b a).trans (ih _)

/-- The answer of a watch. -/
theorem numbers_answerWatch (s : State) (e a b) : Numbers s (s.answerWatch e a b) := by
  unfold State.answerWatch; split
  · exact numbers_modCluster _ _ _ (fun _ => ⟨rfl, rfl⟩)
  · exact numbers_emit ..

/-- The watches that a commit satisfies. -/
theorem numbers_satisfy (s : State) (gc) : Numbers s (s.satisfy gc) := by
  unfold State.satisfy
  refine Numbers.trans (t := s.modCluster gc _) (numbers_modCluster s gc _ ?_) (foldl_numbers _ (fun _ _ => numbers_answerWatch ..) _ _)
  exact fun _ => ⟨rfl, rfl⟩

/-- Bytes that land change no slot, and leave the acting slot and the manager's registers. -/
theorem land_same (s : State) (gc ws) :
    (s.land gc ws).slots = s.slots ∧ (s.land gc ws).cur = s.cur ∧ (s.land gc ws).man = s.man
      ∧ (s.land gc ws).mem = storeBytes s.mem (ws.filter fun c => (s.aliasOf c.1).isNone) := by
  exact ⟨rfl, rfl, rfl, rfl⟩

/-- Bytes that land take no commit number and stamp their lines with the latest (spec/01_engines.md R30). -/
theorem land_numbers (s : State) (gc ws) :
    ((s.land gc ws).cluster gc).commits = (s.cluster gc).commits
      ∧ ((s.land gc ws).cluster gc).stamps =
        (linesOf ws).foldl (fun m l => mput m l (s.cluster gc).commits) (s.cluster gc).stamps := by
  unfold State.land
  simp only [cluster_modCluster]
  exact ⟨rfl, rfl⟩

/-- The beginning of a commit keeps the slots. -/
theorem commitBegin_slots (s : State) (gc ws) : (s.commitBegin gc ws).slots = s.slots := (land_same _ _ _).1

/-- It keeps the acting slot. -/
theorem commitBegin_cur (s : State) (gc ws) : (s.commitBegin gc ws).cur = s.cur := (land_same _ _ _).2.1

/-- It keeps the manager's registers. -/
theorem commitBegin_man (s : State) (gc ws) : (s.commitBegin gc ws).man = s.man := (land_same _ _ _).2.2.1

/-- It writes the bytes outside the aliases. -/
theorem commitBegin_mem (s : State) (gc ws) :
    (s.commitBegin gc ws).mem = storeBytes s.mem (ws.filter fun c => (s.aliasOf c.1).isNone) := (land_same _ _ _).2.2.2

/-- It gives the commit the next number. -/
theorem commitBegin_commits (s : State) (gc ws) : ((s.commitBegin gc ws).cluster gc).commits = (s.cluster gc).commits + 1 := by
  unfold State.commitBegin; rw [(land_numbers _ _ _).1, cluster_modCluster]

/-- It stamps the lines written. -/
theorem commitBegin_stamps (s : State) (gc ws) : ((s.commitBegin gc ws).cluster gc).stamps =
    (linesOf ws).foldl (fun m l => mput m l ((s.cluster gc).commits + 1)) (s.cluster gc).stamps := by
  unfold State.commitBegin; rw [(land_numbers _ _ _).2, cluster_modCluster]

/-- The stamp of a line that is written. -/
theorem stamps_get (ls : List Nat) (m : FMap Nat) (n l : Nat) (h : l ∈ ls ∨ mget m l 0 = n) : mget (ls.foldl (fun m l => mput m l
    n) m) l 0 = n := by
  induction ls generalizing m with
  | nil => simpa using h
  | cons a ls ih =>
    rw [List.foldl_cons]; apply ih
    by_cases e : l = a
    · subst e; right; exact mget_mput_same _ _ _ _
    · rcases h with h | h
      · left; simpa [e] using h
      · right; rw [mget_mput_other _ _ _ e]; exact h

/-- A trace record changes no slot. -/
theorem record_slots (s : State) (gc r w) : (s.record gc r w).slots = s.slots := rfl

/-- A trace record changes no commit number and no stamp. -/
theorem record_cluster (s : State) (gc r w k) : ((s.record gc r w).cluster k).commits = (s.cluster k).commits ∧ ((s.record gc r
    w).cluster k).stamps = (s.cluster k).stamps := by
  unfold State.record; rw [cluster_modC]; split
  · split <;> exact ⟨rfl, rfl⟩
  · exact ⟨rfl, rfl⟩

/-- A commit that no other region of its cluster has read from conflicts with none. -/
theorem conflicts_none (s : State) (gc self w) (h1 : ∀ g ∈ s.slotsOf gc, (s.slot g).parked = none) (h2 : ∀ g ∈ s.slotsOf gc, g ∉
    self → (s.slot g).region.rsig &&& w = 0) :
   s.conflicts gc self w = s := by
  unfold State.conflicts
  simp only
  rw [List.filter_eq_nil_iff.mpr, List.filter_eq_nil_iff.mpr]
  · rfl
  · intro g hg
    by_cases hs : g ∈ self
    · simp [hs]
    · simp [h2 g hg hs]
  · intro g hg; rw [h1 g hg]; simp

/-! ## The commit of a lone region -/

/-- No region of the acting slot is parked. -/
theorem parked_self (s : State) (h : ∀ g ∈ s.slotsOf s.myCluster, (s.slot g).parked = none) : s.me.parked = none := by
  by_cases hc : s.cur ∈ s.slots.map (·.1)
  · apply h; unfold State.slotsOf; rw [List.mem_filter]; exact ⟨hc, by simp [State.myCluster]⟩
  · unfold State.me State.slot mget; rw [mfind_none_not_mem _ _ hc]; rfl

/-- What the commit of a lone region leaves. -/
theorem commit_alone (s : State) (h : s.lone) (last : Nat) :
    ∃ r w, s.commitRegions [s.cur] last = (((s.commitBegin s.myCluster (s.me.region.stores.filter fun c => c.1 < scratchBase)).modSlot
      s.cur fun x => { x.scratched with
        region := { x.region with res := ⟨[], [], []⟩, kept := ⟨[], [], []⟩ }
        stat := { x.stat with last := last, conf := 0 } }).record s.myCluster r w).satisfy s.myCluster := by
  obtain ⟨h1, h2, h3, h4, h5⟩ := h
  have hp := parked_self s fun g hg => (h5 g hg).1
  have e0 : s.slot s.cur = s.me := rfl
  have e2 : s.regionWrites [s.cur] = s.me.region.stores.filter fun c => c.1 < scratchBase := by simp [State.regionWrites, e0]
  unfold State.commitRegions
  simp only [List.headD_cons, e2, List.foldl_cons, List.foldl_nil]
  generalize hb : s.commitBegin (clusterOf s.cur) _ = b
  have b1 : b.slots = s.slots := by rw [← hb]; exact commitBegin_slots _ _ _
  have b2 : b.slot s.cur = s.me := slots_slot b1 _
  have e4 : ((b.modSlot s.cur Slot.scratched).slot s.cur).region = s.me.region := by rw [slot_modSlot, b2]; rfl
  rw [e4, h1, List.foldl_nil]
  simp only [State.settleRegion, e4, h2, h3, List.filter_nil, List.foldl_nil, State.giveBack, List.reverse_nil, modSlot_modSlot]
  rw [modSlot_congr (h := fun x => { x.scratched with
    region := { x.region with res := ⟨[], [], []⟩, kept := ⟨[], [], []⟩ }, stat := { x.stat with last := last, conf := 0 } })]
  swap
  · have g0 : (b.slot s.cur).scratched.granted = [] := granted_none _ (by rw [b2]; exact congrArg (·.tiles) h2)
    simp only [g0]; rfl
  have e5 : s.myCluster = clusterOf s.cur := rfl
  rw [e5, hb]
  refine ⟨{ kind := 0, engine := 0, solo := s.soloActive s.cur, last := last, slot := slotIx s.cur,
            pc := (s.slot s.cur).region.first, size := (s.slot s.cur).region.sizeWord, conf := (s.slot s.cur).stat.conf },
          s.regionSig [s.cur], ?_⟩
  unfold State.commitEnd
  rw [conflicts_none]
  · intro g hg
    rw [slotsOf_eq (record_slots _ _ _ _)] at hg
    by_cases hgc : g = s.cur
    · subst hgc; rw [slots_slot (record_slots _ _ _ _), slot_modSlot, b2]; exact hp
    · rw [slots_slot (record_slots _ _ _ _), slot_modSlot_other _ _ hgc, slots_slot b1]
      rcases slotsOf_mod _ _ _ _ _ hg with rfl | hg
      · exact absurd rfl hgc
      · rw [slotsOf_eq b1] at hg; exact (h5 g hg).1
  · intro g hg hs
    have hgc : g ≠ s.cur := by simpa using hs
    rw [slots_slot (record_slots _ _ _ _), slot_modSlot_other _ _ hgc, slots_slot b1]
    rw [slotsOf_eq (record_slots _ _ _ _)] at hg
    rcases slotsOf_mod _ _ _ _ _ hg with rfl | hg
    · exact absurd rfl hgc
    · rw [slotsOf_eq b1] at hg
      rw [← (h5 g hg).2 hgc]
      congr 1
      simp [State.regionSig, e0]

/-- A bundle more leaves a lone region lone. -/
theorem counted_lone (s : State) (h : s.lone) : s.counted.lone := by
  obtain ⟨h1, h2, h3, h4, h5⟩ := h
  have e : s.counted.me = { s.me with region := { s.me.region with bundles := s.me.region.bundles + 1 } } := slot_modSlot _ _ _
  refine ⟨by rw [e]; exact h1, by rw [e]; exact h2, by rw [e]; exact h3, by rw [e]; exact h4, fun g hg => ?_⟩
  by_cases hgc : g = s.cur
  · subst hgc
    have e' : s.counted.slot s.cur = s.counted.me := rfl
    rw [e', e]
    exact ⟨parked_self s fun g hg => (h5 g hg).1, fun h => absurd rfl h⟩
  · have e2 : s.counted.slot g = s.slot g := slot_modSlot_other _ _ hgc
    rw [e2, e]
    rcases slotsOf_mod _ _ _ _ _ hg with rfl | hg
    · exact absurd rfl hgc
    · exact h5 g hg

/-- What the commit of a lone region leaves when a bundle ends it. -/
theorem commit_lone (s : State) (h : s.lone) (last : Nat) :
    ∃ r w, s.counted.commitRegions [s.cur] last = (((s.counted.commitBegin s.myCluster (s.me.region.stores.filter fun c => c.1 <
        scratchBase)).modSlot s.cur fun x => { x.scratched with
        region := { x.region with res := ⟨[], [], []⟩, kept := ⟨[], [], []⟩ }
        stat := { x.stat with last := last, conf := 0 } }).record s.myCluster r w).satisfy s.myCluster := by
  have k := commit_alone s.counted (counted_lone s h) last
  have e : s.counted.me.region.stores = s.me.region.stores := by
    have : s.counted.me = { s.me with region := { s.me.region with bundles := s.me.region.bundles + 1 } } := slot_modSlot _ _ _
    rw [this]
  rw [e] at k; exact k

/-- The state after a word that ends its region, by what follows the commit. -/
theorem boundary_after (s : State) (a : After) (hg : ∀ n, a ≠ .gang n) (ht : ∀ c v, a ≠ .trap c v) : s.boundary a =
   { (((s.counted.commitRegions [s.cur] a.last).modSlot s.cur fun x => { x with wait := none }).afterCommit s.cur a (s.me.pc + 4)).tick s.cur 1 with cur := s.cur, bundle := none } := by
  have : s.counted.finishRegions [(s.cur, a)] (s.me.pc + 4) = ((s.counted.commitRegions [s.cur] a.last).modSlot s.cur fun x => { x with wait := none }).afterCommit s.cur a (s.me.pc + 4) := by
    unfold State.finishRegions
    simp only [List.map_cons, List.map_nil, List.head?_cons, Option.getD_some, List.foldl_cons, List.foldl_nil]
    split
    · rename_i g n he
      simp only [List.cons.injEq, Prod.mk.injEq, and_true] at he
      exact absurd he.2 (hg n)
    · rename_i he
      simp only [List.cons.injEq, Prod.mk.injEq] at he
      exact absurd he.1.2 (ht _ _)
    · rfl
  rw [State.boundary, this]

/-! ## Discards and traps -/

/-- The discard of a region that holds no tiles. -/
theorem discard_bare (s : State) (g last : Nat) (h1 : (s.slot g).region.res.tiles = []) (h2 : (s.slot g).region.kept.tiles = []) :
   s.discard g last = (s.unwait g).modSlot g fun x => x.discarded.withLast last := by
  unfold State.discard State.giveUp State.giveUpAll
  simp only [Region.held, h1, h2, List.append_nil, State.giveBack, List.reverse_nil, List.foldl_nil, State.letGo, modSlot_modSlot]
  rfl

/-- The discard of a region that holds no tiles, which runs again. -/
theorem rerun_bare (s : State) (g last : Nat) (h1 : (s.slot g).region.res.tiles = []) (h2 : (s.slot g).region.kept.tiles = []) :
   s.rerun g last = (s.unwait g).modSlot g fun x => (x.discarded.withLast last).opened s.mem x.region.first x.region.atomic false
       := by
  unfold State.rerun
  simp only [discard_bare s g last h1 h2, State.openRegion, modSlot_modSlot]
  rfl

/-- A discard leaves an abort waiting. -/
theorem abort_discarded (x : Slot) (n) : (x.discarded.withLast n).abort = x.abort := rfl

/-- The entry of a trap that discards a region without tiles (spec/01_engines.md R40). -/
theorem trap_abort (s : State) (g code v a b p) (h1 : (s.slot g).region.res.tiles = []) (h2 : (s.slot g).region.kept.tiles = [])
    (hk : (s.slot g).keeps a = false):
   s.enterTrap g code v a b p = (s.unwait g).modSlot g fun x =>
     let y : Slot := { x.discarded.withLast 6 with solo := none, soloWait := none }
     let z : Slot := { y with live := y.live.trapped x.region.first (causeWord a false b code) v, stat := { y.stat with ea := x.region.atomic }, xpc := (p.map fun p => p &&& 0xFFFFFFFC).getD y.xpc, wait := none, pages := [] }
     z.opened s.mem (vectorOf z.live.tvec) false false := by
  unfold State.enterTrap
  simp only [hk, Bool.false_and, Bool.false_eq_true, ↓reduceIte, State.endSolo, discard_bare s g 6 h1 h2, modSlot_modSlot]
  unfold State.modSlot
  rfl

/-- A double trap on a slot whose region holds no tiles (spec/01_engines.md R44). -/
theorem double_bare (s : State) (g c p) (h1 : (s.slot g).region.res.tiles = []) (h2 : (s.slot g).region.kept.tiles = []) :
   s.doubleTrap g c p = ((s.unwait g).modSlot g fun x => { (x.discarded.withLast 6).opened s.mem x.region.first x.region.atomic false with solo := none, soloWait := none, halted := true, xpc := p &&& 0xFFFFFFFC, wait := some (.leave (.failed 7 0 c)) }).logMachine
       0x3E0 g [bits (s.slot g).live.cause 0 10, c] := by
  unfold State.doubleTrap State.endSolo
  simp only [rerun_bare s g 6 h1 h2, modSlot_modSlot]

/-- The record of a machine event (spec/15_taproot.md R418). -/
theorem log_mem (s : State) (code subj args) : (s.logMachine code subj args).man.logseq = s.man.logseq + 1 ∧ ∃ r, mfind
    (s.logMachine code subj args).man.log (s.man.logseq % 4096) = some r ∧ r[1] = BitVec.ofNat 32 code ∧ r[4] = BitVec.ofNat 32 subj
   ∧ r[5] = BitVec.ofNat 32 (args.getD 0 0) ∧ r[6] = BitVec.ofNat 32 (args.getD 1 0) := by
  refine ⟨rfl, _, mfind_mput_same _ _ _, ?_, ?_, ?_, ?_⟩ <;> simp

end Sys2Proof.Machine
end

