-- ==== Sys2Proof/Laws/Vector.lean ====
section
/-!
SUPPORT. The laws of the vector words on a free slot: what each shape of word does (spec/06_vector.md R168-R173).
-/

namespace Sys2Proof.Machine

/-- A result is written to the live registers alike within a bundle and outside one. -/
theorem putLanes_bundle (s : State) (b : Bundle) (d : BitVec 7) (g : BitVec 2) (f : Nat → LaneResult) (h : s.bundle = none)
    (hb : b.src = s.me.live) :
    ({ s with bundle := some b } : State).putLanes d g f = { s.putLanes d g f with bundle := some b } := by
  have e1 : ({ s with bundle := some b } : State).src = s.me.live := hb
  have e2 : s.src = s.me.live := src_none s h
  simp only [State.putLanes, State.rP, e1, e2]
  have k (F : Flags) : (({ s with bundle := some b } : State).orLive F).src = s.me.live := hb
  have k2 (F : Flags) : (s.orLive F).src = { s.me.live with status := setFlags s.me.live.status F } := by
    rw [src_none _ (by simpa [State.orLive] using h)]; simp [State.orLive]
  simp only [State.wV, State.rP, State.rV, k, k2]
  rfl

/-- A result leaves the region. -/
theorem putLanes_region (s : State) (d : BitVec 7) (g : BitVec 2) (f : Nat → LaneResult) :
    (s.putLanes d g f).me.region = s.me.region := by
  simp [State.putLanes, State.wV, State.orLive, State.dropLoad]

@[simp] theorem putLanes_cur (s : State) (d : BitVec 7) (g : BitVec 2) (f : Nat → LaneResult) : (s.putLanes d g f).cur = s.cur := rfl
@[simp] theorem putLanes_bundle_none (s : State) (d : BitVec 7) (g : BitVec 2) (f : Nat → LaneResult) :
    (s.putLanes d g f).bundle = s.bundle := rfl
@[simp] theorem putLanes_mem (s : State) (d : BitVec 7) (g : BitVec 2) (f : Nat → LaneResult) : (s.putLanes d g f).mem = s.mem := rfl

/-- A word on a free slot that writes a result and takes further ck. -/
theorem word_lanes (s : State) (u : Uses) (body : State → State) (extra : Nat) (d : BitVec 7) (g : BitVec 2) (f : Nat → LaneResult)
    (hf : s.free u)
    (hb : body (s.begun u) = { s.putLanes d g f with bundle := some { (s.begun u).bundleD with extra := extra } }) :
    word u body s = .next ((s.putLanes d g f).ended (1 + (u.reads.eraseDups.length - 2) + extra) (s.me.pc + 4)) := by
  have k := putLanes_region s d g f
  change ((s.putLanes d g f).slot s.cur).region = _ at k
  exact word_ends s (s.putLanes d g f) u body none extra hf hb rfl (by rw [k]; exact hf.2.2.2.1) (by rw [k]; exact hf.2.2.2.2.1)
    hf.1

/-- The ck of a word by its main-file reads (spec/02_encoding.md R60). -/
theorem reads_ck_one (a : BitVec 7) : (useSrc [a]).reads.eraseDups.length - 2 = 0 := by
  unfold useSrc; by_cases h : a.toNat < 64 <;> simp [h, List.eraseDups, List.eraseDupsBy, List.eraseDupsBy.loop]

theorem lanes1_free (F : Word → LaneResult) (d a : BitVec 7) (g : BitVec 2) (s : State) (h : s.free (useB d [a])) :
    lanes1 F d a g s = .next ((s.putLanes d g fun i => F (laneOf (s.me.live.operand a) i)).ended
      (1 + ((useSrc [a]).reads.eraseDups.length - 2)) (s.me.pc + 4)) :=
  word_lanes s _ _ 0 d g _ h (putLanes_bundle s _ d g _ h.1 rfl)

theorem lanes2_free (F : Word → Word → LaneResult) (d a b : BitVec 7) (g : BitVec 2) (s : State) (h : s.free (useB d [a, b])) :
    lanes2 F d a b g s = .next ((s.putLanes d g fun i =>
      F (laneOf (s.me.live.operand a) i) (laneOf (s.me.live.operand b) i)).ended
        (1 + ((useSrc [a, b]).reads.eraseDups.length - 2)) (s.me.pc + 4)) :=
  word_lanes s _ _ 0 d g _ h (putLanes_bundle s _ d g _ h.1 rfl)

theorem lanes3_free (F : Word → Word → Word → LaneResult) (d a b : BitVec 7) (g : BitVec 2) (s : State)
    (h : s.free (useB d [a, b, d])) :
    lanes3 F d a b g s = .next ((s.putLanes d g fun i =>
      F (laneOf (s.me.live.operand a) i) (laneOf (s.me.live.operand b) i) (laneOf (s.me.live.operand d) i)).ended
        (1 + ((useSrc [a, b, d]).reads.eraseDups.length - 2)) (s.me.pc + 4)) :=
  word_lanes s _ _ 0 d g _ h (putLanes_bundle s _ d g _ h.1 rfl)

/-- The words that replay for subnormal values (R171). -/
theorem replayLanes_free (srcs : List (BitVec 7)) (F : State → Nat → LaneResult) (d : BitVec 7) (g : BitVec 2) (s : State)
    (h : s.free (useB d srcs)) :
    replayLanes d g srcs F s = .next ((s.putLanes d g (F (s.begun (useB d srcs)))).ended
      (1 + ((useSrc srcs).reads.eraseDups.length - 2)
        + 40 * s.replays (s.me.live.preg g.toNat) srcs fun i => (F (s.begun (useB d srcs)) i).tiny) (s.me.pc + 4)) := by
  refine word_lanes s _ _ (40 * s.replays (s.me.live.preg g.toNat) srcs fun i => (F (s.begun (useB d srcs)) i).tiny) d g _ h ?_
  refine (putLanes_bundle s _ d g _ h.1 rfl).trans ?_
  exact congrArg (fun e => ({ s.putLanes d g (F (s.begun (useB d srcs))) with
    bundle := some { (s.begun (useB d srcs)).bundleD with extra := e } } : State)) (Nat.zero_add _)

/-- The compares (R175). -/
theorem compare_free (c : Word → Word → Bool) (d a b : BitVec 7) (g : BitVec 2) (s : State) (h : s.free (useSrc [a, b])) :
    compare c d a b g s = .next ((s.wP d.toNat (maskOf fun i => lane (s.me.live.preg g.toNat) i
      && c (laneOf (s.me.live.operand a) i) (laneOf (s.me.live.operand b) i))).ended 1 (s.me.pc + 4)) := by
  have hs : ((s.wP d.toNat (maskOf fun i => lane (s.me.live.preg g.toNat) i
      && c (laneOf (s.me.live.operand a) i) (laneOf (s.me.live.operand b) i))).slot s.cur).region = s.me.region := by
    rw [State.wP, State.modLive, State.modMe, slot_modSlot]; rfl
  have hr : (useSrc [a, b]).reads.eraseDups.length ≤ 2 := by
    unfold useSrc
    by_cases h1 : a.toNat < 64 <;> by_cases h2 : b.toNat < 64 <;>
      simp [h1, h2, List.eraseDups, List.eraseDupsBy, List.eraseDupsBy.loop]
    split <;> simp
  exact word_passes s _ _ _ h rfl rfl (by rw [hs]; exact h.2.2.2.1)
    (by rw [hs]; exact h.2.2.2.2.1) h.1 hr

end Sys2Proof.Machine
end

