-- ==== Sys2Proof/Tests/Slice0.lean ====
section
/-!
SUPPORT. Tests of the model: the words of the encoding tables, the checks of well-formedness, single steps with results taken
from the spec's examples and tables, and for every statement a state and operands that meet its hypotheses.
-/

namespace Sys2Proof.Tests

open Sys2Proof Sys2Proof.Machine

set_option Elab.async false

/-! ## Small states -/

/-- The module after reset with slot 0 changed. -/
def slotWith (f : Slot → Slot) : State := State.reset.modSlot 0 f

/-- The module after reset with scalar registers of slot 0 set. -/
def regsWith (l : List (Nat × Word)) : State :=
  slotWith fun x => { x with live := l.foldl (fun r p => r.setS p.1 p.2) x.live }

/-- The same with STATUS.RT set. -/
def rootWith (l : List (Nat × Word)) : State :=
  (regsWith l).modSlot 0 fun x => { x with live := { x.live with status := 0x80000000 } }

/-- The state that an outcome gives. -/
def after (o : Host.Outcome State Fault Refusal) : State :=
  match o with
  | .next t => t
  | _ => State.reset

/-- Does an outcome give a next state? -/
def isNext (o : Host.Outcome State Fault Refusal) : Bool :=
  match o with
  | .next _ => true
  | _ => false

/-- A slice. -/
def someSlice : Slice :=
  { id := 0, sid := 0, target := 0, entry := 0, args := Vector.replicate 8 0, deadline := 0, budget := 0,
    fp := Vector.replicate 4 (Vector.replicate 4 0), place := 0, prio := 0, domain := 0, flags := 0, attempt := 0, left := 0, since := none,
    last := none, pins := [], pulling := [] }

/-! ## Words of the encoding tables (spec/opcode_table.json: the fixed bits of each row and the places of its fields) -/

theorem test_decode_scalar_1 : ([
    (0x01A35600, .add 20 13 11),
    (0x01A35601, .sub 20 13 11),
    (0x01A35602, .and 20 13 11),
    (0x01A35603, .or 20 13 11),
    (0x01A35604, .xor 20 13 11),
    (0x01A35605, .andn 20 13 11),
    (0x01A35606, .shl 20 13 11),
    (0x01A35607, .shr 20 13 11),
    (0x01A35608, .sra 20 13 11),
    (0x01A35609, .slt 20 13 11),
    (0x01A3560A, .sltn 20 13 11),
    (0x01A3560B, .seq 20 13 11)] : List (Nat × Instr)).all (fun x => decodeTableWord 32 x.1 == some x.2) = true := by decide

theorem test_decode_scalar_2 : ([
    (0x01A3560C, .min 20 13 11),
    (0x01A3560D, .minn 20 13 11),
    (0x01A3560E, .max 20 13 11),
    (0x01A3560F, .maxn 20 13 11),
    (0x01A35610, .addx4 20 13 11),
    (0x01A35611, .addx64 20 13 11),
    (0x01A35612, .mul 20 13 11),
    (0x01A35613, .mulh 20 13 11),
    (0x01A35614, .mulhn 20 13 11),
    (0x01A35615, .div 20 13 11),
    (0x01A35616, .divn 20 13 11),
    (0x01A35617, .rem 20 13 11)] : List (Nat × Instr)).all (fun x => decodeTableWord 32 x.1 == some x.2) = true := by decide

theorem test_decode_scalar_3 : ([
    (0x01A35618, .remn 20 13 11),
    (0x01A35619, .movz 20 13 11),
    (0x01A3561A, .movnz 20 13 11),
    (0x01A3401B, .clz 20 13),
    (0x01A3401C, .popc 20 13),
    (0x01A3401D, .prd 20 13),
    (0x01A3401E, .pwr 20 13),
    (0x02A36001, .addi 20 13 0x2001),
    (0x03A36001, .andi 20 13 0x2001),
    (0x04A36001, .ori 20 13 0x2001),
    (0x05A36001, .xori 20 13 0x2001),
    (0x06A3400B, .shli 20 13 11)] : List (Nat × Instr)).all (fun x => decodeTableWord 32 x.1 == some x.2) = true := by decide

theorem test_decode_scalar_4 : ([
    (0x06A3402B, .shri 20 13 11),
    (0x06A3404B, .srai 20 13 11),
    (0x07A40001, .lui 20 0x40001),
    (0x08A36001, .slti 20 13 0x2001),
    (0x09A36001, .sltni 20 13 0x2001),
    (0x0AA00803, .csrr 20 0x803),
    (0x0AA35803, .csrw 20 13 0x803),
    (0x0AA36803, .csrs 20 13 0x803),
    (0x0AA37803, .csrc 20 13 0x803),
    (0x0C800305, .j 0x800305),
    (0x0D800305, .jal 0x800305),
    (0x0E050000, .jr 20)] : List (Nat × Instr)).all (fun x => decodeTableWord 32 x.1 == some x.2) = true := by decide

theorem test_decode_scalar_5 : ([
    (0x0EA34001, .jalr 20 13),
    (0x10A36001, .beq 20 13 0x2001),
    (0x11A36001, .bne 20 13 0x2001),
    (0x12A36001, .blt 20 13 0x2001),
    (0x13A36001, .bge 20 13 0x2001),
    (0x14A36001, .bltn 20 13 0x2001),
    (0x15A36001, .bgen 20 13 0x2001),
    (0x16B02001, .bp 2 6 0x2001),
    (0x17A02001, .loop 20 0x2001)] : List (Nat × Instr)).all (fun x => decodeTableWord 32 x.1 == some x.2) = true := by decide

theorem test_decode_memory_1 : ([
    (0x18A36001, .ldI8 20 13 0x2001),
    (0x19A36001, .ldN8 20 13 0x2001),
    (0x1AA36001, .ldI16 20 13 0x2001),
    (0x1BA36001, .ldN16 20 13 0x2001),
    (0x1CA36001, .ldI32 20 13 0x2001),
    (0x1DA36001, .stI8 20 13 0x2001),
    (0x1EA36001, .stI16 20 13 0x2001),
    (0x1FA36001, .stI32 20 13 0x2001),
    (0x2115AE01, .vld 5 13 3 0x201),
    (0x2215AE01, .vst 5 13 3 0x201),
    (0x2315AF40, .vlds 5 13 3 26),
    (0x2415AF40, .vsts 5 13 3 26)] : List (Nat × Instr)).all (fun x => decodeTableWord 32 x.1 == some x.2) = true := by decide

theorem test_decode_memory_2 : ([
    (0x2515AC58, .vldx 5 13 3 5 2),
    (0x2615AC58, .vstx 5 13 3 5 2),
    (0x2AA35600, .amoswap 20 13 11),
    (0x2AA35601, .amoadd 20 13 11),
    (0x2AA35602, .amoand 20 13 11),
    (0x2AA35603, .amoor 20 13 11),
    (0x2AA35604, .amoxor 20 13 11),
    (0x2AA35605, .amomin 20 13 11),
    (0x2AA35606, .amomax 20 13 11),
    (0x2AA35607, .amominn 20 13 11),
    (0x2AA35608, .amomaxn 20 13 11),
    (0x2AA35609, .amocas 20 13 11)] : List (Nat × Instr)).all (fun x => decodeTableWord 32 x.1 == some x.2) = true := by decide

theorem test_decode_memory_3 : ([
    (0x2B15A009, .movws 5 13 9)] : List (Nat × Instr)).all (fun x => decodeTableWord 32 x.1 == some x.2) = true := by decide

theorem test_decode_pool_1 : ([
    (0x20A36001, .ldc 20 13 0x2001),
    (0x2715AE01, .vldc 5 13 3 0x201),
    (0x360500D0, .tpart 20 13),
    (0x36A357A1, .talloc 20 13 11 26),
    (0x36A357A2, .tallocn 20 13 11 26),
    (0x36A34023, .tqry 20 13 2),
    (0x36051A04, .taban 20 13)] : List (Nat × Instr)).all (fun x => decodeTableWord 32 x.1 == some x.2) = true := by decide

theorem test_decode_bulb_1 : ([
    (0x2815A201, .qld 5 13 0x201),
    (0x2915A201, .qst 5 13 0x201),
    (0xB05CC000, .qadd 5 6 3),
    (0xB05CC004, .qsub 5 6 3),
    (0xB05CC008, .qmul 5 6 3),
    (0xB05CC00C, .qmax 5 6 3),
    (0xB05CC010, .qmin 5 6 3),
    (0xB0DC0300, .qscl 5 6 6),
    (0xB0DC0004, .qneg 5 6),
    (0xB0DCC008, .qmap 5 6 3),
    (0xB0DC000C, .qmov 5 6),
    (0xB09CC092, .qpick 1 6 3 1 2)] : List (Nat × Instr)).all (fun x => decodeTableWord 32 x.1 == some x.2) = true := by decide

theorem test_decode_bulb_2 : ([
    (0xB1540300, .qmake 5 2 6),
    (0xB18A8302, .qmom 5 2 6 2),
    (0xB18A0286, .qqnt 5 5 2),
    (0xB18A028A, .qcdf 5 5 2)] : List (Nat × Instr)).all (fun x => decodeTableWord 32 x.1 == some x.2) = true := by decide

theorem test_decode_control_1 : ([
    (0x2C000003, .gang 3),
    (0x2D000000, .split),
    (0x2E000101, .barw 0x101),
    (0x2E001101, .bara 0x101),
    (0x2E002101, .barwt 0x101),
    (0x2F050006, .trap 20 6),
    (0x30000000, .eret)] : List (Nat × Instr)).all (fun x => decodeTableWord 32 x.1 == some x.2) = true := by decide

theorem test_decode_regions_1 : ([
    (0x31000000, .rgn),
    (0x31000001, .rgnA),
    (0x31050002, .abort 20),
    (0x31A00003, .rgnq 20),
    (0x31A35604, .trcr 20 13 11),
    (0x31A35605, .trcc 20 13 11)] : List (Nat × Instr)).all (fun x => decodeTableWord 32 x.1 == some x.2) = true := by decide

theorem test_decode_matrix_1 : ([
    (0x32A35640, .mwld 20 13 11 4),
    (0x32A357A1, .mmaBf16 20 13 11 26),
    (0x32A357A2, .mmaE4m3 20 13 11 26),
    (0x32A357A3, .mmaE5m2 20 13 11 26),
    (0x32A357A4, .mmaB4 20 13 11 26),
    (0x32A357A5, .mmasBf16 20 13 11 26),
    (0x32A357A6, .mmasE4m3 20 13 11 26),
    (0x32A357A7, .mmasE5m2 20 13 11 26),
    (0x32A357A8, .mmasB4 20 13 11 26),
    (0x32A01A19, .mzero 20 13 1),
    (0x32A3562A, .mdrain 20 13 11 2),
    (0x32A3562B, .mdrainBf16 20 13 11 2)] : List (Nat × Instr)).all (fun x => decodeTableWord 32 x.1 == some x.2) = true := by decide

theorem test_decode_matrix_2 : ([
    (0x32A0000C, .mwait 20),
    (0x32A0009D, .mqry 20 9)] : List (Nat × Instr)).all (fun x => decodeTableWord 32 x.1 == some x.2) = true := by decide

theorem test_decode_pull_1 : ([
    (0x33A340B0, .cpy 20 13 11),
    (0x33A357A1, .pull 20 13 11 26),
    (0x33A357A2, .pullc 20 13 11 26),
    (0x33A357A3, .pulld 20 13 11 26),
    (0x33A000D3, .pulldVerify 20 13),
    (0x33A357A4, .watch 20 13 11 26),
    (0x33A357A5, .watcht 20 13 11 26),
    (0x33051A06, .seqadv 20 13),
    (0x33A00007, .wcancel 20),
    (0x34A35701, .ldg 20 13 11 0x101),
    (0x35A35600, .seqldA 20 13 11)] : List (Nat × Instr)).all (fun x => decodeTableWord 32 x.1 == some x.2) = true := by decide

theorem test_decode_messages_1 : ([
    (0x37A35600, .ropen 20 13 11),
    (0x37050001, .rclose 20),
    (0x37A357A2, .send 20 13 11 26),
    (0x37A357A3, .sendv 20 13 11 26),
    (0x37A34004, .recv 20 13),
    (0x37A34005, .recvn 20 13)] : List (Nat × Instr)).all (fun x => decodeTableWord 32 x.1 == some x.2) = true := by decide

theorem test_decode_tasks_1 : ([
    (0x38A35600, .submit 20 13 11),
    (0x38A35601, .cancel 20 13 11),
    (0x38051A02, .yield 20 13),
    (0x38000003, .retire),
    (0x38051A04, .sleept 20 13),
    (0x38A357A5, .subat 20 13 11 26),
    (0x38A34006, .qstat 20 13),
    (0x38A35607, .fpin 20 13 11)] : List (Nat × Instr)).all (fun x => decodeTableWord 32 x.1 == some x.2) = true := by decide

theorem test_decode_fabric_1 : ([
    (0x39A357A0, .rkreg 20 13 11 26),
    (0x39050001, .rkrev 20),
    (0x39A35602, .ckreg 20 13 11),
    (0x39A34003, .ckdel 20 13)] : List (Nat × Instr)).all (fun x => decodeTableWord 32 x.1 == some x.2) = true := by decide

theorem test_decode_host_1 : ([
    (0x3AA357A0, .hovrTake 20 13 11 26),
    (0x3AA357A1, .plbinv 20 13 11 26),
    (0x3AA357A2, .xlinv 20 13 11 26),
    (0x3AA000D3, .migrSeal 20 13),
    (0x3AA357A3, .migrTake 20 13 11 26)] : List (Nat × Instr)).all (fun x => decodeTableWord 32 x.1 == some x.2) = true := by decide

theorem test_decode_hints_1 : ([
    (0x3F800305, .nop 0x800305),
    (0xBFC00305, .vnop 0x400305)] : List (Nat × Instr)).all (fun x => decodeTableWord 32 x.1 == some x.2) = true := by decide

theorem test_decode_vector_1 : ([
    (0x80030A1A, .vaddI32 3 5 6 2),
    (0x80830A1A, .vsubI32 3 5 6 2),
    (0x81030A1A, .vmulI32 3 5 6 2),
    (0x81830A1A, .vmulhI32 3 5 6 2),
    (0x82030A1A, .vmulhN32 3 5 6 2),
    (0x82830A1A, .vaddsI32 3 5 6 2),
    (0x83030A1A, .vaddsN32 3 5 6 2),
    (0x83830A1A, .vsubsI32 3 5 6 2),
    (0x84030A1A, .vsubsN32 3 5 6 2),
    (0x84830A1A, .vaddsI16 3 5 6 2),
    (0x85030A1A, .vaddsI8 3 5 6 2),
    (0x85830A1A, .vaddsN8 3 5 6 2)] : List (Nat × Instr)).all (fun x => decodeTableWord 32 x.1 == some x.2) = true := by decide

theorem test_decode_vector_2 : ([
    (0x86030A1A, .vminI32 3 5 6 2),
    (0x86830A1A, .vminN32 3 5 6 2),
    (0x87030A1A, .vmaxI32 3 5 6 2),
    (0x87830A1A, .vmaxN32 3 5 6 2),
    (0x88030A1A, .vand 3 5 6 2),
    (0x88830A1A, .vor 3 5 6 2),
    (0x89030A1A, .vxor 3 5 6 2),
    (0x89830A1A, .vandn 3 5 6 2),
    (0x8A030A1A, .vshl 3 5 6 2),
    (0x8A830A1A, .vshrN32 3 5 6 2),
    (0x8B030A1A, .vshrI32 3 5 6 2),
    (0x8B830A2E, .vshli 3 5 11 2)] : List (Nat × Instr)).all (fun x => decodeTableWord 32 x.1 == some x.2) = true := by decide

theorem test_decode_vector_3 : ([
    (0x8C030A2E, .vshriN32 3 5 11 2),
    (0x8C830A2E, .vshriI32 3 5 11 2),
    (0x8D030A1A, .vaddiI32 3 5 6 2),
    (0x8D830A02, .vabsI32 3 5 2),
    (0x8E030A1A, .vcmpeqI32 3 5 6 2),
    (0x8E830A1A, .vcmpltI32 3 5 6 2),
    (0x8F030A1A, .vcmpltN32 3 5 6 2),
    (0x8F830A1A, .vsel 3 5 6 2),
    (0x90030A1A, .vaddF32 3 5 6 2),
    (0x90830A1A, .vsubF32 3 5 6 2),
    (0x91030A1A, .vmulF32 3 5 6 2),
    (0x91830A1A, .vfmaF32 3 5 6 2)] : List (Nat × Instr)).all (fun x => decodeTableWord 32 x.1 == some x.2) = true := by decide

theorem test_decode_vector_4 : ([
    (0x92030A1A, .vfmsF32 3 5 6 2),
    (0x92830A1A, .vminF32 3 5 6 2),
    (0x93030A1A, .vmaxF32 3 5 6 2),
    (0x93830A02, .vabsF32 3 5 2),
    (0x94030A1A, .vaddBf16 3 5 6 2),
    (0x94830A1A, .vmulBf16 3 5 6 2),
    (0x95030A1A, .vfmaBf16 3 5 6 2),
    (0x95830A1A, .vaddF16 3 5 6 2),
    (0x96030A1A, .vmulF16 3 5 6 2),
    (0x96830A1A, .vfmaF16 3 5 6 2),
    (0x97030A1A, .vcmpeqF32 3 5 6 2),
    (0x97830A1A, .vcmpltF32 3 5 6 2)] : List (Nat × Instr)).all (fun x => decodeTableWord 32 x.1 == some x.2) = true := by decide

theorem test_decode_vector_5 : ([
    (0x98030A1A, .vcmpleF32 3 5 6 2),
    (0x98830A1A, .vcmpunF32 3 5 6 2),
    (0x99030A02, .vcvtF32I32 3 5 2),
    (0x99030A06, .vcvtF32N32 3 5 2),
    (0x99030A0A, .vcvtF32I16 3 5 2),
    (0x99030A0E, .vcvtF32N16 3 5 2),
    (0x99030A12, .vcvtF32I8 3 5 2),
    (0x99030A16, .vcvtF32N8 3 5 2),
    (0x99030A22, .vcvtI32F32 3 5 2),
    (0x99030A26, .vcvtN32F32 3 5 2),
    (0x99030A42, .vcvtF32Bf16 3 5 2),
    (0x99030A46, .vcvtF32F16 3 5 2)] : List (Nat × Instr)).all (fun x => decodeTableWord 32 x.1 == some x.2) = true := by decide

theorem test_decode_vector_6 : ([
    (0x99030A4A, .vcvtF32E4m3 3 5 2),
    (0x99030A4E, .vcvtF32E5m2 3 5 2),
    (0x99030A66, .vcvtBf16F32 3 5 1 2),
    (0x99030A6E, .vcvtF16F32 3 5 1 2),
    (0x99030A8A, .vcvtE4m3F32 3 5 2 2),
    (0x99030A9A, .vcvtE5m2F32 3 5 2 2),
    (0x99030AA2, .vcvtI32I16 3 5 2),
    (0x99030AA6, .vcvtI32N16 3 5 2),
    (0x99030AAA, .vcvtI32I8 3 5 2),
    (0x99030AAE, .vcvtI32N8 3 5 2),
    (0x99030AB2, .vcvtN32I32 3 5 2),
    (0x99030AB6, .vcvtI32N32 3 5 2)] : List (Nat × Instr)).all (fun x => decodeTableWord 32 x.1 == some x.2) = true := by decide

theorem test_decode_vector_7 : ([
    (0x99830A1A, .vqb4 3 5 6 2),
    (0x9A030A02, .vrcpE 3 5 2),
    (0x9A830A02, .vrsqE 3 5 2),
    (0x9B030A1A, .vrcps 3 5 6 2),
    (0x9B830A1A, .vrsqs 3 5 6 2),
    (0x9C030A02, .vexp2E 3 5 2),
    (0x9C830A02, .vlog2E 3 5 2),
    (0x9D030A02, .vtanhE 3 5 2),
    (0xA0030A02, .vrsumF32 3 5 2),
    (0xA0830A02, .vrmaxF32 3 5 2),
    (0xA1030A02, .vrminF32 3 5 2),
    (0xA1830A02, .vrsumI32 3 5 2)] : List (Nat × Instr)).all (fun x => decodeTableWord 32 x.1 == some x.2) = true := by decide

theorem test_decode_vector_8 : ([
    (0xA2030A02, .vrmaxI32 3 5 2),
    (0xA2830A1A, .vperm 3 5 6 2),
    (0xA3030A26, .vbcast 3 5 9 2),
    (0xA3830A2E, .vslideup 3 5 11 2),
    (0xA4030A2E, .vslidedn 3 5 11 2),
    (0xA4830A1A, .vzipl 3 5 6 2),
    (0xA5030A1A, .vziph 3 5 6 2),
    (0xA5830A18, .pand 3 5 6),
    (0xA6030A18, .por 3 5 6),
    (0xA6830A18, .pxor 3 5 6),
    (0xA7030A00, .pnot 3 5),
    (0xA7830A02, .vpcnt 3 5 2)] : List (Nat × Instr)).all (fun x => decodeTableWord 32 x.1 == some x.2) = true := by decide

theorem test_decode_vector_9 : ([
    (0xA8030A02, .movw 3 5 2),
    (0xA8830016, .movwi 3 5 2),
    (0xAC030002, .vrng 3 2),
    (0xAC80C994, .rngsetKey 100 101),
    (0xAC81C194, .rngsetCtr 101),
    (0xAC82C194, .rngsetAdv 101)] : List (Nat × Instr)).all (fun x => decodeTableWord 32 x.1 == some x.2) = true := by decide
/-! ## Well-formedness: one ill-formed term for each check, and the bound beside it -/

/-- Selecting values that the tables leave unassigned. -/
theorem test_ill_formed_selectors :
    ([.bp 3 0 0, .vldx 0 0 0 0 3, .vstx 0 0 0 0 3, .gang 0, .mwld 0 0 0 5, .tqry 1 0 3, .qmap 0 0 4, .qpick 2 0 0 0 0, .qmom 0 3 0 0,
      .reservedHintA 3 0, .reservedHintB 7 0] : List Instr).all (fun i => !i.wf) = true := by decide

/-- Register numbers out of the range of a field: predicates above 7, LOOP with s0, bulbs above 7, register groups that run past
s31, tokens that are s0, vector operands above 72, and a QMAKE whose vectors run past v63. -/
theorem test_ill_formed_registers :
    ([.prd 1 8, .pwr 8 1, .loop 0 1, .qld 8 0 0, .qst 8 0 0, .cpy 1 2 29, .pull 1 2 3 3, .pullc 1 2 3 29, .pulld 1 2 3 29,
      .pulldVerify 1 29, .watcht 1 2 3 31, .wcancel 0, .tpart 1 29, .talloc 0 1 2 3, .tallocn 0 1 2 3, .tqry 0 1 2, .ropen 0 1 2,
      .send 1 2 3 29, .sendv 1 2 3 31, .recv 0 1, .recvn 0 1, .sleept 1 31, .subat 1 2 3 31, .qstat 0 1, .rkreg 0 1 2 3,
      .hovrTake 1 2 3 30, .hovrGive 1 2 3 30, .migrSeal 1 31, .migrTake 1 2 3 31, .migrDiscard 1 31, .migrReclaim 1 31,
      .vaddI32 73 0 0 0, .vaddI32 0 73 0 0, .vsel 0 0 95 0, .vcmpeqI32 8 0 0 0, .qmake 0 7 60] : List Instr).all (fun i => !i.wf)
      = true := by decide

/-- A reserved field: MWLD of a format without a scale plane names no plane register. -/
theorem test_ill_formed_reserved : (Instr.mwld 1 2 3 2).wf = false ∧ (Instr.mwld 1 2 0 2).wf = true := by decide

/-- The same fields at the last value that each check lets through. -/
theorem test_well_formed_bounds :
    ([.bp 2 7 0, .vldx 63 31 7 63 2, .gang 3, .mwld 31 31 31 4, .tqry 31 31 2, .qmap 7 7 3, .qpick 1 7 7 72 3, .qmom 7 2 72 3,
      .reservedHintA 2 0, .reservedHintB 6 0, .prd 31 7, .loop 31 1, .qld 7 0 0, .cpy 1 2 28, .cpy 1 2 4, .watcht 1 2 3 30, .wcancel 31,
      .sleept 1 30, .hovrTake 1 2 3 29, .vaddI32 72 72 127 3] : List Instr).all Instr.wf = true := by decide

/-- The words of ill-formed terms raise the causes of R69: 0x006 for a selector, 0x007 for a reserved bit. -/
theorem test_ill_formed_words :
    ([0x16C00000, 0x2C000000, 0x32000050, 0x36000033, 0x2D000010] : List Word).all (fun w => causeAt false w != none) = true
      ∧ causeAt false 0x16C00000 = some 0x006 ∧ causeAt false 0x2C000000 = some 0x006 ∧ causeAt false 0x01002E1B = some 0x007 := by
  decide

/-- A step runs the word where it fetches: after reset the module runs a word that is placed for it. ADDI s1, s0, 5. -/
theorem test_step_runs_the_placed_word :
    ((after (step (State.reset.withFetchWord 32 0x42080005))).slot 0).live.sreg 1 = 5
      ∧ ((after (step (State.reset.withFetchWord 32 0x42080005))).slot 0).pc
        = ((State.reset.withFetchWord 32 0x42080005).slot 0).pc + 4 := by decide

/-! ## Words and results that the spec prints -/

/-- The program of spec/02_encoding.md: the fields that its table gives each word. -/
theorem test_words_of_chapter_02 : ([
    (0x3F000000, .nop 0), (0xA8800000, .movwi 0 0 0), (0x61048000, .vld 1 4 0 0), (0x7F000000, .nop 0), (0x02210040, .addi 4 4 64),
    (0x91800394, .vfmaF32 0 1 101 0), (0x57303FFC, .loop 6 (-4)), (0x62010000, .vst 0 8 0 0), (0x78000003, .retire)]
      : List (Nat × Instr)).all (fun x => decodeTableWord 32 x.1 == some x.2) = true := by decide

/-- The programs of spec/04_control.md and spec/05_commit.md. -/
theorem test_words_of_chapters_04_and_05 : ([
    (0x42100400, .addi 2 0 0x400), (0x4A009004, .csrw 0 2 4), (0x6F01C005, .trap 7 5), (0x4241C000, .addi 8 7 0),
    (0x5F080040, .stI32 1 0 0x40), (0x4A080003, .csrr 1 3), (0x5C080040, .ldI32 1 0 0x40), (0x70000000, .eret),
    (0x71000000, .rgn), (0x5C208000, .ldI32 4 2 0), (0x57183FFC, .loop 3 (-4))]
      : List (Nat × Instr)).all (fun x => decodeTableWord 32 x.1 == some x.2) = true := by decide

/-- The programs of spec/08_matrix.md and spec/09_pull.md. -/
theorem test_words_of_chapters_08_and_09 : ([
    (0x72480C19, .mzero 9 6 1), (0x72510000, .mwld 10 4 0 0), (0x466A4038, .shri 13 9 24), (0x51680008, .bne 13 0 8),
    (0x72594CC1, .mmaBf16 11 5 6 12), (0x7271CC1A, .mdrain 14 7 6 1), (0x7372D8A4, .watch 14 11 12 10),
    (0x7382DB41, .pull 16 11 13 20), (0x57303FE3, .loop 6 (-29)), (0x73016406, .seqadv 5 18)]
      : List (Nat × Instr)).all (fun x => decodeTableWord 32 x.1 == some x.2) = true := by decide

/-- spec/04_control.md: DIV of -7 by 2 is -3 and REM -1, and DIVN of 0xFFFFFFF9 by 2 is 0x7FFFFFFC. -/
theorem test_divisions : let s := regsWith [(1, 0xFFFFFFF9), (2, 2)]
    (after (exec (.div 3 1 2) s)).me.live.sreg 3 = 0xFFFFFFFD ∧ (after (exec (.rem 3 1 2) s)).me.live.sreg 3 = 0xFFFFFFFF
      ∧ (after (exec (.divn 3 1 2) s)).me.live.sreg 3 = 0x7FFFFFFC := by decide

/-- R105: division by 0, and the overflowing division. -/
theorem test_division_corners : let s := regsWith [(1, 0x80000000), (2, 0xFFFFFFFF)]
    (after (exec (.div 3 1 0) s)).me.live.sreg 3 = 0xFFFFFFFF ∧ (after (exec (.remn 3 1 0) s)).me.live.sreg 3 = 0x80000000
      ∧ (after (exec (.div 3 1 2) s)).me.live.sreg 3 = 0x80000000 ∧ (after (exec (.rem 3 1 2) s)).me.live.sreg 3 = 0 := by decide

/-- s0 discards a write; a sum wraps; a shift takes its amount modulo 32. -/
theorem test_scalar_edges : let s := regsWith [(1, 0xFFFFFFFF), (2, 33)]
    (after (exec (.addi 0 1 7) s)).me.live.sreg 0 = 0 ∧ (after (exec (.addi 3 1 1) s)).me.live.sreg 3 = 0
      ∧ (after (exec (.shl 3 1 2) s)).me.live.sreg 3 = 0xFFFFFFFE ∧ (after (exec (.lui 3 0x7FFFF) s)).me.live.sreg 3 = 0xFFFFE000 := by
  decide

/-- R113: LOOP counts down and branches back by 4 × its displacement until the count is 0. -/
theorem test_loop : let s := (regsWith [(6, 2), (7, 1)]).modSlot 0 fun x => { x with pc := 0x118 }
    (after (exec (.loop 6 (-4)) s)).me.pc = 0x108 ∧ (after (exec (.loop 6 (-4)) s)).me.live.sreg 6 = 1
      ∧ (after (exec (.loop 7 (-4)) s)).me.pc = 0x11C := by decide

/-- spec/04_control.md: TRAP 5 with 41 in s7 goes to TVEC with the asynchronous cause 0x045 and TVAL 41. -/
theorem test_trap : let s := (regsWith [(7, 41)]).modSlot 0 fun x => { x with pc := 0x20C, live := { x.live with tvec := 0x400 } }
    let t := after (exec (.trap 7 5) s)
    t.me.pc = 0x400 ∧ t.me.live.cause = 0xC0000045 ∧ t.me.live.tval = 41 ∧ t.me.live.epc = 0x210 := by decide

/-- R103, R114: a store is little-endian and stays in its region; the memory is not changed before the commit. -/
theorem test_store_bytes : let t := after (exec (.stI32 2 1 1) (regsWith [(1, 0x10000100), (2, 0x11223344)]))
    t.peek (flatRam 0 0x104) = 0x44 ∧ t.peek (flatRam 0 0x107) = 0x11 ∧ t.mem = [] := by decide

/-- R114: a misaligned access raises 0x010 at its address, an address in a gap 0x012. -/
theorem test_access_causes : let s := regsWith [(1, 0x10000102), (2, 0x40000)]
    (after (exec (.ldI32 3 1 0) s)).me.live.cause = 0x010 ∧ (after (exec (.ldI32 3 1 0) s)).me.live.tval = 0x10000102
      ∧ (after (exec (.ldI8 3 2 0) s)).me.live.cause = 0x012 := by decide

/-- R119: AMOADD answers the old word and buffers the sum. -/
theorem test_amoadd : let t := after (exec (.amoadd 3 1 2) (regsWith [(1, 0x10000100), (2, 5)]))
    t.me.live.sreg 3 = 0 ∧ t.peekNat (flatRam 0 0x100) 4 = 5 := by decide

/-- spec/03_numbers.md: 130.5 to .i8 is 127 with NV, -0.5 to .n8 is 0 with NX, -inf to .i32 is -2^31 with NV. -/
theorem test_conversions : f32ToInt (-128) 127 (f32 0x43028000) = (127, 0x1) ∧ (f32ToInt 0 255 (f32 0xBF000000)).1 = 0
    ∧ (f32ToInt (-(2 ^ 31)) (2 ^ 31 - 1) (f32 0xFF800000)) = (-(2 ^ 31), 0x1) := by decide

/-- spec/06_vector.md, the refined reciprocal of 2.0: the estimate, its step and the product. -/
theorem test_reciprocal : rcpE 0x40000000 = 0x3EFF58CD ∧ (refineStep (intVal 2) 0 0x40000000 0x3EFF58CD).val = 0x3F80539A
    ∧ (mulF32 0x3EFF58CD 0x3F80539A).val = 0x3EFFFF94 := by decide

/-- R173: VADDS.i32 clamps and VADD.i32 wraps. -/
theorem test_vector_saturation : let s := slotWith fun x => { x with live :=
      { x.live with v := (x.live.v.set 1 (Vector.replicate 16 0x7FFFFFFF)).set 2 (Vector.replicate 16 1) } }
    laneOf ((after (exec (.vaddsI32 3 1 2 0) s)).me.live.operand 3) 15 = 0x7FFFFFFF
      ∧ laneOf ((after (exec (.vaddI32 3 1 2 0) s)).me.live.operand 3) 15 = 0x80000000 := by decide

/-- R207-R211: the sum of two point masses at 2.0 and 3.0 of one tag, in lane 0, clove 0. -/
theorem test_bulb_sum : let q (w : Word) : Bulb :=
      { lanes := Vector.replicate 16 ((Vector.replicate 8 ⟨w, 0⟩).set 0 ⟨w, 0x8000⟩), tag := 7 }
    let s := slotWith fun x => { x with live := { x.live with q := (x.live.q.set 1 (q 0x40000000)).set 2 (q 0x40400000) } }
    let t := after (exec (.qadd 3 1 2) s)
    ((t.me.live.bulb 3).clove 0 0).val = 0x40A00000 ∧ ((t.me.live.bulb 3).clove 0 0).wt = 0x8000 ∧ (t.me.live.bulb 3).tag = 7 := by
  decide

/-- R125, R137: SPLIT outside a gang raises 0x022, and ERET outside a handler 0x025. -/
theorem test_refused_words : (after (exec .eret State.reset)).me.live.cause = 0x025
    ∧ (after (exec .split State.reset)).me.live.cause = 0x022 := by decide

/-- R127: BARM holds what is written; an unassigned register raises 0x00C, a privileged one 0x00D. -/
theorem test_csr : let s := regsWith [(1, 0x400)]
    (after (exec (.csrw 2 1 4) s)).me.live.tvec = 0x400 ∧ (after (exec (.csrr 2 0x7FF) s)).me.live.cause = 0x00C
      ∧ (after (exec (.csrr 2 0x810) s)).me.live.cause = 0x00D := by decide

set_option maxRecDepth 20000 in
/-- FIPS 180-4: the digest of "abc" begins ba 78 16 bf (spec/09_pull.md R272 names SHA-256). -/
theorem test_sha256 : (sha256 [0x61, 0x62, 0x63]).take 4 = [0xBA, 0x78, 0x16, 0xBF] := by decide

/-! ## Witnesses: for every statement with hypotheses, a state and operands that meet those of each of its clauses -/

/-- A slot on which words run: nothing is awaited, whatever registers a word names. -/
theorem witness_ScalarArithmetic : State.reset.free (useS [31, 0, 1]) ∧ State.reset.free (useS [31, 0])
    ∧ State.reset.free (useS [31]) := by decide

theorem witness_HardwiredRegisters : (0 : Nat) < 32 ∧ (31 : Nat) < 32 ∧ (0 : Nat) < 8 ∧ (7 : Nat) < 8 := by decide

theorem witness_ArithmeticFrame : let s := State.reset
    (Instr.add 31 1 2).arithDest = some 31 ∧ s.bundle = none ∧ s.me.live.gsize = 0 ∧ s.me.region.bundles < 4096
      ∧ (linesOf s.me.region.stores).length ≤ 256 ∧ s.me.region.effects.length ≤ 32 ∧ s.me.live.pend = 0 ∧ s.me.loads = []
      ∧ isNext (exec (.add 31 1 2) s) = true := by decide

theorem witness_BranchesAndJumps : State.reset.free (useS [1, 2]) ∧ State.reset.free (useS []) ∧ (2 : BitVec 2) ≠ 3
    ∧ State.reset.free (useS [1]) ∧ State.reset.free (useS [31]) := by decide

theorem witness_VectorWriteMerges : State.reset.bundle = none ∧ (72 : BitVec 7).toNat ≤ 72 ∧ 15 < 16
    ∧ (71 : BitVec 7) ≠ 72 ∧ (71 : BitVec 7).toNat ≠ 72 := by decide

/-- Destinations and sources of every kind: main file, operand file, lx, scalars. -/
theorem witness_VectorInteger : State.reset.free (useB 63 [72, 127]) ∧ State.reset.free (useB 72 [71])
    ∧ State.reset.free (useB 0 []) := by decide

theorem witness_VectorFloat : State.reset.free (useB 63 [72, 127]) ∧ State.reset.free (useB 63 [72, 127, 63]) := by decide

theorem witness_VectorConversions : State.reset.free (useB 72 [96]) := by decide

theorem witness_VectorPredicates : State.reset.free (useSrc [63, 127]) ∧ State.reset.free {} ∧ State.reset.free (useB 72 [0, 1])
    ∧ State.reset.free (useB 72 []) := by decide

theorem witness_VectorReductionsAndPermutes : State.reset.free (useB 72 [63]) ∧ State.reset.free (useB 72 [63, 127]) := by decide

/-- CTR may be as great as 0xFFFFFFFE for a draw, and after an advance. -/
theorem witness_QuantiseAndRandom :
    let s := slotWith fun x => { x with live := ({ x.live with rngctr := 0xFFFFFFFE }.setS 1 0) }
    s.free (useB 72 [0, 1]) ∧ s.free (useB 72 []) ∧ s.me.live.rngctr ≠ 0xFFFFFFFF ∧ s.free (useSrc [96, 127]) ∧ s.free (useSrc [97])
      ∧ 96 ≤ (96 : BitVec 7).toNat ∧ 96 ≤ (97 : BitVec 7).toNat
      ∧ s.me.live.rngctr.toNat + (s.me.live.sreg ((97 : BitVec 7).toNat - 96)).toNat ≤ 0xFFFFFFFE := by decide

/-- A register that may be accessed, with a zero and a non-zero source; BARM with no arrival; the numbers that raise. -/
theorem witness_CsrWords :
    let s := regsWith [(1, 0xFFFFFFFF)]
    let b := slotWith fun x => { x with arrivals := [5] }
    csrAssigned 0x030 = true ∧ csrDenied 0x030 s.me.live.rt = false ∧ s.free (useS [2]) ∧ s.free (useS [2, 1]) ∧ s.x 0 = 0 ∧ s.x 1 ≠ 0
      ∧ s.me.arrived = [] ∧ csrAssigned 0x7FF = false ∧ csrAssigned 0x810 = true ∧ csrDenied 0x810 s.me.live.rt = true
      ∧ b.free (useS [2]) ∧ b.free (useS [2, 1]) ∧ b.me.arrived ≠ []
      ∧ ((b.modLive fun r => r.setS 1 1).csrRead 0x030 ^^^ merge (b.csrRead 0x030) 1 0xFBFFFFFF) &&& 0xF001FFFF ≠ 0
      ∧ s.bundle = none := by decide

/-- The first and last address of every range, on a core of a compute cluster and on one of a memory cluster. -/
theorem witness_LocalAddressMap :
    let s := State.reset
    let m := { State.reset with cur := 288 * 32 }
    s.locate 0x3FFFF ≠ none ∧ s.locate 0x40000 = none ∧ s.locate 0x0FFFFFFF = none ∧ s.locate 0x10000000 ≠ none
      ∧ s.locate (BitVec.ofNat 32 (0x10000000 + ramSize 0 - 1)) ≠ none ∧ s.locate (BitVec.ofNat 32 (0x10000000 + ramSize 0)) = none
      ∧ s.locate 0x1FFFFFFF = none ∧ s.locate 0x700003FF = some (.scratch 0x3FF) ∧ s.locate 0x70000400 = some (.page 0x400)
      ∧ s.locate 0x70000FFF = some (.page 0xFFF) ∧ s.locate 0x70001000 = none ∧ s.locate 0x7FFFFFFF = none ∧ s.locate 0x80000000 = none
      ∧ isMem m.myCluster = true ∧ m.locate 0x80000000 = some (.mem (flatHbm 288 0)) ∧ m.locate 0xFFFFFFFF ≠ none := by decide

/-- The first and last address of every format window and gap; the block window without BSCALE, and with the least and the greatest
anchor; the same addresses on a memory core. -/
theorem witness_LocalAddressMap_windows :
    let s := State.reset
    let m := { State.reset with cur := 288 * 32 }
    let b (v : Word) := slotWith fun x => { x with live := { x.live with bscale := v } }
    s.locate 0x20000000 = some (.narrow fmtBF16 (flatRam 0 0)) ∧ s.locate 0x203FFFFF = some (.narrow fmtBF16 (flatRam 0 0x1FFFFE))
      ∧ s.locate 0x20400000 = none ∧ s.locate 0x2FFFFFFF = none ∧ s.locate 0x307FFFFF = some (.narrow fmtE4M3 (flatRam 0 0x1FFFFF))
      ∧ s.locate 0x30800000 = none ∧ s.locate 0x37FFFFFF = none ∧ s.locate 0x387FFFFF = some (.narrow fmtE5M2 (flatRam 0 0x1FFFFF))
      ∧ s.locate 0x38800000 = none ∧ s.locate 0x3FFFFFFF = none ∧ m.locate 0x207FFFFF = some (.narrow fmtBF16 (flatRam 288 0x3FFFFE))
      ∧ s.locate 0x40000000 = none ∧ (b 0x80000000).locate 0x40FFFFFC = some (.block (flatRam 0 0x1FFFFF) (flatRam 0 0x1FFFF) true)
      ∧ (b 0x8000FFFF).locate 0x40000000 = none ∧ (b 0x80000001).locate 0x40000004 = some (.block (flatRam 0 0) (flatRam 0 64) true)
      ∧ (b 0x80007FFF).locate 0x40FFFFFC = none ∧ (b 0x80000000).locate 0x41000000 = none ∧ s.locate 0x6FFFFFFF = none
      ∧ m.locate 0x40000000 = none := by decide +kernel

/-- A word in the scratchpad passes its checks and can be read; the module may deliver loads late or at once. -/
theorem witness_ScalarLoads :
    let s := regsWith [(1, 0x10000100)]
    s.free (useS [2, 1]) ∧ s.locate (s.x 1) = some (.mem (flatRam 0 0x100))
      ∧ s.checkLocal (s.x 1) 4 true false ((s.x 1).toNat % 4 == 0) 0x010 = none
      ∧ s.readable ((Place.mem (flatRam 0 0x100)).bytes 4) ∧ s.free { s := [2], v := [63], reads := [63] } ∧ s.lateLoads = false
      ∧ { s with lateLoads := true }.me.loads = [] := by decide

theorem witness_ScalarStores :
    let s := regsWith [(1, 0x10000100), (2, 7)]
    let p := Place.mem (flatRam 0 0x100)
    s.free (useS [2, 1]) ∧ s.locate (s.x 1) = some p ∧ s.checkLocal (s.x 1) 4 true true ((s.x 1).toNat % 4 == 0) 0x010 = none
      ∧ (s.writeAt (s.x 1) 4 (s.x 2)).linesFit ∧ isNext (exec (.stI32 2 1 0) s) = true
      ∧ p.isWindow = false ∧ flatRam 0 0x104 ∉ p.bytes 4 ∧ p = .mem (flatRam 0 0x100) := by decide

theorem witness_Atomics :
    let s := regsWith [(1, 0x10000100), (2, 7)]
    let p := Place.mem (flatRam 0 0x100)
    s.free (useS [3, 1, 2]) ∧ s.locate (s.x 1) = some p ∧ s.checkLocal (s.x 1) 4 false true ((s.x 1).toNat % 4 == 0) 0x010 = none
      ∧ s.readable (p.bytes 4) ∧ (s.writeAt (s.x 1) 4 7).linesFit := by decide

/-- Sixteen words from the scratchpad, by each form of the address. -/
theorem witness_VectorMemory_registers :
    let s := regsWith [(1, 0x10000100), (2, 4)]
    s.free { s := [1], v := [63] } ∧ s.free { s := [1, 2], v := [63] } ∧ s.free { s := [1], v := [63, 62], reads := [62] }
      ∧ s.free { s := [1], v := [63], reads := [63] } ∧ s.free { s := [1, 2], v := [63], reads := [63] }
      ∧ s.free { s := [1], v := [63, 62], reads := [63, 62] } := by decide

theorem witness_VectorMemory_addresses :
    let s := regsWith [(1, 0x10000100), (2, 4)]
    let m := s.me.live.preg 0
    s.checkLanes m (fun k => s.x 1 + BitVec.ofNat 32 (4 * k)) false (fun _ => (s.x 1).toNat % 64 == 0) = none
      ∧ s.checkLanes m (fun k => s.x 1 + BitVec.ofNat 32 (4 * k)) true (fun _ => (s.x 1).toNat % 64 == 0) = none
      ∧ s.checkLanes m (fun k => s.x 1 + BitVec.ofNat 32 k * s.x 2) true
        (fun k => (s.x 1 + BitVec.ofNat 32 k * s.x 2).toNat % 4 == 0) = none
      ∧ s.readable ((List.range 64).map fun k => flatRam 0 (0x100 + k))
      ∧ ((lanesOf m).foldl (fun t k => t.writeAt (s.x 1 + BitVec.ofNat 32 (4 * k)) 4 0) s).linesFit := by decide +kernel

/-- An address in a gap, one that is misaligned, and a vector whose lanes are misaligned. -/
theorem witness_AccessTraps :
    let s := regsWith [(1, 0x40000), (2, 0x10000102)]
    s.free (useS [3, 1]) ∧ s.free (useS [3, 1, 2]) ∧ s.checkLocal (s.x 1) 1 false false true 0x010 = some 0x012
      ∧ s.checkLocal (s.x 2) 4 true true ((s.x 2).toNat % 4 == 0) 0x010 = some 0x010
      ∧ s.checkLocal (s.x 2) 4 false true ((s.x 2).toNat % 4 == 0) 0x010 = some 0x010
      ∧ s.free { s := [2], v := [5] }
      ∧ s.checkLanes (s.me.live.preg 0) (fun i => s.x 2 + BitVec.ofNat 32 (4 * i)) false (fun _ => (s.x 2).toNat % 64 == 0)
        = some (0x011, 0x10000102)
      ∧ s.checkLanes (s.me.live.preg 0) (fun i => s.x 2 + BitVec.ofNat 32 (4 * i)) true (fun _ => (s.x 2).toNat % 64 == 0)
        = some (0x011, 0x10000102) := by decide

/-- Strided and indexed lanes of which one fails, behind lanes that pass. -/
theorem witness_AccessTraps_lanes :
    let s := regsWith [(1, 0x3FFF0), (2, 4)]
    let strided (k : Nat) : Word := s.x 1 + BitVec.ofNat 32 k * s.x 2
    s.free { s := [1, 2], v := [63] } ∧ s.free { s := [1], v := [63, 62] }
      ∧ s.checkLanes (s.me.live.preg 0) strided false (fun k => (strided k).toNat % 4 == 0) = some (0x012, 0x40000)
      ∧ s.checkLanes (s.me.live.preg 0) strided true (fun k => (strided k).toNat % 4 == 0) = some (0x012, 0x40000)
      ∧ s.checkLocal (strided 3) 4 true false true 0x011 = none ∧ s.checkLocal (strided 4) 4 true false true 0x011 = some 0x012 := by
  decide +kernel

/-- For every check an access that it stops, behind the checks before it, and one that passes them all. -/
theorem witness_AccessTraps_codes :
    let p : Partition := {
      base := 0x10000000, szlog := 9, count := 1, domain := 7, pol := false, conf := false, evring := 0, free := [],
      waiters := [], tiles := [], gen0 := 0, aband := 0, lost := 0, cfg := 0 }
    let s := (State.reset.setPart 0 2 p).modCluster 0 fun c => { c with seals := [{ addr := flatRam 0 0x400, len := 0x400, discarded := true }] }
    s.locate 0x40000 = none ∧ (s.locate 0x20000000).map Place.isWindow = some true ∧ (s.locate 0x70000400).map Place.readOnly = some true
      ∧ (s.locate 0x70000400).map Place.isWindow = some false
      ∧ s.checkLocal 0x40000 4 true true true 0x010 = some 0x012 ∧ s.checkLocal 0x20000000 2 false true true 0x010 = some 0x014
      ∧ s.checkLocal 0x70000400 4 true true false 0x010 = some 0x013 ∧ s.checkLocal 0x10000002 4 true true false 0x010 = some 0x010
      ∧ s.checkLocal 0x10000002 4 true true false 0x011 = some 0x011 ∧ s.checkLocal 0x100001FC 4 true false true 0x010 = some 0x240
      ∧ s.checkLocal 0x10000400 4 true true true 0x010 = some 0x386 ∧ s.checkLocal 0x10000400 4 true false true 0x010 = none
      ∧ s.checkLocal 0x10000200 4 true true true 0x010 = none := by decide +kernel

set_option maxRecDepth 20000 in
/-- Two bulbs of equal tags and weights, of equal tags and different weights, and of different tags. -/
theorem witness_BulbArithmetic :
    let half : Bulb := { lanes := Vector.replicate 16 (((Vector.replicate 8 ⟨0, 0⟩).set 0 ⟨0, 0x4000⟩).set 1 ⟨0, 0x4000⟩), tag := 0 }
    let s := slotWith fun x => { x with live := { x.live with q := (x.live.q.set 1 half).set 2 { half with tag := 9 } } }
    let apart (a b : Nat) (p : Nat × Nat) : Bool := ((s.me.live.bulb a).clove p.1 p.2).wt != ((s.me.live.bulb b).clove p.1 p.2).wt
    s.free { q := [7, 0, 1] } ∧ (s.me.live.bulb 0).tag = (s.me.live.bulb 3).tag ∧ (∀ p ∈ clovePlaces, apart 0 3 p = false)
      ∧ (s.me.live.bulb 0).tag = (s.me.live.bulb 1).tag ∧ clovePlaces.find? (apart 0 1) = some (0, 0)
      ∧ (s.me.live.bulb 0).tag ≠ (s.me.live.bulb 2).tag := by decide

set_option maxRecDepth 20000 in
/-- Vectors whose weights sum to 0x8000 and vectors whose weights do not; an image in the scratchpad that is well-formed, and one that
is not; an address that fails. -/
theorem witness_BulbUnary :
    let s := (regsWith [(1, 0x10000100), (2, 0x40000)]).modSlot 0 fun x =>
      { x with live := { x.live with v := x.live.v.set 11 (Vector.replicate 16 0x8000) } }
    let short (v m i : Nat) : Bool := (List.range 8).foldl (fun t c => t + qmakeWeight s.me.live v m i c) 0 != 0x8000
    s.free { useSrc [72] with q := [7, 0] } ∧ s.free { useB 72 [] with q := [0] } ∧ s.free { useB 72 [72] with q := [0] }
      ∧ s.free { v := [10, 11], q := [7], reads := [10, 11] } ∧ (∀ i < 16, short 10 1 i = false)
      ∧ (List.range 16).find? (short 20 1) = some 0 ∧ s.free { s := [1], q := [7] } ∧ s.checkImage (s.x 1) false = none
      ∧ s.checkImage (s.x 1) true = none ∧ s.checkImage (s.x 2) false = some (0x012, 0x40000) := by decide

/-- BARM with the least and the greatest COUNT of a level; a slot that has arrived; a phase that is open. -/
theorem witness_HintsAndBarriers :
    let s := slotWith fun x => { x with live := { x.live with barm := 0x80000001 } }
    let t := slotWith fun x => { x with live := { x.live with barm := 0x80000004 }, arrivals := [511] }
    s.free {} ∧ barmValid s.me.live.barm s.me.live.gsize = true ∧ s.me.arrived.contains 511 = false ∧ s.room
      ∧ barmValid State.reset.me.live.barm State.reset.me.live.gsize = false ∧ State.reset.free {}
      ∧ t.free {} ∧ barmValid t.me.live.barm t.me.live.gsize = true ∧ t.me.arrived.contains 511 = true
      ∧ 511 ∉ t.me.region.effects.filterMap (fun e => match e with | .arrive k _ => some k | _ => none)
      ∧ 511 ∈ t.me.arrivals ∧ t.me.abort = false := by decide

/-- A region that commits at once, outside and inside a handler; a gang that is refused. -/
theorem witness_RegionEndingWords :
    let h := slotWith fun x => { x with live := { x.live with status := 0x200 } }
    State.reset.commits ∧ State.reset.lone ∧ State.reset.free {} ∧ State.reset.free (useS [1, 2])
      ∧ State.reset.free { s := 1 :: regsFrom 30 2 } ∧ State.reset.me.live.ta = false ∧ h.me.live.ta = true ∧ h.free {} ∧ h.free (useS [31])
      ∧ h.commits := by
  unfold State.commits State.calm State.lone; decide

theorem witness_RegionEndingWords_refused :
    let m := State.reset.modSlot 4 id
    m.gangRefused 1 = true ∧ m.free {} := by decide

/-- BARW of a slot that has not arrived, with no open phase and with one of its own count, and of a slot that has. -/
theorem witness_RegionEndingWords_barw :
    let s := slotWith fun x => { x with live := { x.live with barm := 0x80000004 } }
    let a := s.modSlot 0 fun x => { x with arrivals := [3] }
    let p := { s with phases := [{ level := 0, scope := s.barScope 0 0, domain := 0, b := 3, count := 4, arrived := [], gone := [] }] }
    let w (s : State) := (if s.me.arrived.contains 3 then s else s.effect (.arrive 3 4)).modLive fun r => { r with barm := barmWaiting r.barm 3 }
    barmLevel s.me.live.barm = 0 ∧ barmCount s.me.live.barm = 4
      ∧ (∀ t ∈ [s, a, p], t.free {} ∧ t.room ∧ t.lone ∧ barmValid t.me.live.barm t.me.live.gsize = true ∧ (w t).commits)
      ∧ s.phases = [] ∧ a.me.arrived.contains 3 = true
      ∧ (p.phases.find? fun q => q.open_ 0 (p.barScope 0 0) p.me.domain 3).map Phase.count = some 4 := by
  unfold State.commits State.calm State.lone; decide +kernel

/-- A gang whose member slots hold slices of one domain: the first of its members to wait, and the last one, as its leader and as a
follower. -/
theorem witness_RegionEndingWords_gang :
    let s := (State.reset.modSlot 0 (fun x => { x with slice := some someSlice })).modSlot 4 (fun x => { x with slice := some someSlice })
    let l := s.modSlot 4 fun x => { x with wait := some (.gang 1 8) }
    let f := { s.modSlot 0 (fun x => { x with wait := some (.gang 1 8) }) with cur := 4 }
    membersOf 0 1 = [0, 4] ∧ membersOf 4 1 = [0, 4] ∧ (∀ t ∈ [s, l, f], t.gangRefused 1 = false ∧ t.free {} ∧ t.commits ∧ t.lone)
      ∧ (s.slot 4).wait = none ∧ (l.slot 4).wait = some (.gang 1 8) ∧ (f.slot 0).wait = some (.gang 1 8) := by
  unfold State.commits State.calm State.lone; decide +kernel

/-- A region with a store in it that commits alone, and one that aborts. -/
theorem witness_RegionCommit :
    let s := after (exec (.stI32 2 1 0) (regsWith [(1, 0x10000100), (2, 7)]))
    s.free {} ∧ s.commits ∧ s.lone ∧ (∃ c ∈ s.me.region.stores, c.1 < scratchBase) ∧ s.free (useS [31]) ∧ s.me.abort = false
      ∧ s.me.region.res.tiles = [] ∧ s.me.region.kept.tiles = [] := by
  unfold State.commits State.calm State.lone; decide +kernel

/-- What a word waits for: the bundles' limit, its own region's token, an older one, a load; in both kinds of region. -/
theorem witness_RegionCommit_waits :
    let t (f : Slot → Slot) := slotWith f
    let full (a : Bool) := t fun x => { x with region := { x.region with bundles := 4096, atomic := a } }
    let own (a : Bool) := t fun x => { x with live := { x.live with pend := 0x80000000 }, region := { x.region with atomic := a } }
    let old := t fun x => { x with
      live := { x.live with pend := 0x80000000 },
      region := { x.region with ckpt := { x.region.ckpt with pend := 0x80000000 } } }
    let load := t fun x => { x with loads := [loadS 31 5] }
    (Instr.add 31 1 2).arithDest = some 31 ∧ (31 : BitVec 5) ≠ 0
      ∧ (∀ s ∈ [full true, full false, own true, own false, old, load],
          s.bundle = none ∧ s.me.live.gsize = 0 ∧ s.me.abort = false ∧ s.calm 0 ∧ s.regionHeld [0] = false ∧ s.lone)
      ∧ (∀ a, (full a).me.region.atomic = a ∧ 4096 ≤ (full a).me.region.bundles ∧ (own a).me.region.atomic = a
        ∧ bit (own a).me.live.pend 31 = true ∧ bit (own a).me.region.ckpt.pend 31 = false)
      ∧ bit old.me.live.pend 31 = true ∧ (∀ n < 32, bit old.me.live.pend n = true → bit old.me.region.ckpt.pend n = true)
      ∧ (∀ n < 32, bit load.me.live.pend n = false) ∧ (∃ l ∈ load.me.loads, l.dest = .sreg 31) := by
  unfold State.calm State.lone; decide +kernel

/-- A store that would take a 257th line, and a word that would take a 33rd effect; in both kinds of region. -/
theorem witness_RegionCommit_limits :
    let lines (a : Bool) := (regsWith [(1, 0x10010000)]).modSlot 0 fun x => { x with region := { x.region with
      atomic := a, stores := (List.range 256).map fun i => (flatRam 0 (64 * i), 1) } }
    let effs (a : Bool) := slotWith fun x => { x with region := { x.region with atomic := a, effects := List.replicate 32 (.wcancel 1) } }
    (∀ a, (lines a).free (useS [2, 1]) ∧ (lines a).checkLocal 0x10010000 4 true true true 0x010 = none
        ∧ ¬ ((lines a).writeAt 0x10010000 4 0).linesFit ∧ (lines a).me.region.atomic = a ∧ (effs a).free {} ∧ ¬ (effs a).room
        ∧ (effs a).me.region.atomic = a)
      ∧ (lines false).calm 0 ∧ (lines false).regionHeld [0] = false ∧ (effs false).calm 0 ∧ (effs false).regionHeld [0] = false := by
  unfold State.calm; decide +kernel

/-- A commit that would write a line of a busy range, and one that conflicts with the region of slot 4, for the first and for the
eighth time. -/
theorem witness_RegionCommit_conflicts :
    let s := after (exec (.stI32 2 1 0) (regsWith [(1, 0x10000100), (2, 7)]))
    let b := s.modCluster 0 fun c => { c with busy := [{ line := lineOf (flatRam 0 0x100), lines := 1, engine := 1, op := 0 }] }
    let c (n : Nat) := s.modSlot 4 fun x => { x with
      slice := some someSlice, stat := { x.stat with conf := n },
      region := { x.region with rsig := sigBits (flatRam 0 0x100) } }
    b.free {} ∧ b.counted.calm 0
      ∧ (∃ r ∈ (b.cluster 0).busy, ∃ c ∈ b.me.region.stores, c.1 < scratchBase ∧ r.line ≤ lineOf c.1 ∧ lineOf c.1 < r.line + r.lines)
      ∧ ∀ n ∈ [0, 7], (c n).free {} ∧ (c n).commits ∧ (c n).me.region.effects = [] ∧ (c n).me.region.res = ⟨[], [], []⟩
        ∧ (c n).me.region.kept = ⟨[], [], []⟩ ∧ (c n).me.abort = false
        ∧ (∀ m ∈ (c n).slotsOf 0, ((c n).slot m).parked = none
          ∧ (m ≠ 0 → m ≠ 4 → ((c n).slot m).region.rsig &&& (c n).me.region.wsig = 0))
        ∧ 4 ≠ (c n).cur ∧ clusterOf 4 = 0 ∧ ((c n).slot 4).slice.isSome = true ∧ ((c n).slot 4).live.gsize = 0
        ∧ ((c n).slot 4).abort = false ∧ ((c n).slot 4).region.rsig &&& (c n).me.region.wsig ≠ 0
        ∧ ((c n).slot 4).region.res.tiles = [] ∧ ((c n).slot 4).region.kept.tiles = [] ∧ ((c n).slot 4).stat.conf = n := by
  unfold State.commits State.calm; decide +kernel

/-- A slot outside a handler, and one inside. -/
theorem witness_TrapEntry :
    let s := State.reset
    let h := slotWith fun x => { x with live := { x.live with status := 0x200 } }
    s.free {} ∧ s.me.live.ta = false ∧ s.me.abort = false ∧ s.me.region.res.tiles = [] ∧ s.me.region.kept.tiles = []
      ∧ (0x001 : BitVec 10) ≠ 0x381 ∧ (0x001 : Nat) < 1024 ∧ (0x3FF : Nat) < 1024 ∧ (0x3FF : Nat) ≠ 0x381
      ∧ h.free {} ∧ h.me.live.ta = true ∧ h.me.abort = false ∧ h.me.region.res.tiles = [] ∧ h.me.region.kept.tiles = []
      ∧ (0x012 : Nat) ≠ 0x381 ∧ (0x012 : Nat) ≠ 0x3C1 := by decide

theorem witness_TrapWordAndReturn :
    let s := State.reset
    let h := slotWith fun x => { x with live := { x.live with status := 0x200 } }
    s.commits ∧ s.lone ∧ s.free (useS [31]) ∧ s.me.live.ta = false ∧ s.tallocs s.cur = false ∧ s.me.async.isEmpty = true ∧ h.commits ∧ h.lone ∧ h.free {}
      ∧ h.me.live.ta = true := by
  unfold State.commits State.calm State.lone; decide

/-- A pending cause of a later order than every TRAP's. -/
theorem witness_TrapWordAndReturn_pending :
    let p := slotWith fun x => { x with async := [(0x2C1, 0)] }
    p.commits ∧ p.lone ∧ p.free (useS [31]) ∧ p.me.live.ta = false ∧ p.tallocs p.cur = false
      ∧ (p.me.async.all fun c => decide (asyncKey (0x040 + 63) < asyncKey c.1)) = true := by
  unfold State.commits State.calm State.lone; decide

/-- A gang of two slots. -/
theorem witness_GangBundles :
    let two (x : Slot) : Slot := { x with live := { x.live with status := 0x04000000 } }
    let s := (State.reset.modSlot 0 two).modSlot 4 two
    let gs := s.gangOf s.cur
    let u := gs.foldl State.countedOn { s with cur := gs.getLastD s.cur }
    gs = [0, 4] ∧ s.bundle = none ∧ gs.head? = some s.cur ∧ s.me.live.gsize ≠ 0 ∧ s.me.live.ta = false
      ∧ (∀ g ∈ gs, let x := s.slot g
        x.region.bundles < Config.maxBundles ∧ (linesOf x.region.stores).length ≤ Config.maxLines
          ∧ x.region.effects.length ≤ Config.maxEffects ∧ x.idle (useS [3, 4]) ∧ x.idle {} ∧ x.live.gsize ≠ 0 ∧ x.region.effects = []
          ∧ x.region.res = ⟨[], [], []⟩ ∧ x.region.kept = ⟨[], [], []⟩ ∧ x.abort = false ∧ x.halted = false)
      ∧ (∀ m ∈ s.slotsOf s.myCluster, (s.slot m).parked = none ∧ (m ∉ gs → (s.slot m).region.rsig &&& s.regionSig gs = 0))
      ∧ u.calm s.myCluster ∧ u.regionHeld gs = false ∧ (0x008 : BitVec 10) ≠ 0x381 ∧ (0x008 : BitVec 10) ≠ 0x3C1
      ∧ (Instr.addi 3 4 1).arithDest = some 3 := by
  unfold State.calm; decide +kernel

/-- A cluster with one slot that has read nothing; a completion whose bytes lie in an alias of a host region. -/
theorem witness_LaunchAndCompletion :
    let s := slotWith id
    let a : Alias := { proxy := 288, offset := 0, len := 64, take := 0, bytes := [], through := [] }
    let h := (State.reset.modSlot 9216 id).setHostRegion 5 { RegionSlot.reset with alia := some a }
    clusterOf 0 = 0 ∧ s.slotsOf 0 = [0]
      ∧ (∀ m ∈ s.slotsOf 0, (s.slot m).parked = none ∧ (s.slot m).region.rsig &&& sigOf [(flatRam 0 0x100, 1)] = 0)
      ∧ (s.commitBegin 0 [(flatRam 0 0x100, 1)]).outward 0 1 = false ∧ 0 < 1 ∧ 31 < 32
      ∧ clusterOf 9216 = 288 ∧ (∀ m ∈ h.slotsOf 288, (h.slot m).parked = none ∧ (h.slot m).region.rsig &&& sigOf [(flatHbm 288 0, 1)] = 0)
      ∧ (h.commitBegin 288 [(flatHbm 288 0, 1)]).outward 288 1 = true := by decide +kernel

/-- Operands of a matrix product at the bounds of the scratchpad, a descriptor of 64 rows, and operands that fail each check. -/
theorem witness_MatrixLaunches :
    let s := regsWith [(1, 0x10000000), (2, 0x00200000), (3, 128)]
    let op := MatOp.mma false 0
    s.room ∧ s.free (useS [31, 1, 2, 3]) ∧ op.badDesc (s.x 2) = false
      ∧ (op.reads (s.x 1) (s.x 2) (s.x 3) ++ op.writes (s.x 1) (s.x 2)).filterMap outsidePad = [] ∧ op.misaligned (s.x 1) (s.x 3) = none
      ∧ (MatOp.mwld 4).badDesc (s.x 1) = false ∧ (MatOp.mwld 4).misaligned (s.x 1) 0 = none
      ∧ ((MatOp.mwld 4).reads (s.x 1) (s.x 1) 0 ++ (MatOp.mwld 4).writes (s.x 1) (s.x 1)).filterMap outsidePad = []
      ∧ s.free (useS [31]) ∧ op.badDesc 0 = true
      ∧ leastOf ((op.reads 0x101FFFC0 (s.x 2) 128 ++ op.writes 0x101FFFC0 (s.x 2)).filterMap outsidePad) = some 0x10200000
      ∧ op.misaligned 0x10000020 128 = some 0x10000020 := by decide

/-- A page of 2 MiB at pod address 0 that every domain may use, in a cluster of this module or of another chip. -/
def pageOf (chip key : Nat) (disc : Bool) : Page :=
  { base := 0, size := 2 ^ 21, key := key, disc := disc, chip := chip, off := 0, cdom := 3, domain := 0, own := 15, other := 15 }

/-- Slot 0 with some scalar registers and a translation in the cache of its cluster. -/
def pagedWith (p : Page) (l : List (Nat × Word)) : State := (regsWith l).modCluster 0 fun c => { c with xcache := [p] }

/-- A copy and a pull of one row of 64 bytes. -/
theorem witness_PullLaunches :
    let s := pagedWith (pageOf 0 1 false) [(2, 0x200), (8, 0x10000200), (9, 0x00100040), (10, 64), (11, 64)]
    let q := s.quad 8
    s.room ∧ s.free { s := [31, 1, 2] ++ regsFrom 8 4 } ∧ s.acquiring = false
      ∧ s.pullCause (some (s.x 1)) [podAddr (s.x 1) (s.x 2)] 64 (badShape 64 1) (q 1) ([(s.x 2, 4), (q 0, 4)] ++ s.strides 8 1)
        ((localRows (q 0).toNat 1 64).map fun x => (x, 64)) = none
      ∧ s.pagesFor (pullNeed false) (chunkAddrs 64 0x200) [] = .ok [pageOf 0 1 false]
      ∧ s.pagesFor (rdRight + conRight) (chunkAddrs 64 0x200) [] = .ok [pageOf 0 1 false]
      ∧ s.free { s := [31, 1] ++ regsFrom 8 4 }
      ∧ s.pullCause none [] 64 (badShape 64 1 || bit (q 1) 31) (q 1) ([(q 0, 4), (q 0, 4)] ++ s.strides 8 1)
        [(0x10000200, 64), (0x10000200, 64)] = none := by decide +kernel

/-- The digesting form, the verifying form and the TAKE of a migration. -/
theorem witness_PullLaunches_digests :
    let s := ((pagedWith (pageOf 0 1 false) [(1, 1), (2, 0x400), (8, 0x10000400), (9, 0x40000400), (10, 64), (11, 0x10000800)]).modCluster 0
      fun c => { c with xcache := [{ pageOf 0 1 false with base := 2 ^ 32 }] }).modLive fun r => { r with status := 0x80000000 }
    let q := s.quad 8
    s.pullCause (some 1) [podAddr 1 0x400] 64 (badShape 64 1) 0x00100040 [(0x400, 4), (q 0, 4), (q 3, 64)]
        ([(0x10000400, 64)] ++ [((q 3).toNat, 64)]) = none
      ∧ s.free { s := 31 :: regsFrom 8 4 } ∧ s.pullCause none [] 64 false 0x00100040 [(q 0, 4), (q 3, 64)]
        [((q 0).toNat, 64), ((q 3).toNat, 64)] = none
      ∧ s.me.live.rt = true ∧ notCanonical (s.x 1) = false ∧ (1 : BitVec 5) ≠ 0 ∧ (2 : BitVec 5) ≠ 0 ∧ s.migrBad 8 true = none
      ∧ highFault [podAddr (s.x 1) (s.x 2)] (migrLen (q 1)) = none ∧ s.free { s := [31, 1, 2] ++ regsFrom 8 2 }
      ∧ s.pagesFor (rdRight + acqRight) (chunkAddrs (migrLen (q 1)) (podAddr (s.x 1) (s.x 2))) []
        = .ok [{ pageOf 0 1 false with base := 2 ^ 32 }] := by decide +kernel

/-- A watch; a sequence word that is lower than the value, and one that is not. -/
theorem witness_WatchesAndSequences :
    let s := pagedWith (pageOf 0 1 false) [(2, 0x200), (3, 5), (5, 0x10000100), (6, 1)]
    let f := s.flatLocal 0x10000100
    s.room ∧ s.free (useS [31, 1, 2, 3]) ∧ s.free { s := [31, 1, 2] ++ regsFrom 3 2 } ∧ s.acquiring = false
      ∧ s.pullCause (some (s.x 1)) [podAddr (s.x 1) (s.x 2)] 4 false 0 [(s.x 2, 4)] [] = none
      ∧ s.pagesFor (rdRight + acqRight) [podAddr (s.x 1) (s.x 2)] [] = .ok [pageOf 0 1 false]
      ∧ s.free (useS [5, 6]) ∧ (s.x 5).toNat % 4 = 0 ∧ 0x40000 ≤ (s.x 5).toNat ∧ outsideLocal s.myCluster ((s.x 5).toNat, 4) = none
      ∧ s.sealOf f = none ∧ (s.seqOld f).toNat < (s.x 6).toNat ∧ s.readable [f] ∧ (s.x 0).toNat ≤ (s.seqOld f).toNat ∧ s.free {} := by
  decide +kernel

/-- A remote load of a discarded page, of the slot's own cluster, of a cached line, of a line that is being fetched, of a line that is
not, and of an owner that is fenced; an acquire of the own cluster's word. -/
theorem witness_RemoteLoads :
    let regs := [(2, (0x200 : Word))]
    let s (p : Page) := pagedWith p regs
    let own := pageOf 0 0 false
    let far := pageOf 0 1 false
    let mine := (s own).modCluster 0 fun c =>
      { c with keys := [{ key := 0, base := flatRam 0 0, len := 0x10000, flags := 31, domain := 0, revoked := none }] }
    let cached := (s far).modPull 0 fun u => { u with cache := [{ addr := 0x200, chip := 0, owner := 1, stamp := 0, till := 1, data := [] }] }
    let fetch : LineFetch :=
      { id := 3, addr := 0x200, page := far, acq := false, keep := true, floor := 0, slot := 0, till := 1, answer := none }
    let shared := (s far).modPull 0 fun u => { u with fetches := [fetch] }
    let fenced := (s far).modCluster far.owner fun c => { c with fenced := true }
    let answers (a : Ask) := match (mine.fillPlb 0 0 own).portLine 0 own a 0x200 with | (.line _ _ false, none) => true | _ => false
    (s far).free (useS [31, 1, 2]) ∧ notCanonical ((s far).x 1) = false ∧ podAddr ((s far).x 1) ((s far).x 2) + 4 * 0 < 2 ^ 56
      ∧ 0x200 % 4 = 0 ∧ (s far).acquiring = false ∧ (s far).translate 0 0x200 3 = .ok far ∧ (s far).within 0 far = true
      ∧ (s far).foreign far.chip = false ∧ (s far).cutOff far = false
      ∧ fenced.translate 0 0x200 1 = .ok far ∧ fenced.translate 0 0x200 3 = .ok far ∧ fenced.cachedLine 0 far 0x200 = none
      ∧ fenced.cutOff far = true ∧ fenced.free (useS [31, 1, 2]) ∧ fenced.acquiring = false
      ∧ (s (pageOf 0 1 true)).translate 0 0x200 1 = .ok (pageOf 0 1 true) ∧ (s (pageOf 0 1 true)).cutOff (pageOf 0 1 true) = false
      ∧ mine.translate 0 0x200 1 = .ok own ∧ mine.translate 0 0x200 3 = .ok own ∧ mine.within 0 own = true ∧ own.owner = 0
      ∧ mine.cutOff own = false ∧ (mine.fillPlb 0 0 own).acquireWaits own .acquire 0x200 = false
      ∧ answers .read = true ∧ answers .acquire = true
      ∧ far.owner ≠ 0 ∧ cached.translate 0 0x200 1 = .ok far ∧ (cached.cachedLine 0 far 0x200).isSome = true
      ∧ shared.translate 0 0x200 1 = .ok far ∧ shared.cachedLine 0 far 0x200 = none ∧ shared.sharedFetch 0 far 0x200 = some fetch
      ∧ (s far).cachedLine 0 far 0x200 = none ∧ (s far).sharedFetch 0 far 0x200 = none ∧ ((s far).pull 0).fetches.length < 64 := by
  decide +kernel

/-- A partition of 16 tiles of 512 bytes. -/
def somePart (free : List Nat) (t : Tile) : Partition :=
  { base := 0x10000000, szlog := 9, count := 16, domain := 0, pol := false, conf := false, evring := 0, free := free, waiters := [],
    tiles := [(0, t)], gen0 := 1, aband := 0, lost := 0, cfg := 0 }

/-- A live tile with some reads left. -/
def liveTile (n : Nat) : Tile := ⟨.live, 1, n, 0, none⟩

/-- Slot 0 with some registers and a partition 2. -/
def pooledWith (p : Partition) (l : List (Nat × Word)) : State := (regsWith l).setPart 0 2 p

/-- A partition change that is refused and one that is not; an allocation with a free tile, and without, in both kinds of region, when
the slot already waits. -/
theorem witness_TileAllocation :
    let t := rootWith [(1, 2), (8, 0x10000000), (9, 9 + 16 * 512)]
    let s := pooledWith (somePart [1, 2] (liveTile 1)) [(1, 2), (2, 65535)]
    let e := pooledWith { somePart [] (liveTile 1) with waiters := [⟨0, 0, 0⟩] } [(1, 2), (2, 1)]
    let a := e.modSlot 0 fun x => { x with region := { x.region with atomic := true } }
    State.reset.free { s := 1 :: regsFrom 8 4 } ∧ State.reset.tpartCause 0 0 0 0 = some (0x248, 0)
      ∧ t.tpartCause (t.x 1) (t.quad 8 0) (t.quad 8 1) (t.quad 8 2) = none ∧ t.room ∧ t.free { s := 1 :: regsFrom 8 4 }
      ∧ s.free (useS [31, 1, 2, 3]) ∧ s.tallocCause (s.x 1) (s.x 2) = none ∧ s.part 0 2 = some (somePart [1, 2] (liveTile 1))
      ∧ s.me.region.keptTile 2 0 = none ∧ s.me.grant = none ∧ (somePart [1, 2] (liveTile 1)).free = 1 :: [2]
      ∧ e.tallocCause (e.x 1) (e.x 2) = none ∧ e.part 0 2 = some { somePart [] (liveTile 1) with waiters := [⟨0, 0, 0⟩] }
      ∧ e.me.grant = none ∧ a.me.region.atomic = true ∧ a.part 0 2 = e.part 0 2 ∧ e.me.region.atomic = false
      ∧ ([⟨0, 0, 0⟩].any fun w : Waiter => w.slot == e.cur) = true ∧ e.me.abort = false := by decide +kernel

/-- An allocation of a tile that the region keeps, and of one that it has been granted; the first wait of a slot. -/
theorem witness_TileAllocation_waits :
    let p := somePart [] (liveTile 1)
    let s := pooledWith p [(1, 2), (2, 1)]
    let k := s.modSlot 0 fun x => { x with region := { x.region with kept := { x.region.kept with tiles := [(2, 5, 0, 0)] } } }
    let g := s.modSlot 0 fun x => { x with grant := some (2, 6) }
    let u := s.enterKeys [cfgKey 2] [useKey 2]
    (∀ v ∈ [s, k, g], v.free (useS [31, 1, 2, 3]) ∧ v.tallocCause (v.x 1) (v.x 2) = none ∧ v.part 0 2 = some p)
      ∧ k.me.region.keptTile 2 p.cfg = some (2, 5, 0, 0) ∧ g.me.region.keptTile 2 p.cfg = none ∧ g.me.grant = some (2, 6)
      ∧ s.me.region.keptTile 2 p.cfg = none ∧ s.me.grant = none ∧ p.free = [] ∧ s.me.region.atomic = false
      ∧ (p.waiters.any fun w => w.slot == s.cur) = false ∧ u.calm 0 ∧ u.regionHeld [0] = false ∧ u.lone := by
  unfold State.calm State.lone; decide +kernel

/-- Checks that stop a consuming load in front of its handle's, one that leaves the handle's checks to decide, and an element
outside the tile. -/
theorem witness_ConsumingLoads_stops :
    let p := somePart [] (liveTile 2)
    let s := pooledWith p [(1, 0x01000000), (2, 0x05000000)]
    let f := pooledWith { p with domain := 7 } [(1, 0x01000000)]
    let h := s.x 1
    let x := handleBase h + 508
    4 < handleWin 0x01A00000 ∧ handleWin h ≤ 4 ∧ s.checkLocal (handleBase h + 2) 4 true false false 0x010 = some 0x010
      ∧ f.checkLocal (handleBase h) 4 true false true 0x010 = some 0x240
      ∧ (match f.checkHandle h (handleBase h) with | .error e => e == (0x240, handleBase h, none) | .ok _ => false) = true
      ∧ s.checkLocal (handleBase h) 4 true false true 0x010 = none
      ∧ (match s.checkHandle (s.x 2) (handleBase h) with | .error e => e.1 == 0x242 | .ok _ => false) = true
      ∧ s.checkHandle h (x + 4) = .ok (2, p, 0) ∧ [x + 4].find? (s.outsideTile p 0) = some (x + 4)
      ∧ [x].find? (s.outsideTile p 0) = none ∧ s.checkLocal (x + 4) 4 true false true 0x010 = none := by decide +kernel

/-- A handle of a live tile, whose element and lanes lie in the tile; handles of no tile, of another domain's tile, of a former
generation and of a tile that is used up. -/
theorem witness_ConsumingLoads :
    let p := somePart [] (liveTile 2)
    let s := pooledWith p [(1, 0x01000000), (2, 3)]
    let h := s.x 1
    s.room ∧ s.free (useS [31, 1]) ∧ handleWin h ≤ 4 ∧ s.checkLocal (handleBase h) 4 true false true 0x010 = none
      ∧ s.checkHandle h (handleBase h) = .ok (2, p, 0) ∧ s.outsideTile p 0 (handleBase h) = false
      ∧ s.locate (handleBase h) = some (.mem (flatRam 0 0)) ∧ s.readable ((Place.mem (flatRam 0 0)).bytes 4)
      ∧ s.free { s := [1], v := [63] } ∧ lanesOf (s.me.live.preg 0) ≠ [] ∧ lanesOf (s.me.live.preg 1) = []
      ∧ s.checkLanes (s.me.live.preg 0) (fun i => handleBase h + BitVec.ofNat 32 (4 * i)) false (fun _ => true) = none
      ∧ (∀ i ∈ lanesOf (s.me.live.preg 0), s.outsideTile p 0 (handleBase h + BitVec.ofNat 32 (4 * i)) = false)
      ∧ s.free (useS [1, 2]) ∧ (if s.x 0 = 0 then 2 else 0) ≤ 2 ∧ 2 < (s.x 2).toNat := by decide +kernel

/-- The refusals of a handle, a tile that its region has read already, and a live tile whose last read is pending. -/
theorem witness_ConsumingLoads_refusals :
    let p := somePart [] (liveTile 1)
    let s := pooledWith p []
    let d := s.modSlot 0 fun x => { x with region := { x.region with effects := [.consume 2 0 0] } }
    let o := s.modSlot 0 fun x => { x with region := { x.region with effects := [.giveUp 2 0 0 1] } }
    s.tileAt 0 (handleOff 0x01100000) = none ∧ s.tileAt 0 (handleOff 0x01000000) = some (2, p, 0)
      ∧ (pooledWith { p with domain := 7 } []).tileAt 0 0 = some (2, { p with domain := 7 }, 0) ∧ (7 : Nat) ≠ s.me.domain
      ∧ p.domain = s.me.domain ∧ handleGen 0x02000000 ≠ (p.tile 0).gen ∧ handleGen 0x01000000 = (p.tile 0).gen
      ∧ (p.tile 1).state ≠ .live ∧ (p.tile 1).state ≠ .held ∧ (p.tile 0).state = .live ∧ s.pendingReads 2 0 < (p.tile 0).count
      ∧ d.holdsDecrement 2 0 = true ∧ o.holdsDecrement 2 0 = false ∧ (p.tile 0).count ≤ o.pendingReads 2 0 := by
  decide +kernel

/-- A query of a tile, of an enabled partition and of one that is not; the trace with and without STATUS.RT, at the last word of an
entry and behind it. -/
theorem witness_QueryWords :
    let p := somePart [] (liveTile 1)
    let s := pooledWith p [(1, 0x01000000), (2, 2), (3, 15)]
    let r := rootWith [(1, 5), (2, 39), (3, 40)]
    s.free (useS [31, 1]) ∧ handleWin (s.x 1) ≤ 4 ∧ s.tileAt 0 (handleOff (s.x 1)) = some (2, p, 0) ∧ p.domain = s.me.domain
      ∧ (s.x 2).toNat ≤ 15 ∧ s.part 0 2 = some p ∧ (s.x 3).toNat ≤ 15 ∧ s.part 0 15 = none
      ∧ badTarget (s.x 3) = false ∧ (s.queue 15).domain = s.me.domain ∧ s.free (useS [31]) ∧ s.free (useS [31, 1, 2])
      ∧ r.free (useS [31, 1, 2]) ∧ r.me.live.rt = true ∧ (r.x 2).toNat < 40 ∧ 40 ≤ (r.x 3).toNat ∧ s.me.live.rt = false
      ∧ r.x 0 = 0 ∧ r.x 3 ≠ 0 ∧ r.room := by decide +kernel

/-- A ring of the least and of the greatest size; a ring that the region keeps. -/
theorem witness_RingWords :
    let s := regsWith [(1, 0x10000100), (2, 2), (3, 12)]
    let k := s.modSlot 0 fun x => { x with region := { x.region with kept := { x.region.kept with rings := [(3, 0x10000100, 2)] } } }
    (∀ v ∈ [s, k], v.room ∧ v.free (useS [31, 1, 2]) ∧ bits (v.x 3) 4 27 = 0 ∧ bits (v.x 2) 4 27 = 0 ∧ 2 ≤ bits (v.x 2) 0 4
        ∧ bits (v.x 3) 0 4 ≤ 12 ∧ (v.x 1).toNat % 256 = 0 ∧ 0x10000000 ≤ (v.x 1).toNat
        ∧ (v.x 1).toNat + ringBytes 12 ≤ 0x10000000 + ramSize v.myCluster ∧ v.padForeign (v.x 1).toNat (ringBytes 12) = false)
      ∧ s.me.region.keptRing (s.x 1) 12 = none ∧ k.me.region.keptRing (k.x 1) 2 = some (3, 0x10000100, 2)
      ∧ (((s.ringsOf s.myCluster).erase (0, 0)).any fun r => overlaps (s.x 1).toNat (ringBytes 12) r.1 r.2) = false ∧ s.freeRing = some 0
      ∧ (((k.ringsOf 0).erase (0x10000100, ringBytes 2)).any fun r => overlaps 0x10000100 (ringBytes 2) r.1 r.2) = false
      ∧ s.free (useS [1]) := by decide +kernel

/-- A ring with a message, and an empty one in both kinds of region: when its slot waits already, and when it does not. -/
theorem witness_RingWords_messages :
    let ring : Ring := { isOpen := true, gen := 0, slot := 0, domain := 0, header := 0x10000100, logn := 2, foreign := false, no := 0 }
    let r := State.reset.modCore 0 fun c => { c with rings := [(0, ring)] }
    let h := flatRam 0 0x100
    let m : State := { r with mem := [(h, 1)] }
    let a := r.modSlot 0 fun x => { x with region := { x.region with atomic := true } }
    let w := r.modCluster 0 fun c => { c with recvs := [(0, h)] }
    let u := r.modMe fun y => { y with region := { y.region with rsig := y.region.rsig ||| sigBits h ||| sigBits (h + 0x40) } }
    (∀ v ∈ [r, m, a, w], v.free (useS [31, 1]) ∧ v.ringOf (v.x 1) = .ok (0, ring) ∧ v.readable [h, h + 0x40])
      ∧ State.reset.ringOf 0 = .error 0x284 ∧ BitVec.ofNat 32 (m.peekNat h 4) ≠ BitVec.ofNat 32 (m.peekNat (h + 0x40) 4)
      ∧ m.recvWaits h = false ∧ r.peekNat h 4 = r.peekNat (h + 0x40) 4 ∧ r.recvWaits h = false ∧ a.recvWaits h = false
      ∧ a.me.region.atomic = true ∧ w.recvWaits h = true ∧ w.me.abort = false ∧ r.me.region.atomic = false
      ∧ u.calm 0 ∧ u.regionHeld [0] = false ∧ u.lone := by
  unfold State.calm State.lone; decide +kernel

/-- A reference that is not canonical, one whose page may not be sent to, and payloads that fail each check. -/
theorem witness_SendWords_traps :
    let s := pagedWith { pageOf 0 1 false with own := 0, other := 0 } [(1, 0x01000000), (2, 0x200)]
    let t := pagedWith (pageOf 0 1 false) [(2, 0x200), (8, 0x10000102), (9, 960), (10, 0x10000100), (11, 961), (12, 0x10000000), (13, 4)]
    let p := t.setPart 0 2 { somePart [] (liveTile 1) with domain := 7 }
    s.free { s := [31, 1, 2] ++ regsFrom 8 4 } ∧ s.free { s := [31, 1, 2] ++ regsFrom 8 2 } ∧ notCanonical (s.x 1) = true
      ∧ notCanonical (s.x 0) = false ∧ (match s.translate 0 (refHeader 0 (s.x 2)) 8 with | .cause _ => true | _ => false) = true
      ∧ t.translate 0 (refHeader 0 (t.x 2)) 8 = .ok (pageOf 0 1 false) ∧ 960 < (t.quad 10 1).toNat
      ∧ (t.quad 8 1).toNat ≤ 960 ∧ (t.quad 8 0).toNat % 4 ≠ 0 ∧ p.translate 0 (refHeader 0 (p.x 2)) 8 = .ok (pageOf 0 1 false)
      ∧ (p.quad 12 1).toNat = 4 ∧ outsideLocal 0 ((p.quad 12 0).toNat, 4) = none
      ∧ ((List.range 4).any fun i => p.otherPool p.me.domain (p.flatLocal (p.quad 12 0).toNat + i)) = true := by decide +kernel

/-- A message of registers, and one of 960 bytes of the scratchpad. -/
theorem witness_SendWords :
    let s := pagedWith (pageOf 0 1 false) [(2, 0x200), (8, 0x10000100), (9, 960)]
    s.room ∧ notCanonical (s.x 1) = false ∧ s.translate s.cur (refHeader (s.x 1) (s.x 2)) 8 = .ok (pageOf 0 1 false)
      ∧ s.free { s := [31, 1, 2] ++ regsFrom 8 4 } ∧ s.free { s := [31, 1, 2] ++ regsFrom 8 2 }
      ∧ 0 < (s.quad 8 1).toNat ∧ (s.quad 8 1).toNat ≤ 960 ∧ (s.quad 8 1).toNat % 4 = 0 ∧ (s.quad 8 0).toNat % 4 = 0
      ∧ outsideLocal s.myCluster ((s.quad 8 0).toNat, 960) = none
      ∧ ((List.range 960).any fun i => s.otherPool s.me.domain (s.flatLocal 0x10000100 + i)) = false := by decide +kernel

/-- Requests at the bounds of their operands, a key's registration, and the same words without STATUS.RT. -/
theorem witness_TaskAndFabricLaunches :
    let s := regsWith [(1, 0x10000100), (2, 767), (3, 3), (4, 1)]
    s.room ∧ badTarget (s.x 2) = false ∧ (s.x 1).toNat % 4 = 0 ∧ outsideLocal s.myCluster ((s.x 1).toNat, 132) = none
      ∧ s.free (useS [31, 1, 2]) ∧ s.free { s := [31, 1, 2] ++ regsFrom 3 2 } ∧ s.free (useS [31, 1]) ∧ s.free (useS [31, 1, 2, 3])
      ∧ (s.x 3).toNat ≤ 3 ∧ (s.x 4).toNat ≤ 1 ∧ s.me.live.rt = false ∧ s.free (useS [1]) ∧ s.rkregCause 0 0 0 = some (0x300, 0) := by
  decide +kernel

theorem witness_TaskAndFabricLaunches_keys :
    let r := rootWith [(1, 0x10000100), (2, 64), (3, 1023), (4, 1), (5, 0x001)]
    let k := r.modCluster 0 fun c => { c with keys := [{ key := 1, base := 0, len := 64, flags := 0, domain := 0, revoked := none }] }
    r.me.live.rt = true ∧ bits (r.x 3) 10 22 = 0 ∧ bits (r.x 4) 1 31 = 0 ∧ r.free (useS [31, 3, 4])
      ∧ r.rkregCause (r.x 1) (r.x 2) 0 = none ∧ r.me.region.kept.keys = [] ∧ (r.cluster 0).keys.length + (r.reservedKeys 0).length < 64
      ∧ (r.cluster 0).keysIssued < 1048575
      ∧ ((k.cluster 0).keys.any fun e => e.key == (k.x 5).toNat && e.domain == k.me.domain && e.revoked.isNone) = true
      ∧ ((r.cluster 0).keys.any fun e => e.key == (r.x 5).toNat && e.domain == r.me.domain && e.revoked.isNone) = false := by decide +kernel

/-- An invalidation, a binding of a host region and the local forms of a migration; the same words without STATUS.RT. -/
theorem witness_TranslationLaunches :
    let r := rootWith [(2, 0x400), (3, 0x400), (8, 63), (9, 288), (10, 0x200000), (12, 0x10000400), (13, 0x400)]
    r.room ∧ r.me.live.rt = true ∧ notCanonical (r.x 1) = false ∧ (r.x 2).toNat % 1024 = 0 ∧ (r.x 3).toNat % 1024 = 0
      ∧ r.free (useS [31, 1, 2, 3]) ∧ r.hovrBad 8 = none ∧ r.free { s := [31, 1, 2] ++ regsFrom 8 3 }
      ∧ r.migrBad 12 false = none ∧ r.free { s := 31 :: regsFrom 12 2 } := by decide +kernel

theorem witness_TranslationLaunches_user :
    State.reset.me.live.rt = false ∧ State.reset.free (useS [31, 1, 2, 3]) ∧ State.reset.free { s := [31, 1, 2] ++ regsFrom 8 3 }
      ∧ State.reset.free { s := 31 :: regsFrom 12 2 } := by decide +kernel

/-- A cluster with a completion that is ready, one with a region that waits, a load in flight, a slot that takes a cause at the start of
a region opened by a commit. -/
theorem witness_CommitUnitSteps :
    let d : Done := { engine := 3, slot := 0, st := 1, state := 0, disc := false, no := 0 }
    let s := State.reset.modCluster 0 fun c => { c with ready := [(0, d)] }
    let w := slotWith fun x => { x with wait := some (.commit (.next false) 4 0) }
    let l : Load := { loadS 1 5 with region := 0 }
    let a := slotWith fun x => { x with
      slice := some someSlice, async := [(0x2C0, 7)], region := { x.region with byCommit := true }, loads := [l] }
    ((s.requests 0).find? fun r => !s.requestHeld 0 r) = some (0, .done d) ∧ d.engine ≠ 0
      ∧ (s.cluster 0).ready.Pairwise (fun a b => a.1 ≤ b.1)
      ∧ ((w.requests 0).find? fun r => !w.requestHeld 0 r) = some (0, .region 0) ∧ (a.slot 0).loads[0]? = some l ∧ l.fetch = none
      ∧ a.asyncReady 0 = true ∧ (a.slot 0).live.gsize = 0 ∧ (a.slot 0).live.ta = false ∧ firstAsync (a.slot 0).async = some (0x2C0, 7)
      ∧ 0x2C0 ≠ 0x2C1 ∧ 0x2C0 ≠ 0x3C1 ∧ 0x2C0 < 1024 ∧ (a.slot 0).region.byCommit = true ∧ (a.slot 0).region.bundles = 0
      ∧ (a.slot 0).region.res.tiles = [] ∧ (a.slot 0).region.kept.tiles = [] ∧ a.tallocs 0 = false := by decide +kernel

/-- A solo run that waits, one whose time is over, and a full phase of level 3. -/
theorem witness_CommitUnitSteps_solo :
    let s := slotWith fun x => { x with soloWait := some 0 }
    let t := (slotWith fun x => { x with solo := some 0 }).modDie 0 fun d => { d with ck := Config.soloCk }
    let p : Phase := { level := 3, scope := 0, domain := 0, b := 5, count := 1, arrived := [0], gone := [] }
    let b := { State.reset with phases := [p] }
    s.firstSolo 0 = some 0 ∧ s.soloHolds 0 (s.gangOf 0) = false ∧ (t.slot 0).solo = some 0 ∧ 0 + Config.soloCk ≤ t.ckOf (clusterOf 0)
      ∧ b.phases.find? (b.fullPhase 3 0 0 5) = some p ∧ 3 ≤ p.level := by decide +kernel

/-- A command of slot 0. -/
def someCmd (op : MatOp) (b : Word) : MatCmd :=
  { seq := 0, slot := 0, st := 1, op := op, a := 0x10000000, b := b, c := 128, level := 0, domain := 0, fetch := .none, stage := .queued,
    entry := none }

/-- A matrix engine that holds some commands. -/
def matWith (cs : List MatCmd) (f : Matrix → Matrix) : State := State.reset.modMat 0 fun m => f { m with cmds := cs }

/-- Commands that can start: a weight load, a product, a drain, an MWAIT. -/
theorem witness_MatrixCommandSteps_start :
    ([MatOp.mwld 0, .mma false 0, .mdrain false false false false, .mwait].all fun op =>
      let s := matWith [someCmd op 0x8000] id
      (s.mat 0).cmd 0 == some (someCmd op 0x8000) && (s.mat 0).startable (someCmd op 0x8000)
        && ((s.settle 0).mat 0).cmd 0 == some (someCmd op 0x8000) && ((s.settle 0).mat 0).startable (someCmd op 0x8000)
        && (s.settle 0).grants 0 ((someCmd op 0x8000).asks (.mwait 0) [])) = true
      ∧ (MatOp.mdrain false false false false).onPort = true := by decide +kernel

/-- Operands on their way: rows that all may be read, rows of which one lies in another domain's partition, and rows on a line in
error. -/
theorem witness_MatrixCommandSteps_staging :
    let c := { someCmd (.mma false 0) 0x8000 with fetch := .pending }
    let s := matWith [c] id
    let f := s.setPart 0 2 { somePart [] (liveTile 1) with domain := 7 }
    let e := { s with faulty := [lineOf (flatPad 0 0x10000000)] }
    let rs := c.op.fetches c.a c.b c.c
    (s.mat 0).cmd 0 = some c ∧ c.fetch = .pending ∧ s.stages 0 c = true ∧ c.stage = .queued
      ∧ s.foreignByte 0 c.domain.toNat rs = none ∧ s.faultyPad 0 rs = none ∧ c.op = .mma false 0
      ∧ f.foreignByte 0 c.domain.toNat rs = some 0x10000000 ∧ e.foreignByte 0 c.domain.toNat rs = none
      ∧ e.faultyPad 0 rs = some 0x10000000 := by decide +kernel

/-- A weight load that finds no entry of its tile, one that has been read, and one that is being read; a tile in another domain's
partition; a read that the weight port serves. -/
theorem witness_MatrixCommandSteps_read :
    let c := someCmd (.mwld 0) 0
    let e (d : Option (List Byte × List Byte)) : Staging := { addr := 0x10000000, fmt := 0, plane := 0, clean := true, data := d }
    let shares (d : Option (List Byte × List Byte)) := matWith [c] fun m => { m with staging := [(2, e d)], bind := [(5, 2)] }
    let same (s : State) := { s.mat 0 with bind := mdel (s.mat 0).bind c.slot }.tidy.staging.find? fun e =>
      e.2.clean && e.2.addr == c.a && e.2.fmt == 0 && e.2.plane == c.b
    let s := matWith [c] id
    let f := s.setPart 0 2 { somePart [] (liveTile 1) with domain := 7 }
    let r := { c with stage := .reading 0 }
    let p := matWith [r] fun m => { m with weights := ⟨some 0, 0, 1⟩ }
    same (shares (some ([], []))) = some (2, e (some ([], []))) ∧ same (shares none) = some (2, e none) ∧ same s = none ∧ same f = none
      ∧ s.foreignByte 0 c.domain.toNat (c.op.reads c.a c.b c.c) = none
      ∧ f.foreignByte 0 c.domain.toNat (c.op.reads c.a c.b c.c) = some 0x10000000
      ∧ (p.mat 0).weights.cmd = some 0 ∧ (p.mat 0).cmd 0 = some r ∧ r.op = .mwld 0
      ∧ p.faultyPad 0 (r.op.reads r.a r.b r.c) = none := by decide +kernel

/-- A product whose operands are in staging, of a slot that owns its accumulator and has a binding that serves; one whose rows met an
error, one that owns nothing, one without a binding; a port with a command to serve. -/
theorem witness_MatrixCommandSteps_mma :
    let c := { someCmd (.mma false 0) 0x8000 with fetch := .done [[]] [] [] }
    let f := { c with fetch := .error 0x10000000 }
    let e : Staging := { addr := 0x10000000, fmt := 0, plane := 0, clean := true, data := none }
    let s := matWith [c] fun m => { m with owner := [(0, (0, 0))], bind := [(0, 2)], staging := [(2, e)] }
    let n := matWith [c] id
    let b := matWith [c] fun m => { m with owner := [(0, (0, 0))] }
    let z := { someCmd (.mzero true) 0x8000 with stage := .started }
    let p := matWith [z] id
    c.fetchFault = none ∧ c.fetch ≠ .pending ∧ (s.mat 0).owns (descAcc c.b) c.slot = true ∧ mfind (s.mat 0).bind c.slot = some 2
      ∧ mfind (s.mat 0).staging 2 = some e ∧ (e.fmt == 0) = true ∧ f.fetchFault = some (0x81, 0x153, 0x10000000)
      ∧ (n.mat 0).owns (descAcc c.b) c.slot = false ∧ (b.mat 0).owns (descAcc c.b) c.slot = true ∧ mfind (b.mat 0).bind c.slot = none
      ∧ (p.mat 0).port.cmd = none
      ∧ (p.mat 0).port.choose ((p.mat 0).cmds.filter fun c => c.stage == .started && c.op.onPort) = some (z, false) := by decide +kernel

/-- The command on the port: a clear that claims a free accumulator, clears of an owner and of a slot that owns nothing. -/
theorem witness_MatrixCommandSteps_mzero :
    let z (claim : Bool) := { someCmd (.mzero claim) 0x8000 with stage := .started }
    let s := matWith [z true] fun m => { m with port := ⟨some 0, 0, 1⟩ }
    let o := matWith [z false] fun m => { m with port := ⟨some 0, 0, 1⟩, owner := [(0, (0, 0))] }
    let n := matWith [z false] fun m => { m with port := ⟨some 0, 0, 1⟩ }
    (((s.settle 0).mat 0).port.cmd.bind ((s.settle 0).mat 0).cmd) = some (z true) ∧ (s.settle 0).grants 0 ((z true).asks (.port 0) []) = true
      ∧ mfind ((s.settle 0).mat 0).owner (descAcc (z true).b) = none
      ∧ (((o.settle 0).mat 0).port.cmd.bind ((o.settle 0).mat 0).cmd) = some (z false)
      ∧ ((o.settle 0).mat 0).owns (descAcc (z false).b) 0 = true ∧ ((n.settle 0).mat 0).owns (descAcc (z false).b) 0 = false := by
  decide +kernel

/-- A drain to the scratchpad, and a drain that fills, of an accumulator that the slot owns. -/
theorem witness_MatrixCommandSteps_mdrain :
    let d (fill : Bool) := { someCmd (.mdrain false false false fill) 0x8000 with stage := .started, fetch := .done [[]] [] [] }
    let s (fill : Bool) := matWith [d fill] fun m => { m with port := ⟨some 0, 0, 1⟩, owner := [(0, (0, 0))] }
    let u := (s false).settle 0
    ((u.mat 0).port.cmd.bind (u.mat 0).cmd) = some (d false) ∧ u.grants 0 ((d false).asks (.port 0) []) = true ∧ (u.mat 0).owns (descAcc 0x8000) 0 = true
      ∧ u.foreignByte 0 0 ((d false).op.writes (d false).a (d false).b) = none
      ∧ u.writesSealed ((u.mat 0).drained 0 (d false) false).1 = false ∧ u.grants 0 ((d false).asks (.port 0) ((u.mat 0).drained 0 (d false) false).1) = true
      ∧ ((((s true).settle 0).mat 0).port.cmd.bind (((s true).settle 0).mat 0).cmd) = some (d true)
      ∧ (d true).fetch = .done [[]] [] [] := by decide +kernel

/-- A started product; a group that is due; an idle array with a group to load, a load in flight, a pass to issue and a pass in
flight. -/
theorem witness_OnionSteps :
    let c := { someCmd (.mma false 0) 0x8000 with stage := .started }
    let s := matWith [c] id
    let g : Group := { members := [{ seq := 0, entered := 0, hold := 0 }], due := true }
    let e : Staging := { addr := 0x10000000, fmt := 0, plane := 0, clean := true, data := some ([], []) }
    let o := { c with stage := .onion, entry := some 2, fetch := .done [[]] [] [] }
    let w (l : Option Nat) := matWith [o] fun m => { m with groups := [g], staging := [(2, e)], latched := l }
    let p := matWith [o] fun m => { m with array := some (.pass [0]) }
    ((s.mat 0).cmds.filter fun c => c.stage == .started && (match c.op with | .mma _ _ => true | _ => false)) = c :: []
      ∧ (s.mat 0).groups.foldl (fun n g => n + g.members.length) 0 < 16
      ∧ ((w none).mat 0).groups[0]? = some g ∧ g.dueAt ≤ s.ckOf 0
      ∧ ((w none).mat 0).array = none ∧ ((w none).mat 0).readyGroup = some g ∧ ((w none).mat 0).entryOf g = some 2
      ∧ ((w none).mat 0).latched ≠ some 2 ∧ ((w (some 2)).mat 0).readyGroup = some g ∧ ((w (some 2)).mat 0).latched = some 2
      ∧ (g.members.all fun k => ((w (some 2)).mat 0).staged k) = true ∧ ((w (some 2)).mat 0).misfits g = []
      ∧ (p.mat 0).array = some (.pass [0]) := by decide +kernel

/-- A member of a pass whose completion is to commit, in the last rows of its accumulator; metadata of a group of four. -/
theorem witness_OnionSteps_product :
    let c := { someCmd (.mma false 0) 0x0FC08000 with
      stage := .ended 0x00 none, fetch := .done [List.replicate 128 0] [] [], entry := some 2 }
    let tile : List Byte := [0x80, 0x3F]
    let e : Staging := { addr := 0x10000000, fmt := 0, plane := 0, clean := true, data := some (tile, []) }
    let s := matWith [c] fun m => { m with staging := [(2, e)] }
    c.op = .mma false 0 ∧ c.stage = .ended 0x00 none ∧ c.fetch = .done [List.replicate 128 0] [] [] ∧ c.entry = some 2
      ∧ mfind (s.mat 0).staging 2 = some e ∧ e.data = some (tile, []) ∧ descRow0 c.b + descM c.b ≤ 64 ∧ 0 < descM c.b
      ∧ metaOf [0x33] 0 0 = 2 ^ 0 + 2 ^ 1 ∧ metaOf [0x33] 0 1 = 2 ^ 0 + 2 ^ 1 ∧ metaOf [0xC0] 0 1 = 2 ^ 2 + 2 ^ 3 := by decide +kernel

/-- An operation of slot 0. -/
def someOp (kind : PullKind) (lines : FMap Answer) (bytes : Option (List Byte)) : PullOp :=
  { id := 3, slot := 0, st := 1, kind := kind, src := [0x200], dst := [flatRam 0 0x200], len := 64, pages := [pageOf 0 1 false], domain := 0,
    slice := 0, lines := lines, bytes := bytes }

/-- A pull unit that holds some operations. -/
def pullWith (os : List PullOp) : State := State.reset.modPull 0 fun u => { u with ops := os }

/-- A fetch and a line of a pull whose owner has not answered; a line of alias bytes on their way to host memory, which an acquire waits
for; an owner in another chip; fetches that are answered. -/
theorem witness_PullSteps_requests :
    let f : LineFetch :=
      { id := 3, addr := 0x200, page := pageOf 0 1 false, acq := false, keep := true, floor := 0, slot := 0, till := 1, answer := none }
    let w (f : LineFetch) := State.reset.modPull 0 fun u => { u with fetches := [f] }
    let s := w f
    let far := w { f with page := pageOf 1 1 false }
    let acq := { f with acq := true }
    let alia : Alias := { proxy := 288, offset := 0, len := 64, take := 0, bytes := [], through := [(1, [lineOf (flatRam 1 0x200)])] }
    let key : KeyEntry := { key := 1, base := flatRam 1 0, len := 0x10000, flags := 31, domain := 0, revoked := none }
    let held := ((w acq).setHostRegion 5 { RegionSlot.reset with alia := some alia }).modCluster 1 fun c => { c with keys := [key] }
    let a := w { f with answer := some (.fail 0x40) }
    let b := w { f with answer := some (.line [] 1 false) }
    let o := someOp (.pull false) [] none
    let p := pullWith [o]
    let find (s : State) := (s.pull 0).fetches.find? fun f => f.id == 3 && f.answer.isNone
    (s.cluster 0).fenced = false ∧ find s = some f ∧ s.pageAwaited f.page f.addr = none ∧ s.acquireWaits f.page .read f.addr = false
      ∧ f.page.chip = s.chip ∧ find far = some { f with page := pageOf 1 1 false } ∧ (pageOf 1 1 false).chip ≠ far.chip
      ∧ far.pageAwaited (pageOf 1 1 false) f.addr = none ∧ far.acquireWaits (pageOf 1 1 false) .read f.addr = false
      ∧ find held = some acq ∧ held.pageAwaited acq.page acq.addr = none ∧ held.acquireWaits acq.page .acquire acq.addr = true
      ∧ find p = none
      ∧ ((p.pull 0).ops.find? fun o => o.id == 3 && (mfind o.lines 8).isNone && (linesOfRows o.src o.len).contains 8) = some o
      ∧ (o.kind.isLocal || o.kind.ask == .consume) = false ∧ pageAt o.pages (64 * 8) = some (pageOf 0 1 false)
      ∧ p.pageAwaited (pageOf 0 1 false) (64 * 8) = none ∧ p.acquireWaits (pageOf 0 1 false) o.kind.ask (64 * 8) = false
      ∧ ((a.pull 0).fetches.find? fun f => f.id == 3) = some { f with answer := some (.fail 0x40) }
      ∧ ((b.pull 0).fetches.find? fun f => f.id == 3) = some { f with answer := some (.line [] 1 false) } ∧ f.floor ≤ 1 := by
  decide +kernel

/-- Operations that complete: a copy, a verification, a pull and a digesting pull with all their lines, a pull that failed, a consuming
pull that is answered and one that is refused; a footprint pull with its line and one that failed. -/
theorem witness_PullSteps_completions :
    let line : Answer := .line (List.replicate 64 7) 1 false
    let c := someOp .cpy [] (some (List.replicate 64 7))
    let v := someOp (.verify 0) [] (some (List.replicate 96 0))
    let p := someOp (.pull false) [(8, line)] none
    let d := someOp (.pulld false (flatRam 0 0x400)) [(8, line)] none
    let f := someOp (.pull false) [(8, .fail 0x40)] none
    let k := someOp (.pullc 1) [(0, line)] none
    let r := someOp (.pullc 1) [(0, .fail 0x41)] none
    let g := someOp (.footprint false 2) [(8, line)] none
    let h := someOp (.footprint false 2) [(8, .fail 0x81)] none
    let u (o : PullOp) := (pullWith [o]).settle 0
    let ok (o : PullOp) (ws : FMap Byte) : Bool := (u o).grants 0 (o.completion ws) && (u o).absentFor ws == none
    let digest := digestLine (flatRam 0 0x400) (d.gather.map Prod.snd)
    let ws := placed (k.dst.headD 0) (fitBytes k.len (List.replicate 64 7))
    ((u c).opOf 0 3 = some c ∧ c.bytes.isSome = true ∧ (u c).mayWrite 0 c.copied = true ∧ ok c c.copied = true)
      ∧ ((u v).opOf 0 3 = some v ∧ ok v [] = true)
      ∧ (∀ o ∈ [p, g], (u o).opOf 0 3 = some o ∧ o.failure = none ∧ o.complete = true ∧ o.kind.plain = true
        ∧ (u o).mayWrite 0 o.gather = true ∧ ok o o.gather = true)
      ∧ ((u d).opOf 0 3 = some d ∧ d.failure = none ∧ d.complete = true ∧ (u d).mayWrite 0 (d.gather ++ digest) = true
        ∧ ok d (d.gather ++ digest) = true)
      ∧ ((u f).opOf 0 3 = some f ∧ f.failure = some 0x40 ∧ f.kind.plain = true)
      ∧ ((u h).opOf 0 3 = some h ∧ h.failure = some 0x81 ∧ h.kind.plain = true)
      ∧ ((u k).opOf 0 3 = some k ∧ mfind k.lines 0 = some line ∧ (u k).mayWrite 0 ws = true ∧ ok k ws = true)
      ∧ ((u r).opOf 0 3 = some r ∧ mfind r.lines 0 = some (.fail 0x41)) := by decide +kernel

/-- A copy whose source is to be read, without and with a line in error. -/
theorem witness_PullSteps_staging :
    let c := { someOp .cpy [] none with src := [flatRam 0 0x400] }
    let s := pullWith [c]
    let e := { s with faulty := [lineOf (flatRam 0 0x400)] }
    s.opOf 0 3 = some c ∧ c.kind.isLocal = true ∧ c.bytes = none ∧ s.faultyIn c.locals = none ∧ s.absentIn c.locals = none
      ∧ e.opOf 0 3 = some c ∧ (e.faultyIn c.locals).isSome = true := by decide +kernel

/-- A watch that is placed within the module, answered, expired; one whose slice is away; a watch of another chip. -/
theorem witness_WatchSteps :
    let w : Watch :=
      { id := 3, slot := 0, st := 1, slice := 0, addr := 0x200, page := pageOf 0 1 false, thr := 5, expiry := some 0, once := false,
        placed := false, answer := some (0, 1), heldAnswer := none, sent := 0, acked := 0, cancel := none }
    let v := { w with page := pageOf 1 1 false, answer := none }
    let away := { w with slice := 7 }
    let sl := slotWith fun x => { x with slice := some someSlice }
    let s := sl.modPull 0 fun u => { u with watches := [w] }
    let a := sl.modPull 0 fun u => { u with watches := [away] }
    let t := ({ sl with now := 100 * 559300 }).modPull 0 fun u => { u with watches := [v] }
    s.watchOf 0 3 = some w ∧ w.heldAnswer = none ∧ (s.slot w.slot).sliceId = w.slice ∧ w.placed = false ∧ w.page.chip = s.chip
      ∧ (s.cluster 0).fenced = false ∧ w.answer = some (0, 1) ∧ w.expiry = some 0 ∧ w.once = false ∧ 0 ≤ s.ckOf 0
      ∧ a.watchOf 0 3 = some away ∧ (a.slot away.slot).sliceId ≠ away.slice
      ∧ t.watchOf 0 3 = some v ∧ (t.slot v.slot).sliceId = v.slice ∧ v.page.chip ≠ t.chip ∧ v.sent + 32 * 559300 ≤ t.now
      ∧ v.acked + 100 * 559300 ≤ t.now ∧ v.answer = none ∧ (((t.heard 1).dropRequests 0 3).slot v.slot).sliceId = v.slice := by
  decide +kernel

/-- A send of four words to a ring of cluster 1. -/
def someSend (payload : Option (List Byte)) (answer : Option Nat) : SendRec :=
  { id := 3, slot := 0, st := 1, slice := 0, num := 0, payload := payload, answer := answer,
    msg := { header := 0x200, page := pageOf 0 1 false, gen := 0, vector := true, words := [], src := flatRam 0 0x200, len := 16 } }

/-- A payload to be read into staging. -/
theorem witness_WatchSteps_payload :
    let x := someSend none none
    let s := State.reset.modPull 0 fun u => { u with sends := [x] }
    ((s.pull 0).sends.find? fun x => x.id == 3 && x.payload.isNone) = some x ∧ s.absentIn [(x.msg.src, x.msg.len)] = none := by
  decide +kernel

/-- A tile whose lifetime has passed; an old entry of a request table, of no tile and the last one of a quarantined tile; a consuming
pull that reaches its owner's port. -/
theorem witness_PoolSteps :
    let x : Tile := ⟨.live, 1, 1, 5, some 0⟩
    let s := pooledWith (somePart [] x) []
    let e (t : Option (Nat × Nat × Nat)) : Served :=
      { chip := 0, gc := 0, rid := 0, tile := t, addr := 0, len := 0, outcome := 0, time := 0 }
    let r (s : State) (t : Option (Nat × Nat × Nat)) := ({ s with now := 64 * 559300 }).modCluster 0 fun c => { c with served := [e t] }
    let q := r (pooledWith (somePart [] ⟨.quarantined, 2, 0, 0, none⟩) []) (some (2, 0, 1))
    let v := (q.settle 0).modCluster 0 fun c => { c with served := [] }
    let o := someOp (.pullc 1) [] none
    let p := pullWith [o]
    let w := (p.modCluster 1 fun c => { c with inbound := [.pullc 0 3] }).settle 1
    (s.settle 0).part 0 2 = some (somePart [] x) ∧ ((somePart [] x).tile 0).state = .live ∧ ((somePart [] x).tile 0).expiry = some 0
      ∧ 0 ≤ (s.settle 0).ckOf 0 ∧ (s.settle 0).grants 0 (agentAsk 6 (.lifetime 2 0 0) []) = true
      ∧ ((((r State.reset none).settle 0).cluster 0).served = e none :: [] ∧ (e none).time + 64 * 559300 ≤ ((r State.reset none).settle 0).now
        ∧ ((r State.reset none).settle 0).grants 0 (agentAsk 6 .entry []) = true)
      ∧ (((q.settle 0).cluster 0).served = e (some (2, 0, 1)) :: [] ∧ (q.settle 0).grants 0 (agentAsk 6 .entry []) = true
        ∧ v.part 0 2 = some (somePart [] ⟨.quarantined, 2, 0, 0, none⟩)
        ∧ ((somePart [] ⟨.quarantined, 2, 0, 0, none⟩).tile 0).gen = (1 + 1) % 256 ∧ v.quarantines 0 2 0 1 = false)
      ∧ p.opOf 0 3 = some o ∧ o.kind = .pullc 1 ∧ o.pages = [pageOf 0 1 false] ∧ mfind o.lines 0 = none
      ∧ (p.cluster 0).fenced = false ∧ (pageOf 0 1 false).chip = p.chip ∧ (pageOf 0 1 false).owner = 1 ∧ (p.cluster 1).inbound = []
      ∧ (w.cluster 1).inbound = [.pullc 0 3] ∧ w.opOf 0 3 = some o ∧ (w.cluster 0).fenced = false := by decide +kernel

/-- A consuming pull that its owner's port has answered already, and one that passes every check. -/
theorem witness_PoolSteps_served :
    let key : KeyEntry := { key := 0, base := flatRam 0 0, len := 0x10000, flags := 31, domain := 0, revoked := none }
    let p := somePart [] (liveTile 1)
    let s := (pooledWith p []).modCluster 0 fun c => { c with keys := [key] }
    let q : Consume := { chip := 0, gc := 0, rid := 3, who := 0, key := 0, off := 0, gen := 1, len := 64 }
    let e : Served := { chip := 0, gc := 0, rid := 3, tile := none, addr := 0, len := 64, outcome := 0x41, time := 0 }
    let r := s.modCluster 0 fun c => { c with served := [e] }
    (r.cluster 0).fenced = false ∧ r.servedFor 0 0 0 3 = some e ∧ s.servedFor 0 0 0 3 = none ∧ (s.cluster 0).served.length < 4096
      ∧ s.keyFault 0 q.key q.chip .consume q.off q.len = none ∧ s.keyOf 0 q.key = some key
      ∧ ((match s.consumeCheck 0 (key.base + q.off) q.gen q.len with | .ok r => r == (2, p, 0) | .error _ => false) = true)
      ∧ s.faultyIn [(key.base + q.off, q.len)] = none ∧ s.grants 0 (agentAsk 6 (.item (.pullc 0 3)) []) = true := by decide +kernel

/-- An open ring of a core of a cluster, with room. -/
def someRing : Ring :=
  { isOpen := true, gen := 0, slot := 0, domain := 0, header := 0x10000100, logn := 2, foreign := true, no := 0 }

/-- An abandonment message whose ring is gone, and one whose ring has room. -/
theorem witness_PoolSteps_events :
    let ev (s : State) := (s.setPart 0 2 (somePart [] (liveTile 1))).modCluster 0 fun c => { c with events := [(0, 2, List.replicate 16 0)] }
    let s := ev State.reset
    let t := ev (State.reset.modCore 0 fun c => { c with rings := [(0, someRing)] })
    let m := eventMessage 0 0 (List.replicate 16 0)
    let ok (r : Except (Nat × Option Nat) Ring) : Bool := match r with | .ok _ => true | .error _ => false
    (∀ v ∈ [s, t], ((v.settle 0).cluster 0).events = (0, 2, List.replicate 16 0) :: []
        ∧ (v.settle 0).part 0 2 = some (somePart [] (liveTile 1)))
      ∧ ((s.settle 0).core 0).ring 0 = Ring.reset ∧ ok ((s.settle 0).checkRing 0 Ring.reset m) = false
      ∧ ((t.settle 0).core 0).ring 0 = someRing ∧ (t.settle 0).checkRing 0 someRing m = .ok someRing
      ∧ (t.settle 0).grants 0 (agentAsk 3 .event (linesOf ((t.settle 0).messageBytes 0 someRing m))) = true ∧ bits (0 : Word) 0 17 = 0 := by decide +kernel

/-- A module with an open ring in cluster 1 under a key, which foreign peers may use. -/
def ringState : State :=
  (State.reset.modCore 8 fun c => { c with rings := [(0, someRing)] }).modCluster 1 fun c =>
    { c with keys := [{ key := 1, base := flatRam 1 0, len := 0x10000, flags := 31, domain := 0, revoked := none }] }

/-- A send that reaches its owner's port, a message that passes every check, and an answered send. -/
theorem witness_MessageSteps :
    let x := someSend (some []) none
    let s := State.reset.modPull 0 fun u => { u with sends := [x] }
    let v := (s.modCluster 1 fun c => { c with inbound := [.send 0 3] }).settle 1
    let a := State.reset.modPull 0 fun u => { u with sends := [someSend (some []) (some 0)] }
    let q : SendReq := { chip := 0, gc := 0, rid := 3, who := 0, key := 1, off := 0x100, gen := 0, vector := true, payload := List.replicate 4 7 }
    let m := q.message (flatRam 1 0 + 0x100)
    let e : Served := { chip := 0, gc := 0, rid := 3, tile := none, addr := 0, len := 0, outcome := 0x80, time := 0 }
    s.stageSend 0 3 = s ∧ s.sendOf 0 3 = some x ∧ s.sendReady 0 x = true ∧ x.msg.page.chip = s.chip ∧ x.msg.page.owner = 1
      ∧ (s.cluster 1).inbound = [] ∧ (v.cluster 1).inbound = [.send 0 3] ∧ v.sendOf 0 3 = some x ∧ v.sendReady 0 x = true
      ∧ (ringState.cluster 1).fenced = false ∧ ringState.servedFor 1 0 0 3 = none ∧ (ringState.cluster 1).served.length < 4096
      ∧ (ringState.modCluster 1 fun c => { c with served := [e] }).servedFor 1 0 0 3 = some e
      ∧ (ringState.keyFault 1 1 0 .message 0x10000 4).isSome = true
      ∧ ringState.keyFault 1 1 0 .message 0x100 4 = none ∧ (ringState.keyOf 1 1).map KeyEntry.base = some (flatRam 1 0)
      ∧ ringState.checkMessage 1 m = .ok someRing
      ∧ ringState.grants 1 (agentAsk 3 (.item (.send 0 3)) (linesOf (ringState.messageBytes 1 someRing m))) = true
      ∧ a.sendOf 0 3 = some (someSend (some []) (some 0)) := by decide +kernel

/-- A message of a foreign peer that passes every check, at an address with a generation in its low bits; sends of a peer of which the
next one has come, and of which one has waited 64 us for its order; a port that is down. -/
theorem witness_MessageSteps_peers :
    let h : PeerHeader := { chip := 9, rid := 0, who := 0, sent := 0, key := 1, off := 0x100, high := 0, port := 15 }
    let ring (gen : Nat) (s : State) := s.modCore 8 fun c => { c with rings := [(0, { someRing with gen := gen })] }
    let s (gen : Nat) := ring gen (ringState.modPort 15 fun p => { p with up := true })
    let payload : List Byte := List.replicate 4 7
    let m (gen : Nat) : Arrival :=
      { kind := 4, chip := 0, who := 0xFFFFFFFF, key := 1, header := 0x10000100, gen := gen, payload := payload }
    let i : Inbound := { rid := 0, gc := 1, num := 1, key := 1, off := 0x100, gen := 0, vector := false, payload := [], arrived := 0 }
    let o (next : Nat) : SendOrder := { chip := 9, slot := 0, header := 0, next := next, waiting := [i] }
    let w := { State.reset with now := 64 * 559300, orders := [o 0] }
    let x := { ringState with orders := [o 1] }
    (∀ gen ∈ [0, 255], let a := { h with off := 0x100 + gen }
        let v := (s gen).arriving a 4
        let i : PortItem := .ringWrite a payload
        let u := (v.modCluster 1 fun c => { c with inbound := [i] }).settle 1
        v.hears a = true ∧ a.high = 0 ∧ (u.cluster 1).fenced = false ∧ (v.cluster 1).inbound = [] ∧ (u.cluster 1).inbound = [i]
        ∧ 0 < payload.length ∧ payload.length % 4 = 0 ∧ payload.length ≤ 960
        ∧ u.keyFault 1 1 9 .message a.off 1 = none ∧ (u.keyOf 1 1).map KeyEntry.base = some (flatRam 1 0)
        ∧ (flatRam 1 0 + a.off) % 256 = gen ∧ gen ≤ a.off ∧ localAddr (flatRam 1 0 + a.off - gen) = 0x10000100
        ∧ (v.peer 9).ident % 2 ^ 16 = 0
        ∧ u.checkMessage 1 (m gen) = .ok { someRing with gen := gen }
        ∧ u.grants 1 (agentAsk 3 (.item i) (linesOf (u.messageBytes 1 { someRing with gen := gen } (m gen)))) = true)
      ∧ (w.orderOf 9 0 0).waiting = i :: [] ∧ leastNum [i] = some 1
      ∧ ((w.orderOf 9 0 0).waiting.any fun i => i.arrived + 64 * 559300 ≤ w.now) = true
      ∧ ((x.orderOf 9 0 0).waiting.find? fun j => j.num == (x.orderOf 9 0 0).next) = some i
      ∧ (x.serveSend (.order 9 0 0) (i.asks 9 0)).1.isSome = true ∧ (State.reset.port 15).up = false := by decide +kernel

/-- A submission, a cancel, and an answered submission of cluster 0 to queue 0 of die 0. -/
def someSub (sid answer : Option Nat) : SubRec :=
  { id := 3, slot := 0, st := 1, target := 0, words := [], sid := sid, time := none, domain := 0, rt := true, answer := answer }

theorem witness_TaskQueueSteps :
    let s (x : SubRec) := State.reset.modPull 0 fun u => { u with subs := [x] }
    let a := s (someSub none none)
    let c := s (someSub (some 5) none)
    let u := a.settle (taskCluster 0)
    let v := c.settle (taskCluster 0)
    (a.subOf 0 3 = some (someSub none none) ∧ (someSub none none).answer = none ∧ (a.cluster 0).fenced = false
      ∧ (u.cluster (taskCluster 0)).fenced = false ∧ u.mayTurn 0 2 = true ∧ (u.refusesEntry 0 ((u.queue 0).expand []) 0 true).isSome = true ∧ (someSub none none).sid = none)
      ∧ (c.subOf 0 3 = some (someSub (some 5) none) ∧ (someSub (some 5) none).answer = none ∧ (c.cluster 0).fenced = false
      ∧ (v.cluster (taskCluster 0)).fenced = false ∧ (someSub (some 5) none).rt = true ∧ v.mayTurn 0 5 = true)
      ∧ (s (someSub none (some 0))).subOf 0 3 = some (someSub none (some 0)) := by decide +kernel

/-- An enabled queue with room: a record that it accepts and one whose level is out of range; a slice for which no slot is held; a cluster
to fence. -/
theorem witness_TaskQueueSteps_records :
    let s := State.reset.setQueue 0 { Queue.blank with en := true, cap := 1 }
    let q := s.queue 0
    (s.cluster (taskCluster 0)).fenced = false ∧ s.refusesEntry 0 (q.expand [0]) 0 false = none ∧ badEntry (q.expand [0]) = false
      ∧ badEntry (q.expand [0x2000, 16]) = true ∧ s.heldSlots someSlice.id = [] ∧ (s.cluster 0).fenced = false := by decide +kernel

/-- A slice for slot 0 of cluster 0 of die 0. -/
def placedSlice (prio : Nat) (fp : List Nat) : Slice := { someSlice with place := 0x80000000, prio := prio, pulling := fp }

/-- A timed entry that is due, an entry that a free slot admits, and one for a slot that is held for it with a register pending. -/
theorem witness_TaskQueueSteps_dispatch :
    let l := placedSlice 0 []
    let s := State.reset.modDie 0 fun d => { d with timed := [(0, l)] }
    let q := (State.reset.modDie 0 fun d => { d with queued := [l] }).modMan fun m => { m with stage := 7 }
    let r := q.modSlot 0 fun x => { x with heldFor := some 0, live := { x.live with pend := 2 } }
    let v := s.settle (taskCluster 0)
    (((v.die 0).timed.filter fun t => t.1 ≤ v.podUs).map Prod.snd).all (fun t => !v.dropped t) = true
      ∧ ((v.die 0).timed.filter fun t => t.1 ≤ v.podUs) = [(0, l)] ∧ v.mayTurn 0 1 = true ∧ [0].Nodup
      ∧ [q, r].all (fun q => q.man.stage == 7 && q.mayTurn 0 3
        && firstEntry ((q.die 0).queued.filter fun l => !q.dropped l && (q.seat l).isSome) == some l && q.seat l == some [0]) = true
      ∧ (r.slot 0).heldFor = some l.id ∧ bit (r.slot 0).live.pend 1 = true ∧ (q.slot 0).heldFor = none := by
  decide +kernel

/-- A slot whose footprint has come, and one whose footprint failed. -/
theorem witness_TaskQueueSteps_start :
    let l := placedSlice 0 []
    let p := slotWith fun x => { x with slice := some l, dispatching := true }
    let f := slotWith fun x => { x with slice := some l, dispatching := true, footFail := some (0x40, 0x1C1) }
    (p.slot 0).slice = some l ∧ (p.slot 0).dispatching = true ∧ ((p.slotsWith l.id).findSome? fun m => (p.slot m).footFail) = none
      ∧ ((p.slotsWith l.id).any fun m => match (p.slot m).slice with | some k => !k.pulling.isEmpty | none => false) = false
      ∧ (f.slot 0).slice = some l ∧ (f.slot 0).dispatching = true
      ∧ ((f.slotsWith l.id).findSome? fun m => (f.slot m).footFail) = some (0x40, 0x1C1) := by
  decide +kernel

/-- An abort request at its die and on its slot; an exhausted budget, with a lower cause and while TA = 1. -/
theorem witness_SliceEndSteps :
    let a := State.reset.modDie 0 fun d => { d with aborts := [5] }
    let b := slotWith fun x => { x with slice := some someSlice, abort := true }
    let e := slotWith fun x => { x with slice := some { someSlice with budget := 5, left := 0 }, async := [(0x2C1, 0)] }
    let f := slotWith fun x =>
      { x with slice := some { someSlice with budget := 5, left := 0 }, live := { x.live with status := 0x200 } }
    ((a.die 0).aborts = 5 :: [] ∧ a.mayTurn 0 6 = true)
      ∧ ((b.slot 0).slice = some someSlice ∧ (b.slot 0).abort = true ∧ (b.slot 0).dispatching = false ∧ (b.slot 0).live.gsize = 0
        ∧ (b.slot 0).wait = none ∧ (b.slot 0).region.bundles = 0 ∧ b.stopped (clusterOf 0) = false ∧ (b.slot 0).region.res.tiles = []
        ∧ (b.slot 0).region.kept.tiles = [])
      ∧ [e, f].all (fun e => (e.slot 0).runs && !(e.slot 0).leaves && !(e.slot 0).abort && (e.slot 0).live.gsize == 0 && !e.standsStill 0
        && e.exhausted 0) = true ∧ ((e.slot 0).async.all fun c => asyncKey 0x2C0 ≤ asyncKey c.1) = true ∧ (f.slot 0).live.ta = true := by
  decide +kernel

/-- A pre-emption, and one that was not answered. -/
theorem witness_SliceEndSteps_preempt :
    let k := { placedSlice 0 [] with id := 1 }
    let l := placedSlice 7 []
    let p := ((slotWith fun x => { x with slice := some k }).modDie 0 fun d => { d with queued := [l] }).modMan fun m => { m with stage := 7 }
    let t := (slotWith fun x => { x with slice := some k, preempt := some 0 }).modDie 0 fun d => { d with ck := 32768 }
    (firstEntry ((p.die 0).queued.filter fun l => !p.dropped l) = some l ∧ p.man.stage = 7 ∧ p.mayTurn 0 4 = true ∧ p.seat l = none
        ∧ firstPreempt (p.preemptable l) = some (0, k))
      ∧ (t.slot 0).slice = some k ∧ (t.slot 0).preempt = some 0 ∧ 0 + 32768 ≤ t.ckOf (clusterOf 0) ∧ (t.slot 0).failing = false := by
  decide +kernel

/-- A slice that waits to leave and may, by RETIRE and by YIELD to a queue with room; an exhausted slice that is queued again; a queue with
a failure log and one without. -/
theorem witness_SliceEndSteps_leave :
    let s (h : Leave) := (slotWith fun x => { x with slice := some someSlice, wait := some (.leave h) }).setQueue 0
      { Queue.blank with en := true, cap := 1 }
    let f := State.reset.setQueue 0 { Queue.blank with flog := 0x10000000, flogn := 2 }
    (∀ h ∈ [Leave.retire, .yield 8 5], let u := (((s h).prepareLeave 0 h).settle 0).settle (taskCluster 0)
      ((s h).slot 0).slice = some someSlice ∧ ((s h).slot 0).wait = some (.leave h) ∧ (s h).slotsWith 0 = [0]
        ∧ (s h).abortDue someSlice = false ∧ u.clear 0 h = true ∧ u.mayLeave (((u.slot 0).slice).getD someSlice) h = true)
      ∧ Leave.retire.keeps = false ∧ flagREQ 0x12 = true ∧ 0 < flagMAXR 0x12 ∧ (f.queue 0).flog ≠ 0
      ∧ (f.cluster (taskCluster 0)).fenced = false ∧ f.writesSealed (f.failBytes someSlice 7 0 0x021) = false
      ∧ (State.reset.queue 0).flog = 0 := by decide +kernel

/-- Ports before and after training, two ports that are up and one, requests that are due, peers that are silent. -/
theorem witness_PortSteps :
    let b := State.reset.modMan fun m => { m with stage := 5 }
    let p := State.reset.modPort 15 fun p => { p with up := true, failed := 7 }
    let w := p.modPort 3 fun p => { p with up := true }
    let r : Request := { chip := 9, gc := 0, id := 3, asked := .fetch, bytes := 64, first := some 0, last := 0, sends := 1, port := 15 }
    let s (n : Nat) := { State.reset with reqs := [r], now := usUnits n }
    (15 < 16 ∧ 5 ≤ b.man.stage ∧ b.man.trip = false ∧ (p.port 15).up = true ∧ (s 12).reqs[0]? = some r ∧ r.first = some 0)
      ∧ (r.asked ≠ .watch ∧ r.asked ≠ .attest ∧ r.sends ≤ 4 ∧ 0 + usUnits (12 * r.sends) ≤ (s 12).now
        ∧ (s 12).now < 0 + usUnits 48 + ckUnits 2 ∧ 0 + usUnits 60 ≤ (s 60).now)
      ∧ w.choosePort (some r.port) = some 3 ∧ p.choosePort (some r.port) = some 15 ∧ (w.port 3).up = true
      ∧ 9 ≠ State.reset.chip ∧ ((s 100).sentTo 9).isEmpty = false
      ∧ max ((s 100).peer 9).answered ((s 100).peer 9).busySince + usUnits 100 ≤ (s 100).now := by decide +kernel

/-- Requests of peers at a port that is up: a read that its key permits and one that it does not, a fenced owner, a foreign chip's command, a
command of a Punosko chip in one and in sixteen parts, one whose parts are late. -/
theorem witness_PeerRequestSteps :
    let h : PeerHeader := { chip := 9, rid := 0, who := 0, sent := 0, key := 1, off := 0x100, high := 0, port := 15 }
    let s := ringState.modPort 15 fun p => { p with up := true }
    let r := s.arriving h 0
    let f := s.modCluster 1 fun c => { c with fenced := true }
    let p := s.modPeer 9 fun p => { p with kind := .punosko }
    let first : Parts := { chip := 9, rid := 0, got := [0], first := 0 }
    let w := { s with parts := [first], now := usUnits 12 }
    (State.reset.hears h = false ∧ r.hears h = true ∧ (r.cluster 1).fenced = false ∧ h.high = 0
        ∧ r.keyFault 1 1 9 .read 0x100 256 = none ∧ (r.keyOf 1 1).map (fun k => k.base) = some (flatRam 1 0)
        ∧ 256 ∈ [32, 64, 128, 256] ∧ 0x100 % 256 = 0 ∧ r.faultyIn [(flatRam 1 0 + 0x100, 256)] = none
        ∧ r.absentIn [(flatRam 1 0 + 0x100, 256)] = none ∧ r.keyFault 1 1 9 .read 0x10000 32 = some 4)
      ∧ ((f.arriving h 64).hears h = true ∧ ((f.arriving h 64).cluster 1).fenced = true ∧ (s.arriving h 64).foreign 9 = true
        ∧ (p.arriving h 64).hears h = true ∧ (p.arriving h 64).foreign 9 = false ∧ p.partsOf 9 0 = none ∧ h.port < 16
        ∧ (p.arriving h 64).man.trip = false)
      ∧ w.partsOf 9 0 = some first ∧ first.first + usUnits 12 ≤ w.now := by decide +kernel

/-- A violation that waits for its record; a partner's report that is awaited, and one that is late; the partners' list. -/
theorem witness_PeerRequestSteps_records :
    let v : Violation := { kind := 1, reason := 1, chip := 9, who := 0, key := 0, addr := 0 }
    let l : ViolLog := { addr := 0x10000000, logn := 2, written := 0, waiting := [v], dropped := 0 }
    let d := State.reset.modDie 0 fun d => { d with viol := some l }
    let a : Attest := { chip := 9, ckreg := some (0, 0, 1, false), since := 0, id := 3 }
    let r : Request := { chip := 9, gc := 0, id := 3, asked := .attest, bytes := 64, first := some 0, last := 0, sends := 1, port := 15 }
    let s := { State.reset with attests := [a], reqs := [r], now := usUnits 100 }
    let u := d.settle (taskCluster 0)
    ((u.die 0).viol = some l ∧ l.waiting = v :: [] ∧ u.grants (taskCluster 0) (agentAsk 4 .violation (linesOf (l.bytes 0 v))) = true
        ∧ u.writesSealed (l.bytes 0 v) = false)
      ∧ a.ckreg = some (0, 0, 1, false) ∧ (s.attests.find? fun a => a.chip == 9 && s.attestSent a) = some a
      ∧ (s.attests.find? fun a => a.chip == 9 && a.ckreg.isSome && a.since + usUnits 100 ≤ s.now) = some a
      ∧ (s.partners.filter (· != 9)).length < 16 := by decide +kernel

/-- The feed identifier of a partner is the module's own, or another. -/
theorem witness_PeerRequestSteps_feeds : (∃ feed, feed = Config.feedId.toNat) ∧ ∃ feed, feed ≠ Config.feedId.toNat :=
  ⟨⟨_, rfl⟩, ⟨_, Nat.succ_ne_self _⟩⟩

/-- A walk, an invalidation, the host's registers, an entry to take, a region to kick, a page that is asked for, a slot that waits for one, a
commit to write through whose token waits. -/
theorem witness_HostSteps :
    let w := slotWith fun x => { x with walk := some { addr := 0x200, kind := 1, failed := none } }
    let i := State.reset.modPull 0 fun u => { u with xlats := [{ id := 3, slot := 0, st := 1, op := .invalidate true 0 1024 }] }
    let b := State.reset.modMan fun m => { m with stage := 4 }
    let e := { b with host := { b.host with sqtail := 1, sqcfg := 2 } }
    let u := e.settle (taskCluster 0)
    let r : PageRequest := { pasid := 1, page := 2, since := 0 }
    let p := { b with host := { b.host with pri := [r] }, now := usUnits 100 }
    let q := slotWith fun x => { x with hostWait := some (1, 2, 0x10000, 8) }
    let a : Alias := { proxy := 288, offset := 0, len := 64, take := 0, bytes := [], through := [(1, [5])] }
    let k := State.reset.setHostRegion 5 { RegionSlot.reset with alia := some a }
    ((w.slot 0).walk = some { addr := 0x200, kind := 1, failed := none } ∧ (i.xlatOf 0 3).isSome = true ∧ 4 ≤ b.man.stage
      ∧ b.man.trip = false) ∧ (e.mayTake = true ∧ badTarget 0 = false ∧ u.mayTurn 0 2 = true)
      ∧ (63 < 64 ∧ (b.region 63).state = 0 ∧ p.pageRequest 1 2 = some r ∧ r.since + usUnits 100 ≤ p.now)
      ∧ (q.slot 0).hostWait = some (1, 2, 0x10000, 8)
      ∧ (k.region 5).alia = some a ∧ a.through = (1, [5]) :: [] := by decide +kernel

theorem witness_HostSteps_regions :
    let x (op : XlatOp) : XlatRec := { id := 3, slot := 0, st := 1, op := op }
    let t := { State.reset.modPull 0 (fun u => { u with xlats := [x (.take 5 288 0 0 0)] }) with now := usUnits 1000 }
    let a : Alias := { proxy := 288, offset := 0, len := 64, take := 0, bytes := [], through := [] }
    let g := (State.reset.modPull 0 fun u => { u with xlats := [x (.give 5 288 0)] }).setHostRegion 5 { RegionSlot.reset with alia := some a }
    t.xlatOf 0 3 = some (x (.take 5 288 0 0 0)) ∧ 0 + usUnits 1000 ≤ t.now ∧ g.xlatOf 0 3 = some (x (.give 5 288 0))
      ∧ (g.region 5).alia = some a ∧ g.drained a = true := by decide +kernel

/-- A module that performs a request with the given OP and arguments in state 7. -/
def mbWith (stage op : Nat) (args : List Word) : State :=
  State.reset.modMan fun m =>
    { m with stage := stage, mbcmd := BitVec.ofNat 32 op, mbstat := 0x80000000,
             mbargs := (List.range 8).foldl (fun v i => if h : i < 8 then v.set i (args.getD i 0) else v) m.mbargs }

/-- Requests before state 7, with a reserved bit set, and with every OP in state 7. -/
theorem witness_ManagementRequests :
    (mbWith 6 1 []).mbRuns 0x01 = true ∧ (mbWith 6 1 []).man.stage ≠ 7 ∧ 0x01 ∉ [0x02, 0x03, 0x05, 0x09]
      ∧ (mbWith 7 1 [0x400]).mbReserved [0x3FF] = true ∧ (mbWith 7 1 []).mbReserved [0x3FF] = false
      ∧ (mbWith 7 1 [0, 0, 4096, 0x10000000, 10]).mbReserved [0x3FF, 0x8000FFFF, 0x1FFF, 0xFFFFFFFF, 0xF] = false ∧ logPlace 0x10000000 10 = true
      ∧ (mbWith 7 2 [1023, 2]).mbRuns 0x02 = true ∧ (mbWith 7 2 [1023, 2]).mbReserved [0x3FF, 0x3, 0xFFFFFFFF, 0xFFFFFFFF] = false
      ∧ (mbWith 7 3 [288, 0]).mbRuns 0x03 = true ∧ isMem 288 = true ∧ 0 * 0x4000 + 0x10000 ≤ hbmSize := by decide +kernel

/-- Requests 0x04 to 0x0A in state 7: a slot that is not halted, and one that is halted and whose slice waits for nothing. -/
theorem witness_ManagementRequests_others :
    let up := (mbWith 7 8 [9]).modPeer 9 fun p => { p with up := true }
    ((mbWith 7 4 [11, 0x10000000, 2]).settle (taskCluster 11)).grants (taskCluster 11)
      (agentAsk 4 .manage (linesOf (logZeros 11 0x10000000))) = true ∧ (mbWith 7 5 [0xFFFF, 1]).mbReserved [0xFFFF, 0x1] = false
      ∧ (mbWith 7 6 [5]).mbRuns 0x06 = true ∧ (mbWith 7 6 [5]).mbReserved [0xFFFFFFFF] = false ∧ 5 < Config.slots
      ∧ ((mbWith 7 6 [5]).slot 5).halted = false
      ∧ (mbWith 7 7 [3839]).mbReserved [0xFFF] = false ∧ 3839 < Config.clusters
      ∧ (up.peer 9).up = true ∧ (up.peer 9).kind ≠ .punosko ∧ (mbWith 7 9 []).mbReserved (List.replicate 8 0xFFFFFFFF) = false
      ∧ (mbWith 7 10 []).mbRuns 10 = true ∧ 9 < (mbWith 7 10 []).man.op ∧ (0xFF : Nat) < 256 := by decide +kernel

theorem witness_ManagementRequests_halted :
    let s := (mbWith 7 6 [5]).modSlot 5 fun x => { x with halted := true, slice := some someSlice, wait := some (.leave (.failed 7 0 0x021)) }
    let p := s.pull 0
    ((s.slot 5).halted = true ∧ (s.slot 5).slice = some someSlice ∧ s.slotsWith 0 = [5]
      ∧ 0 ∉ (s.die 0).aborts ∧ s.requests (clusterOf 5) = [] ∧ s.requests (taskCluster 0) = [] ∧ s.stopped (taskCluster 0) = false
      ∧ (s.queue 0).flog = 0) ∧ (s.slot 5).wait = some (.leave (.failed 7 0 0x021)) ∧ (s.slot 5).live.pend = 0
      ∧ (s.slot 5).arrivals.isEmpty = true ∧ ((s.mat 0).ofSlot 5).isEmpty = true ∧ p.watches.isEmpty = true ∧ p.ops.isEmpty = true
      ∧ p.sends.isEmpty = true ∧ p.subs.isEmpty = true ∧ p.xlats.isEmpty = true ∧ (s.cluster 0).ready.isEmpty = true := by decide +kernel

/-- Mode requests, and clock changes: of a request on its last die but one and its last die, of a new plan, and of a die alone. -/
theorem witness_TaprootSteps :
    let b := State.reset.modMan fun m => { m with stage := 4 }
    let c (d : Nat) := b.modMan fun m => { m with pending := true, nextDie := d }
    let n := State.reset.modDie 3 fun d => { d with newPlan := some [(800, false), (700, false), (600, false)] }
    let o := State.reset.modDie 3 fun d => { d with mode := 1 }
    let m := State.reset.modMan fun m => { m with modeAt := some 0 }
    (4 ≤ b.man.stage ∧ b.man.pending = false ∧ (0xC : Word) &&& 0xC ≠ State.reset.mode &&& 0xC ∧ State.reset.man.modeAt = none
      ∧ m.man.modeAt = some 0 ∧ 0 + usUnits 10 ≤ ({ m with now := usUnits 10 } : State).now)
      ∧ ([b, c 10, c 11, n, o].all fun s => !s.man.trip && (List.range Config.dies).all fun e => (s.die e).since ≤ s.now) = true
      ∧ (c 10).man.pending = true ∧ 10 = (c 10).man.nextDie ∧ 10 + 1 < Config.dies ∧ 11 = (c 11).man.nextDie ∧ 11 + 1 = Config.dies
      ∧ n.man.pending = false ∧ (n.die 3).newPlan.isSome = true ∧ ((List.range 3).all fun e => (n.die e).newPlan.isNone) = true
      ∧ o.man.pending = false ∧ (o.die 3).newPlan.isSome = false ∧ (o.die 3).mode ≠ (o.die 3).target (bits o.mode 0 2) := by
  decide +kernel

/-- Bring-up, power and temperature. -/
theorem witness_TaprootSteps_power :
    let u := State.reset.modMan fun m => { m with samples := List.replicate 100 6000001 }
    let h := State.reset.modDie 11 fun d => { d with hot := true }
    let at_ (n : Nat) := State.reset.modMan fun m => { m with stage := n }
    State.reset.man.fail = false ∧ State.reset.man.stage = 0 ∧ (at_ 3).man.stage = 3 ∧ (at_ 5).man.stage = 5 ∧ u.man.meanAbove 6000000 = true
      ∧ State.reset.man.meanAbove 6000000 = false ∧ State.reset.man.meanBelow 5700000 = false ∧ 11 < Config.dies
      ∧ (State.reset.die 11).hot = false ∧ (h.die 11).hot = true := by decide +kernel

theorem witness_TaprootSteps_margins :
    let l := { State.reset.modMan (fun m => { m with stage := 7 }) with now := usUnits 3600000000 * 1000 }
    l.man.stage = 7 ∧ l.man.trip = false ∧ l.man.marks < l.poweredHours / 1000 ∧ (100 : Int).natAbs ≤ 100 ∧ (-100 : Int).natAbs ≤ 100
      ∧ ((slotWith fun x => { x with slice := some someSlice }).slot 0).slice.isSome = true ∧ 1 ≤ 5 ∧ (State.reset.cluster 0).fenced = false := by
  decide +kernel

/-- Words that decode, without and with the S bit; instructions that are well-formed and have a word. -/
theorem witness_EncodeThenDecode : (Instr.add 31 31 31).wf = true ∧ encode true (.add 31 31 31) = some 0x41FFFE00
    ∧ encode false (.retire) = some 0x38000003 := by decide

theorem witness_DecodeThenEncode : decodeWord 0x41FFFE00 = .ok (.add 31 31 31) := by decide

theorem witness_UnassignedWords : classBit 0x0B000000 = false ∧ fld 0x0B000000 24 6 ∈ [0x00, 0x0B, 0x0F, 0x3B]
    ∧ classBit 0x9D800000 = true ∧ 0x3B ≤ fld 0x9D800000 23 7 ∧ fld 0x9D800000 23 7 ≤ 0x3F ∧ classBit 0xBB800000 = true
    ∧ 0x64 ≤ fld 0xBB800000 23 7 ∧ fld 0xBB800000 23 7 ≤ 0x77 ∧ fld 0x20000000 24 6 ∈ [0x20, 0x27, 0x32, 0x36] ∧ 0x3C ≤ fld 0x3C000000 24 6
    ∧ 0x78 ≤ fld 0xBC000000 23 7 := by decide

/-- Slot 0 at the start of a bundle, with its turn next. -/
def runningState (pc : Word) (cells : List Host.Cell) : State :=
  { State.reset.modSlot 0 (fun x => { x with slice := some someSlice, pc := pc, region := { x.region with code := cells } }) with
    agenda := [.slot 0] }

/-- A running slot whose next bundle is a solo word, a pair, a word that is refused, and a pc that is misaligned or that names no code;
an event that is next. -/
theorem witness_StepRunsDecodedWord :
    let s := { runningState 0 [] with agenda := [], cur := 0 }
    (match State.ready s 0 with | .bundle u => u == (s.startBudget 0).modSlot 0 Slot.unbarred | _ => false) = true
      ∧ (s.slot 0).runs = true ∧ (s.slot 0).wait = none ∧ (s.slot 0).soloWait = none ∧ (s.slot 0).live.gsize = 0 ∧ (s.slot 0).takes = none
      ∧ (s.slot 0).fails = [] ∧ (s.slot 0).barred = false ∧ s.exhausted 0 = false ∧ s.man.trip = false ∧ (s.cluster 0).fenced = false
      ∧ s.stopped 0 = false := by
  decide +kernel

theorem witness_StepRunsDecodedWord_words :
    (codePlace 0 0).isSome = true ∧ codePlace 0 0xFFFFFFFC = none ∧ (2 : Word).toNat % 4 ≠ 0 ∧ (4 : Word).toNat % 8 ≠ 0
      ∧ soloBit 0x42080005 = true ∧ causeAt false 0x42080005 = none ∧ decodeWord 0x42080005 = .ok (.addi 1 0 5)
      ∧ causeAt false 0x40000000 = some 0x004 ∧ soloBit 0x02080005 = false ∧ classBit 0x02080005 = false ∧ causeAt false 0x02080005 = none
      ∧ decodeWord 0x02080005 = .ok (.addi 1 0 5) ∧ classBit 0xA8800000 = true ∧ soloBit 0xA8800000 = false ∧ causeAt false 0xA8800000 = none
      ∧ decodeWord 0xA8800000 = .ok (.movwi 0 0 0) ∧ (State.reset.faultyIn [(0, 4)]) = none := by decide +kernel

theorem witness_MemoryStaysCanonical : Memory.wf State.reset.mem = true := by decide

/-- CSRS and CSRC that would change BARM of a slot that has arrived. -/
theorem witness_CsrWords_barm :
    let b := (slotWith fun x => { x with arrivals := [5], live := { x.live with barm := 0x80000001 } }).modLive fun r => r.setS 1 3
    let old := b.csrRead 0x030
    b.free (useS [2]) ∧ b.free (useS [2, 1]) ∧ b.me.arrived ≠ []
      ∧ (old ^^^ (old ||| (b.x 1 &&& 0xFBFFFFFF))) &&& 0xF001FFFF ≠ 0
      ∧ (old ^^^ (old &&& ~~~(b.x 1 &&& 0xFBFFFFFF))) &&& 0xF001FFFF ≠ 0 := by decide

/-- A barrier at which the region has arrived without a commit, in both kinds of region. -/
theorem witness_HintsAndBarriers_uncommitted :
    let s (a : Bool) := slotWith fun x => { x with region := { x.region with atomic := a, effects := [.arrive 5 1] } }
    (s true).free {} ∧ (s false).free {} ∧ (s true).me.region.atomic = true ∧ (s false).me.region.atomic = false
      ∧ (s false).calm 0 ∧ (s false).regionHeld [0] = false
      ∧ ((s false).modMe fun x => { x with region := { x.region with effects := [] } }).lone := by
  unfold State.calm State.lone; decide +kernel

/-- A slot whose walk has failed, of an entry that faults and of one that is malformed; with and without the upcall. -/
theorem witness_TrapEntry_upcall :
    let s (up : Word) (bad : Bool) := slotWith fun x => { x with walk := some ⟨0x123456789A, 1, some bad⟩, plbcfg := up }
    (s 2 false).free {} ∧ (s 2 false).me.abort = false ∧ (s 2 false).me.walk = some ⟨0x123456789A, 1, some false⟩
      ∧ (∀ v ∈ [s 2 false, s 0 false, s 2 true], v.lookup 0 0 0x123456789A 1 = .wait) ∧ (s 2 true).me.walk = some ⟨0x123456789A, 1, some true⟩
      ∧ (s 2 false).me.parked = none ∧ (s 2 false).me.plbcfg.getLsbD 1 = true ∧ (s 0 false).me.plbcfg.getLsbD 1 = false := by
  decide +kernel

/-- The checks of R258 that fail: a pod address that is too high, at its first byte and at its last, a descriptor, an alignment and a
local byte; the edges of what lies in local memory. -/
theorem witness_PullLaunches_causes :
    let s := regsWith [(1, 0x01000000), (2, 0x200), (8, 0x10000200), (9, 0x00100040), (10, 64), (11, 64)]
    let p := s.pullCause
    p (some 0x01000000) [0] 4 false 0 [] [] = some (0x1C0, 0x01000000) ∧ notCanonical 0x01000000 = true ∧ notCanonical 0x00FFFFFF = false
      ∧ p (some 0) [0, 2 ^ 56] 4 false 0 [] [] = some (0x1C0, 0x01000000) ∧ p none [2 ^ 56 - 4] 8 false 0 [] [] = some (0x1C0, 0x01000000)
      ∧ p none [2 ^ 56 - 4] 4 true 9 [] [] = some (0x1C2, 9) ∧ p none [0] 4 false 9 [(4, 4), (6, 4)] [] = some (0x1C4, 6)
      ∧ p none [0] 4 false 9 [] [(0x3FFFC, 4), (0x3FFFC, 8)] = some (0x1C3, 0x40000) ∧ p none [0] 4 false 9 [] [(0x3FFFC, 4)] = none
      ∧ outsideLocal 288 (0xFFFFFFFC, 4) = none ∧ (outsideLocal 0 (0xFFFFFFFC, 4)).isSome = true
      ∧ s.free { s := [31, 1, 2] ++ regsFrom 8 4 } ∧ s.free { s := [31, 1] ++ regsFrom 8 4 } ∧ s.free { s := 31 :: regsFrom 8 4 }
      ∧ badShape 4 (2 ^ 18) = false ∧ badShape 0 1 = true ∧ badShape 64 0 = true := by decide +kernel

/-- A parked region with first bundle 0x40. -/
def parkedRegion : Region := { (State.reset.slot 0).region with first := 0x40, atomic := true, rsig := 1 }

/-- A slot in its handler with a parked region. -/
def parkedState (epc : Word) : State :=
  slotWith fun x => { x with live := { x.live with status := 0x200, epc := epc }, parked := some parkedRegion }

/-- A slot in its handler with a parked region, at whose first bundle EPC stands, or not; a commit that writes what it has read. -/
theorem witness_TrapWordAndReturn_parked :
    let s := parkedState
    let r := parkedRegion
    (s 0x40).commits ∧ (s 0x40).apart r ∧ (s 0x40).free {} ∧ (s 0x40).me.live.ta = true
      ∧ (s 0x80).commits ∧ (s 0x80).apart r ∧ (s 0x80).free {} ∧ (s 0x80).me.live.ta = true
      ∧ r.first = (s 0x40).me.live.epc ∧ r.first ≠ (s 0x80).me.live.epc ∧ 0 ∈ (s 0x40).slotsOf 0 ∧ r.rsig &&& 1 ≠ 0 ∧ r.rsig &&& 2 = 0 := by
  unfold State.commits State.calm State.apart; decide +kernel

/-- SEQADV at a misaligned address, outside the cluster's memory, in TCM and on a sealed page. -/
theorem witness_WatchesAndSequences_causes :
    let s := regsWith [(1, 0x10000102), (2, 0x100), (3, 0x20000000), (4, 0x10000100)]
    let q := s.modCluster 0 fun c => { c with seals := [⟨flatRam 0 0, 0x1000, false⟩] }
    s.room ∧ s.free (useS [1, 6]) ∧ s.free (useS [2, 6]) ∧ s.free (useS [3, 6]) ∧ q.free (useS [4, 6]) ∧ (s.x 1).toNat % 4 ≠ 0
      ∧ (s.x 2).toNat % 4 = 0 ∧ (s.x 2).toNat < 0x40000 ∧ (outsideLocal 0 ((s.x 3).toNat, 4)).isSome = true ∧ (s.x 3).toNat % 4 = 0
      ∧ (q.sealOf (q.flatLocal 0x10000100)).isSome = true ∧ outsideLocal 0 (0x10000100, 4) = none := by decide +kernel

/-- A watch of an address that is too high. -/
theorem witness_WatchesAndSequences_stops :
    let s := regsWith [(2, 0x100), (5, 0x01000000)]
    s.free (useS [31, 5, 2, 3]) ∧ s.free { s := [31, 5, 2] ++ regsFrom 8 2 }
      ∧ s.pullCause (some (s.x 5)) [podAddr (s.x 5) (s.x 2)] 4 false 0 [(s.x 2, 4)] [] = some (0x1C0, 0x01000000) := by decide +kernel

/-- Remote loads of an address whose high register is not canonical, of one beyond 2^56 and of a misaligned one; acquires of a page of
another domain and of a foreign owner. -/
theorem witness_RemoteLoads_causes :
    let s := regsWith [(1, 0x01000000), (2, 0x202), (3, 0x00FFFFFF), (4, 0xFFFFFFFC)]
    let r (p : Page) := pagedWith p [(2, 0x200)]
    let other : Page := { pageOf 0 1 false with cdom := 0 }
    s.free (useS [31, 1, 2]) ∧ s.free (useS [31, 0, 2]) ∧ s.free (useS [31, 3, 4]) ∧ notCanonical (s.x 1) = true
      ∧ podAddr (s.x 0) (s.x 2) % 4 ≠ 0 ∧ podAddr (s.x 0) (s.x 2) < 2 ^ 56 ∧ notCanonical (s.x 3) = false
      ∧ 2 ^ 56 ≤ podAddr (s.x 3) (s.x 4) + 4 * 511
      ∧ (r (pageOf 1 1 false)).foreign 1 = true ∧ (r (pageOf 1 1 false)).within 0 (pageOf 1 1 false) = true
      ∧ (r (pageOf 1 1 false)).translate 0 0x200 3 = .ok (pageOf 1 1 false) ∧ (r (pageOf 1 1 false)).cutOff (pageOf 1 1 false) = false
      ∧ (r other).translate 0 0x200 3 = .ok other ∧ (r other).within 0 other = false ∧ (r other).cutOff other = false := by
  decide +kernel

/-- A partition, a tile, a queue and a region within the bounds of their words; queries that raise their causes. -/
theorem witness_QueryWords_fields :
    let p := somePart [1] (liveTile 1)
    let s := pooledWith { p with domain := 7 } [(1, 0x05000000), (2, 2), (3, 16), (4, 0x01000000), (5, 768), (6, 64)]
    let q := s.setQueue 64 { Queue.blank with domain := 7 }
    p.free.length ≤ 4096 ∧ p.waiters.length ≤ 32 ∧ p.szlog < 32 ∧ (p.tile 0).gen < 256 ∧ (p.tile 0).count < 65536
      ∧ (s.die 0).entries 0 ≤ 4096 ∧ (s.die 0).total ≤ 4096 ∧ ((s.die 0).queued.all fun l => decide (l.prio < 16)) = true
      ∧ s.me.region.effects.length ≤ 32 ∧ (linesOf s.me.region.stores).length ≤ 256 ∧ s.me.region.bundles < 4096
      ∧ s.free (useS [31, 3]) ∧ 15 < (s.x 3).toNat ∧ s.free (useS [31, 4]) ∧ handleWin (s.x 4) ≤ 4
      ∧ s.tileAt 0 (handleOff (s.x 4)) = some (2, { p with domain := 7 }, 0) ∧ s.me.live.rt = false ∧ s.me.domain ≠ 7
      ∧ s.part 0 (s.x 2).toNat = some { p with domain := 7 } ∧ 4 < handleWin 0x05A00000 ∧ s.tileAt 0 (handleOff 0x05100000) = none
      ∧ badTarget (s.x 5) = true ∧ badTarget (s.x 6) = false ∧ (q.queue 64).domain ≠ q.me.domain ∧ q.free (useS [31, 6]) := by
  decide +kernel

/-- Rings that may not be opened: a size that is out of range, a header that is misaligned, one that meets another ring, and 16 rings
that are open. -/
theorem witness_RingWords_causes :
    let s := regsWith [(1, 0x10000100), (2, 1), (3, 2), (4, 0x10000080)]
    let ring : Ring := { isOpen := true, gen := 0, slot := 0, domain := 0, header := 0x10000100, logn := 2, foreign := false, no := 0 }
    let m := s.modCore 0 fun c => { c with rings := [(0, ring)] }
    let f := s.modCore 0 fun c => { c with rings := (List.range 16).map fun k => (k, { ring with header := 0x10100000 }) }
    let k := m.modSlot 0 fun x => { x with region := { x.region with kept := { x.region.kept with rings := [(3, 0x10000100, 2)] } } }
    let meets (s : State) (own : Nat × Nat) : Bool := ((s.ringsOf 0).erase own).any fun r => overlaps 0x10000100 (ringBytes 2) r.1 r.2
    s.room ∧ s.free (useS [31, 1, 2]) ∧ bits (s.x 2) 0 4 < 2 ∧ s.free (useS [31, 4, 3]) ∧ (s.x 4).toNat % 256 ≠ 0
      ∧ m.free (useS [31, 1, 3]) ∧ m.me.region.keptRing 0x10000100 2 = none ∧ meets m (0, 0) = true ∧ f.free (useS [31, 1, 3])
      ∧ f.me.region.keptRing 0x10000100 2 = none ∧ meets f (0, 0) = false ∧ f.freeRing = none
      ∧ k.free (useS [31, 1, 3]) ∧ k.me.region.keptRing 0x10000100 2 = some (3, 0x10000100, 2) ∧ meets k (0x10000100, ringBytes 2) = true := by
  decide +kernel

/-- Operands that the words of the task engine refuse. -/
theorem witness_TaskAndFabricLaunches_causes :
    let s := regsWith [(1, 768), (2, 0x10000102), (3, 4), (4, 2), (5, 64)]
    s.room ∧ badTarget (s.x 1) = true ∧ badTarget (s.x 5) = false ∧ (s.x 2).toNat % 4 ≠ 0
      ∧ (∀ u ∈ [useS [31, 2, 1], useS [31, 1, 2], useS [31, 2, 5], { s := [31, 2, 1] ++ regsFrom 8 2 }, { s := [31, 2, 5] ++ regsFrom 8 2 },
          useS [31, 3, 0], useS [31, 0, 4]], s.free u) ∧ 3 < (s.x 3).toNat ∧ 1 < (s.x 4).toNat := by decide +kernel

/-- Operands that the words of the checkpoint partners refuse. -/
theorem witness_TaskAndFabricLaunches_partners :
    let r := rootWith [(1, 1024), (2, 2), (3, 1)]
    r.room ∧ r.me.live.rt = true ∧ bits (r.x 1) 10 22 ≠ 0 ∧ bits (r.x 3) 10 22 = 0 ∧ bits (r.x 2) 1 31 ≠ 0 ∧ r.free (useS [31, 1, 2])
      ∧ r.free (useS [31, 3, 2]) ∧ r.free (useS [31, 1]) := by decide +kernel

/-- Operands that an invalidation and a binding of a host region refuse. -/
theorem witness_TranslationLaunches_causes :
    let r := rootWith [(1, 0x01000000), (2, 0x200), (3, 0x200), (4, 0x400), (8, 64), (20, 5), (21, 288), (22, 0x100000), (24, 5)]
    r.room ∧ r.me.live.rt = true ∧ notCanonical (r.x 1) = true ∧ (r.x 2).toNat % 1024 ≠ 0 ∧ (r.x 4).toNat % 1024 = 0 ∧ (r.x 3).toNat % 1024 ≠ 0
      ∧ r.x 3 ≠ 0 ∧ (∀ u ∈ [useS [31, 1, 2, 3], useS [31, 0, 2, 3], useS [31, 0, 4, 3]], r.free u)
      ∧ (∀ c ∈ ([8, 20, 24] : List (BitVec 5)), r.free { s := [31, 0, 0] ++ regsFrom c 3 })
      ∧ bits (r.quad 8 0) 6 25 ≠ 0 ∧ bits (r.quad 20 0) 6 25 = 0 ∧ (r.quad 20 1).toNat < Config.clusters ∧ isMem (r.quad 20 1).toNat = true
      ∧ (r.quad 20 2).toNat % 2 ^ 21 ≠ 0 ∧ bits (r.quad 24 0) 6 25 = 0 ∧ isMem (r.quad 24 1).toNat = false := by decide +kernel

/-- Operands that a migration refuses. -/
theorem witness_TranslationLaunches_migrations :
    let r := rootWith [(5, 0x00FFFFFF), (6, 0xFFFFFE00), (12, 0x10000200), (13, 0x400), (14, 0x10000400), (15, 0x40000400), (16, 0x10000200),
      (17, 0x40000400)]
    r.me.live.rt = true ∧ migrLen (r.quad 12 1) = 1024 ∧ migrOp (r.quad 12 1) ≠ 1 ∧ (r.quad 12 0).toNat % 1024 ≠ 0 ∧ migrOp (r.quad 14 1) = 1
      ∧ bits (r.quad 14 1) 22 8 = 0 ∧ (r.quad 14 0).toNat % 1024 = 0 ∧ ownRange 0 (r.quad 14 0).toNat 1024 = true
      ∧ migrOp (r.quad 16 1) = 1 ∧ (r.quad 16 0).toNat % 1024 ≠ 0 ∧ r.free { s := 31 :: regsFrom 12 2 }
      ∧ (∀ c ∈ ([14, 16] : List (BitVec 5)), r.free { s := [31, 5, 6] ++ regsFrom c 2 })
      ∧ 2 ^ 56 < podAddr (r.x 5) (r.x 6) + migrLen (r.quad 14 1) ∧ notCanonical (r.x 5) = false := by decide +kernel

/-- Requests for commits: an engine's work that waits, a WCANCEL, and one whose turn it is; requests that a solo run holds. -/
theorem witness_CommitUnitSteps_works :
    let d (w : Work) : Done := { agentAsk 3 w [] with no := 1 }
    let w : Watch :=
      { id := 3, slot := 0, st := 1, slice := 0, addr := 0x200, page := pageOf 0 1 false, thr := 5, expiry := none, once := false,
        placed := true, answer := none, heldAnswer := none, sent := 0, acked := 0, cancel := some 0 }
    let s (w : Work) (f : State → State) := f (State.reset.modCluster 0 fun c => { c with ready := [(0, d w)] })
    let e := s (.event) fun s => s.modCluster 0 fun c => { c with events := [(0x10, 2, [])] }
    let c := (s (.cancel 3) fun s => s.modPull 0 fun u => { u with watches := [w] }).modDie 0 fun k => { k with ck := 1 }
    let h := (slotWith fun x => { x with solo := some 0 }).modCluster 0 fun c => { c with ready := [(0, d .token)] }
    ((e.requests 0).find? fun r => !e.requestHeld 0 r) = some (0, .done (d .event)) ∧ (d .event).work = .event ∧ e.stands 0 .event = true
      ∧ ((c.requests 0).find? fun r => !c.requestHeld 0 r) = some (0, .done (d (.cancel 3))) ∧ c.watchOf 0 3 = some w
      ∧ (State.reset.requests 0).find? (fun r => !State.reset.requestHeld 0 r) = none
      ∧ State.reset.grants 0 (d .event) = true ∧ h.grants 0 (d .event) = false ∧ h.linesHeld 0 [] = true := by decide +kernel

/-- An exhausted budget at a boundary, alone and beside a pending cause. -/
theorem witness_CommitUnitSteps_budget :
    let e := slotWith fun x => { x with slice := some { someSlice with budget := 5, left := 0 }, async := [(0x2C1, 0)] }
    e.exhausted 0 = true ∧ (e.slot 0).live.gsize = 0 ∧ e.dueCause 0 = some (0x2C0, 0) := by decide +kernel

/-- Metadata whose fields are pairs. -/
theorem witness_MatrixCommandSteps_pairs : badMeta (List.replicate 1024 0x33) = none := by
  unfold badMeta
  rw [List.find?_eq_none]
  intro i hi
  have h : byteAt (List.replicate 1024 0x33) i = 0x33 := by
    simp only [List.mem_range] at hi
    rw [byteAt, List.getD_eq_getElem?_getD, List.getElem?_replicate, if_pos hi]; rfl
  rw [h]; decide

/-- Metadata of which the second byte is no pair; a product of which the weights' format does not serve. -/
theorem witness_MatrixCommandSteps_metadata :
    let bad := { someCmd (.mma true 0) 0x8000 with fetch := .done [[]] [] [0x33, 0x31] }
    let e : Staging := { addr := 0x10000000, fmt := 1, plane := 0, clean := true, data := none }
    let s (own : Bool) (bind : FMap Nat) := matWith [bad] fun m =>
      { m with owner := if own then [(0, (0, 0))] else [], bind := bind, staging := [(2, e)] }
    bad.fetchFault = some (0x82, 0x154, 0x10000001)
      ∧ ((s false []).mat 0).owns (descAcc bad.b) bad.slot = false ∧ ((s true []).mat 0).owns (descAcc bad.b) bad.slot = true
      ∧ mfind ((s true []).mat 0).bind bad.slot = none ∧ mfind ((s true [(0, 2)]).mat 0).bind bad.slot = some 2
      ∧ mfind ((s true [(0, 2)]).mat 0).staging 2 = some e ∧ (e.fmt == 0) = false ∧ (e.fmt == 1) = true := by decide +kernel

/-- A weight load whose tile has a line in error, with a request bound to its entry; a drain whose rows are faulty; started commands of two
cores at the port. -/
theorem witness_MatrixCommandSteps_errors :
    let r := { someCmd (.mwld 0) 0 with stage := .reading 0 }
    let b := { someCmd (.mma false 0) 0x8000 with seq := 1, stage := .onion, entry := some 0 }
    let s := { matWith [r, b] (fun m => { m with weights := ⟨some 0, 0, 1⟩ }) with faulty := [lineOf (flatPad 0 0x10000000)] }
    let z (seq slot : Nat) := { someCmd (.mzero true) 0x8000 with seq := seq, slot := slot, stage := .started }
    (s.faultyPad 0 (r.op.reads r.a r.b r.c)) = some 0x10000000 ∧ b.entry = some r.seq ∧ b.isEnded = false
      ∧ ({ cmd := none, core := 0, granted := 1 } : MatPort).choose [z 0 0, z 1 1, z 2 4] = some (z 0 0, true)
      ∧ ({ cmd := none, core := 0, granted := 2 } : MatPort).choose [z 0 0, z 1 1, z 2 4] = some (z 2 4, false) := by decide +kernel

/-- A full staging, without and with a commit that is held. -/
theorem witness_MatrixCommandSteps_room :
    let d (seq : Nat) := { someCmd (.mma false 0) 0x00200000 with seq := seq, fetch := .done [] [] [] }
    let c := { someCmd (.mma false 0) 0x00200000 with seq := 9, fetch := .pending }
    let s := matWith [d 0, d 1, d 2, d 3, d 4, d 5, d 6, d 7, c] id
    let h := (s.modCluster 0 fun k => { k with ready := [(0, agentAsk 0 .token [])] }).modCluster 0 fun k =>
      { k with fenced := true }
    s.stages 0 c = false ∧ h.stages 0 c = true := by decide +kernel

/-- Groups of products: with NaN, invalid and infinite products of one sign; a group that a request joins, by its domain and by XSTK. -/
theorem witness_OnionSteps_groups :
    let o := { someCmd (.mma false 0) 0x8000 with stage := .onion, entry := some 2 }
    let c := { o with seq := 1, domain := 7 }
    let g : Group := { members := [{ seq := 0, entered := 0, hold := 0 }], due := false }
    let e : Staging := { addr := 0x10000000, fmt := 0, plane := 0, clean := true, data := none }
    let s := matWith [o, c] fun m => { m with groups := [g], staging := [(2, e)] }
    (s.mat 0).cmdsOf g = [o] ∧ (c.entry.bind fun k => mfind (s.mat 0).staging k) = some e ∧ s.joins 0 c g = false
      ∧ s.joins 0 { c with domain := 0 } g = true ∧ ({ s with mode := 4 } : State).joins 0 c g = true
      ∧ (s.mat 0).cmdsOf { g with members := [] } = [] ∧ (FVal.inf true).isInf = true ∧ (FVal.fin false 0 0).isZero = true := by
  decide +kernel

/-- A copy into an alias of host memory whose page is not in the cache of host translations. -/
theorem witness_PullSteps_absent :
    let c := { someOp .cpy [] (some (List.replicate 64 7)) with dst := [flatHbm 288 0] }
    let alia : Alias := { proxy := 288, offset := 0, len := 64, take := 0, bytes := [], through := [] }
    let s := (pullWith [c]).setHostRegion 5 { RegionSlot.reset with alia := some alia }
    let u := s.settle 0
    u.opOf 0 3 = some c ∧ c.bytes.isSome = true ∧ u.mayWrite c.domain c.copied = true ∧ u.absentFor c.copied = some (0, 0) := by
  decide +kernel

/-- Watches whose time has not come, has come, and has passed; one withdrawn in an earlier ck; the states that a peer may give. -/
theorem witness_WatchSteps_times :
    let w (chip : Nat) (expiry cancel : Option Nat) : Watch :=
      { id := 3, slot := 0, st := 1, slice := 0, addr := 0x200, page := pageOf chip 1 false, thr := 5, expiry := expiry, once := false,
        placed := true, answer := if chip = 0 then some (0, 1) else none, heldAnswer := none, sent := 0, acked := 0, cancel := cancel }
    let s (w : Watch) := ((slotWith fun x => { x with slice := some someSlice }).modDie 0 fun d => { d with ck := 5 }).modPull 0 fun u =>
      { u with watches := [w] }
    (∀ v ∈ [w 0 (some 4) none, w 0 (some 5) none, w 0 none none, w 0 none (some 5), w 0 none (some 4), w 1 none none, w 1 (some 9) none],
        (s v).watchOf 0 3 = some v ∧ v.heldAnswer = none ∧ ((s v).slot 0).sliceId = 0 ∧ (s v).ckOf 0 = 5)
      ∧ (((s (w 1 none none)).heard 1).dropRequests 0 3).ckOf 0 = 5
      ∧ 0x42 ∉ [0x00, 0x01, 0x40, 0x43, 0x80] ++ (if (w 1 none none).expiry.isSome then [0x42] else [])
      ∧ 0x42 ∈ [0x00, 0x01, 0x40, 0x43, 0x80] ++ (if (w 1 (some 9) none).expiry.isSome then [0x42] else []) := by decide +kernel

/-- Ring writes of a peer that are refused for the high bits of their address and for their lengths. -/
theorem witness_MessageSteps_refused :
    let h (high : Nat) : PeerHeader := { chip := 9, rid := 0, who := 0, sent := 0, key := 1, off := 0x100, high := high, port := 15 }
    let s := ringState.modPort 15 fun p => { p with up := true }
    (∀ q ∈ [(h 1, 4), (h 0, 0), (h 0, 6), (h 0, 964)],
        let v := s.arriving q.1 q.2
        let i : PortItem := .ringWrite q.1 (List.replicate q.2 7)
        let u := (v.modCluster 1 fun c => { c with inbound := [i] }).settle 1
        v.hears q.1 = true ∧ (v.cluster 1).inbound = [] ∧ (u.cluster 1).inbound = [i] ∧ (u.cluster 1).fenced = false)
      ∧ (h 1).high ≠ 0 ∧ (h 0).high = 0 ∧ 6 % 4 ≠ 0 ∧ 960 < 964 := by decide +kernel

/-- Two chips' requests at a port: the turn takes the higher, and wraps to the lower; a send of another chip; one in order that is
answered and one that waits for a solo run of its cluster. -/
theorem witness_MessageSteps_turns :
    let is : List PortItem := [.order 2 0 0, .order 9 0 0]
    let far : SendRec := { someSend (some []) none with msg := { (someSend none none).msg with page := pageOf 1 1 false } }
    let f := State.reset.modPull 0 fun u => { u with sends := [far] }
    let i : Inbound := { rid := 0, gc := 1, num := 1, key := 1, off := 0x100, gen := 0, vector := true, payload := List.replicate 4 7, arrived := 0 }
    let o : SendOrder := { chip := 9, slot := 0, header := 0, next := 1, waiting := [i] }
    let x := { ringState with orders := [o] }
    let z := x.modSlot 32 fun y => { y with solo := some 0 }
    (is.find? fun j => j.chip 0 == 9) = some (.order 9 0 0) ∧ (is.find? fun j => j.chip 0 == 2) = some (.order 2 0 0)
      ∧ (∀ j ∈ is, 3 ≤ j.chip 0 → 9 ≤ j.chip 0) ∧ (∀ j ∈ is, j.chip 0 < 10 ∧ 2 ≤ j.chip 0)
      ∧ f.stageSend 0 3 = f ∧ f.sendOf 0 3 = some far ∧ far.msg.page.chip ≠ f.chip ∧ far.answer = none ∧ far.payload.isSome = true
      ∧ (f.cluster 0).fenced = false
      ∧ (∀ v ∈ [x, z], ((v.orderOf 9 0 0).waiting.find? fun j => j.num == (v.orderOf 9 0 0).next) = some i)
      ∧ (x.serveSend (.order 9 0 0) (i.asks 9 0)).1.isSome = true ∧ (z.serveSend (.order 9 0 0) (i.asks 9 0)).1 = none := by
  decide +kernel

/-- A submission to a queue that takes it, and two entries that one tick releases. -/
theorem witness_TaskQueueSteps_entered :
    let x := someSub none none
    let s := (State.reset.setQueue 0 { Queue.blank with en := true, cap := 1 }).modPull 0 fun u => { u with subs := [x] }
    let u := s.settle (taskCluster 0)
    let l (id : Nat) : Slice := { placedSlice 0 [] with id := id }
    let t := ({ State.reset with now := 10 * 559300 }).modDie 0 fun d => { d with timed := [(2, l 1), (1, l 2)] }
    let v := t.settle (taskCluster 0)
    let q := s.setQueue 0 { Queue.blank with flog := 0x10000000, flogn := 2 }
    s.subOf 0 3 = some x ∧ x.answer = none ∧ (u.cluster (taskCluster 0)).fenced = false ∧ u.mayTurn 0 2 = true
      ∧ u.refusesEntry 0 ((u.queue 0).expand x.words) x.domain x.rt = none
      ∧ u.grants (taskCluster 0) (agentAsk 4 (.submission 0 3) []) = true
      ∧ v.mayTurn 0 1 = true ∧ ((v.die 0).timed.filter fun t => t.1 ≤ v.podUs) = [(2, l 1), (1, l 2)]
      ∧ (q.queue 0).flog ≠ 0 ∧ (q.cluster (taskCluster 0)).fenced = false
      ∧ q.grants (taskCluster 0) (agentAsk 4 (.late 0) (q.recordLines 0 1)) = true := by decide +kernel

/-- A slot that waits to leave while a pre-emption is pending, and a stalled slot whose slice is to be aborted. -/
theorem witness_SliceEndSteps_waits :
    let w := slotWith fun x => { x with slice := some someSlice, wait := some (.leave (.yield 8 5)), async := [(0x2C1, 0)] }
    let a := slotWith fun x => { x with slice := some someSlice, abort := true, wait := some (.leave .retire) }
    (w.slot 0).slice = some someSlice ∧ (w.slot 0).wait = some (.leave (.yield 8 5)) ∧ w.slotsWith 0 = [0] ∧ w.interrupts 0 = true
      ∧ (a.slot 0).slice = some someSlice ∧ (a.slot 0).abort = true ∧ (a.slot 0).dispatching = false ∧ (a.slot 0).live.gsize = 0
      ∧ (a.slot 0).failing = false ∧ a.stopped (clusterOf 0) = false ∧ (a.slot 0).region.res.tiles = [] ∧ (a.slot 0).region.kept.tiles = []
      ∧ ((a.slot 0).wait.isSome || (a.slot 0).soloWait.isSome || (a.slot 0).barred) = true := by decide +kernel

/-- Requests of a peer with address bits [56:54] set, and reads of a wrong size or alignment. -/
theorem witness_PeerRequestSteps_refused :
    let h : PeerHeader := { chip := 9, rid := 0, who := 0, sent := 0, key := 1, off := 0x100, high := 7, port := 15 }
    let s := ringState.modPort 15 fun p => { p with up := true }
    let z (off : Nat) : PeerHeader := { h with high := 0, off := off }
    (∀ n ∈ [0, 64, 96, 256], (s.arriving h n).hears h = true ∧ ((s.arriving h n).cluster 1).fenced = false) ∧ h.high ≠ 0
      ∧ (∀ q ∈ [(0x100, 96), (0x120, 64)], let r := s.arriving (z q.1) 0
        r.hears (z q.1) = true ∧ r.keyFault 1 1 9 .read q.1 q.2 = none ∧ (r.keyOf 1 1).isSome = true ∧ (r.cluster 1).fenced = false
          ∧ (q.2 ∉ [32, 64, 128, 256] ∨ q.1 % q.2 ≠ 0)) := by decide +kernel

/-- A host's submission that is refused, one to a task cluster that is fenced, and one that its queue takes. -/
theorem witness_HostSteps_submissions :
    let b := State.reset.modMan fun m => { m with stage := 4 }
    let s := { b with host := { b.host with sqtail := 1, sqcfg := 2 } }
    let f := s.modCluster (taskCluster 0) fun c => { c with fenced := true }
    let q := s.setQueue 0 { Queue.blank with en := true, cap := 1 }
    let u (s : State) := s.settle (taskCluster 0)
    (∀ v ∈ [s, f, q], v.mayTake = true) ∧ badTarget 0 = false ∧ ((u f).cluster (taskCluster 0)).fenced = true
      ∧ (u s).mayTurn 0 2 = true ∧ ((u s).refusesEntry 0 (((u s).queue 0).expand []) 0 false).isSome = true
      ∧ ((u q).cluster (taskCluster 0)).fenced = false ∧ (u q).mayTurn 0 2 = true
      ∧ (u q).refusesEntry 0 (((u q).queue 0).expand []) (u q).host.domain (u q).host.rt = none
      ∧ (u q).grants (taskCluster 0) (agentAsk 4 (.hostEntry [0, 0]) []) = true := by decide +kernel

/-- A write through whose commit a watch of the alias has waited for. -/
theorem witness_HostSteps_through :
    let a : Alias := { proxy := 288, offset := 0, len := 64, take := 0, bytes := [], through := [(1, [lineOf (flatHbm 288 0)])] }
    let e : WatchEntry := { chip := 0, gc := 0, id := 3, addr := 0x200, thr := 5, key := 1, hit := some (0, 1) }
    let s := (State.reset.setHostRegion 5 { RegionSlot.reset with alia := some a }).modCluster 288 fun c => { c with watchers := [e] }
    let t := s.setHostRegion 5 { RegionSlot.reset with alia := some { a with through := [] } }
    (s.region 5).alia = some a ∧ s.outward 288 1 = true ∧ t.outward 288 1 = false ∧ (t.cluster 288).watchers = [e]
      ∧ (e.hit.filter fun h => !t.outward 288 h.2) = some (0, 1) := by decide +kernel

/-- A log that is placed in a fenced cluster, a request that is being performed, and one with its result. -/
theorem witness_ManagementRequests_logs :
    let s := mbWith 7 4 [11, 0x10000000, 2]
    let f := s.modCluster (taskCluster 11) fun c => { c with fenced := true }
    let u := f.settle (taskCluster 11)
    let r := s.modMan fun m => { m with mbres := some 0xFF }
    s.mbRuns 0x04 = true ∧ s.mbReserved [0xF, 0xFFFFFFFF, 0xF] = false ∧ logPlace 0x10000000 2 = true
      ∧ ((s.settle (taskCluster 11)).cluster (taskCluster 11)).fenced = false
      ∧ f.mbRuns 0x04 = true ∧ f.mbReserved [0xF, 0xFFFFFFFF, 0xF] = false ∧ (u.cluster (taskCluster 11)).fenced = true
      ∧ s.man.busy = true ∧ s.man.mbres = none ∧ r.man.mbres = some 0xFF ∧ (s.cluster (taskCluster 11)).fenced = false
      ∧ s.writesSealed (placed (flatRam (taskCluster 11) (0x10000000 - 0x10000000)) (List.replicate 64 0)) = false := by decide +kernel

/-- Requests that wait for a change of the mode, and the last die of a pass with one held. -/
theorem witness_TaprootSteps_held :
    let m (pending : Bool) (at_ : Option Nat) := State.reset.modMan fun m =>
      { m with stage := 4, pending := pending, modeAt := at_, held := pending, nextDie := 11 }
    let late := { m false (some 0) with now := 1 }
    (m true none).man.pending = true ∧ 4 ≤ late.man.stage ∧ late.man.modeAt = some 0 ∧ 0 ≠ late.now ∧ ¬ 0 + usUnits 10 ≤ late.now
      ∧ (m true none).man.held = true ∧ (m true none).man.modeAt = none ∧ 11 = (m true none).man.nextDie ∧ (m true none).man.trip = false
      ∧ ((List.range Config.dies).all fun e => ((m true none).die e).since ≤ (m true none).now) = true := by decide +kernel

/-- Mean power that has been low for 100 ms; a lowered die with a limit to rise to, and one whose plan leaves it none. -/
theorem witness_TaprootSteps_raise :
    let s := { State.reset.modMan (fun m => { m with samples := List.replicate 99 5699999, coolSince := some 0 }) with now := usUnits 100000 }
    let u := s.modMan fun m => { m with samples := (5699999 :: m.samples).take 100 }
    let d (plan : List (Nat × Bool)) := State.reset.modDie 3 fun d => { d with lowered := some 0, plan := plan }
    let all := d [(500, true), (500, true), (500, true)]
    let bar := d [(500, true), (500, true), (600, false)]
    let two := d [(500, true), (600, false), (600, false)]
    u.man.meanBelow 5700000 = true ∧ u.man.meanAbove 6000000 = false ∧ s.man.coolSince = some 0 ∧ 0 + usUnits 100000 ≤ s.now
      ∧ (∀ v ∈ [all, bar, two], (v.die 3).lowered = some 0) ∧ ((List.range 3).all fun e => (all.die e).lowered.isNone) = true
      ∧ ((List.range 4).any fun clk => ((all.die 3).raised clk).isSome) = true
      ∧ ((List.range 4).any fun clk => ((bar.die 3).raised clk).isNone) = true := by decide +kernel

/-- Accesses by Husk: a read within the violation log of a memory cluster, a write to it, and reads beyond it and elsewhere. -/
theorem witness_TaprootSteps_husk :
    let l : ViolLog := { addr := 0x10000000, logn := 2, written := 0, waiting := [], dropped := 0 }
    let s := State.reset.modDie 0 fun d => { d with viol := some l }
    let a (gc addr : Nat) (write : Bool) : HuskAccess := { gc := gc, addr := addr, len := 64, write := write }
    let r := a 288 0x10000000 false
    (s.cluster 288).fenced = false ∧ r.write = false ∧ r.gc = taskCluster (dieOf r.gc) ∧ s.inLogs (dieOf r.gc) r.addr r.len = true
      ∧ s.faultyIn [(flatRam 288 0, 64)] = none ∧ (a 288 0x10000000 true).write = true ∧ (a 5 0x10000000 false).gc ≠ taskCluster 0
      ∧ s.inLogs 0 (a 288 0x10000040 false).addr 64 = true ∧ s.inLogs 0 (a 288 0x10000041 false).addr 64 = false := by decide +kernel

/-- A word of each class for each cause of a selecting field, a reserved field and the operand fields. -/
theorem witness_UnassignedWords_fields :
    (fld 0x0100001F 24 6 = 0x01 ∧ fld 0x0100001F 0 9 = 31) ∧ (fld 0x06000080 24 6 = 0x06 ∧ fld 0x06000080 5 2 = 0 ∧ fld 0x06000080 7 7 = 1)
      ∧ (fld 0x0102001D 24 6 = 0x01 ∧ fld 0x0102001D 9 5 = 0 ∧ fld 0x0102001D 0 9 = 29 ∧ fld 0x0102001D 14 5 = 8)
      ∧ (classBit 0x0100001F || classBit 0x06000080 || classBit 0x0102001D) = false := by decide

/-- The same of the words of class B. -/
theorem witness_UnassignedWords_vector :
    (fld 0xAC830000 23 7 = 0x59 ∧ fld 0xAC830000 16 7 = 3) ∧ (fld 0x8D800004 23 7 = 0x1B ∧ fld 0x8D800004 2 7 = 1)
      ∧ (fld 0x80490000 23 7 = 0 ∧ fld 0x80490000 16 7 = 73 ∧ fld 0x805F0000 23 7 = 0 ∧ fld 0x805F0000 16 7 = 95)
      ∧ (fld 0x80600000 23 7 = 0 ∧ fld 0x80600000 16 7 = 96) ∧ (fld 0x8E080000 23 7 = 0x1C ∧ fld 0x8E080000 16 7 = 8)
      ∧ (classBit 0xAC830000 && classBit 0x8D800004 && classBit 0x80490000 && classBit 0x805F0000 && classBit 0x80600000
        && classBit 0x8E080000) = true := by decide

/-- Words whose fields stand at the ends of their ranges, which no cause stops. -/
theorem witness_UnassignedWords_edges : causeAt false 0x0100001E = none ∧ causeAt false 0x0101C01D = none ∧ causeAt false 0x80480000 = none
    ∧ causeAt false 0x8E070000 = none := by decide +kernel

/-- Husk's access, Husk's refusal and nothing on the agenda; a commit that is due, no slot that runs, and pairs of words. -/
theorem witness_StepRunsDecodedWord_turns :
    let a : HuskAccess := { gc := 288, addr := 0x10000000, len := 64, write := false }
    let s (ts : List Turn) := { runningState 0 [] with agenda := ts }
    let e := (s []).modCluster 0 fun c =>
      { c with events := [(0x10, 2, [])], ready := [(0, { agentAsk 3 .event [] with no := 1 })] }
    (s [.husk a]).agenda = .husk a :: [] ∧ (s [.policy]).agenda = .policy :: [] ∧ (s []).dueCommit = none ∧ (s []).nextSlot = some 0
      ∧ e.dueCommit = some 0 ∧ ({ State.reset with agenda := [] } : State).dueCommit = none
      ∧ ({ State.reset with agenda := [] } : State).nextSlot = none := by decide +kernel

/-- A state in which both words of a pair may run. -/
theorem witness_StepRunsDecodedWord_pairs :
    let s := State.reset
    s.free (useB 72 [63, 96]) ∧ s.free (useB 72 []) ∧ s.me.idle (useS [0, 5]) ∧ s.me.idle (useS [31]) ∧ s.me.live.rngctr ≠ 0xFFFFFFFF := by
  decide

end Sys2Proof.Tests
end

/-!
SUPPORT. What the vector result of a B-word leaves in the register file (spec/02_encoding.md R56-R61), and the statement on it.
-/

namespace Sys2Proof.Machine

/-! ## Lanes of a vector -/

@[simp] theorem laneOf_vecOf (f : Nat → Word) {i : Nat} (hi : i < 16) : laneOf (vecOf f) i = f i := by
  simp [laneOf, vecOf, hi]

theorem laneOf_masked (m : BitVec 16) (old new : Vec) {i : Nat} (hi : i < 16) :
    laneOf (masked m old new) i = if lane m i then laneOf new i else laneOf old i :=
  laneOf_vecOf _ hi

/-- The all-true mask, which p0 reads as (R61), includes every lane. -/
theorem lane_preg_zero (r : Regs) {i : Nat} (hi : i < 16) : lane (r.preg 0) i = true := by
  have included : ∀ j : Fin 16, lane 0xFFFF j = true := by decide
  exact included ⟨i, hi⟩

/-! ## A register file after a vector write -/

/-- The four kinds of specifier that a write tells apart: v, w, lx, and those that name no vector register (R56). -/
theorem setOperand_cases (r : Regs) (d : BitVec 7) (v : Vec) :
    (∃ h : d.toNat < 64, r.setOperand d v = { r with v := r.v.set d.toNat v, lx := v })
      ∨ (∃ h : d.toNat - 64 < 8, 64 ≤ d.toNat ∧ r.setOperand d v = { r with w := r.w.set (d.toNat - 64) v, lx := v })
      ∨ (d.toNat = 72 ∧ r.setOperand d v = { r with lx := v })
      ∨ (72 < d.toNat ∧ r.setOperand d v = r) := by
  unfold Regs.setOperand
  by_cases hv : d.toNat < 64
  · exact .inl ⟨hv, by simp [hv]⟩
  by_cases hw : d.toNat < 72
  · exact .inr (.inl ⟨by omega, by omega, by simp [hv, hw]⟩)
  by_cases hx : d.toNat = 72
  · exact .inr (.inr (.inl ⟨hx, by simp [hx]⟩))
  · exact .inr (.inr (.inr ⟨by omega, by simp [hv, hw, hx]⟩))

/-- A vector write changes the main file, the operand file and lx alone. -/
theorem setOperand_frame (r : Regs) (d : BitVec 7) (v : Vec) :
    r.setOperand d v = { r with v := (r.setOperand d v).v, w := (r.setOperand d v).w, lx := (r.setOperand d v).lx } := by
  obtain ⟨_, e⟩ | ⟨_, _, e⟩ | ⟨_, e⟩ | ⟨_, e⟩ := setOperand_cases r d v <;> rw [e]

@[simp] theorem status_setOperand (r : Regs) (d : BitVec 7) (v : Vec) : (r.setOperand d v).status = r.status := by
  rw [setOperand_frame]
@[simp] theorem s_setOperand (r : Regs) (d : BitVec 7) (v : Vec) : (r.setOperand d v).s = r.s := by rw [setOperand_frame]
@[simp] theorem p_setOperand (r : Regs) (d : BitVec 7) (v : Vec) : (r.setOperand d v).p = r.p := by rw [setOperand_frame]
@[simp] theorem q_setOperand (r : Regs) (d : BitVec 7) (v : Vec) : (r.setOperand d v).q = r.q := by rw [setOperand_frame]

/-- Whichever vector register is written, lx receives the same value (R57). -/
theorem lx_setOperand (r : Regs) (d : BitVec 7) (v : Vec) (hd : d.toNat ≤ 72) : (r.setOperand d v).lx = v := by
  obtain ⟨_, e⟩ | ⟨_, _, e⟩ | ⟨_, e⟩ | ⟨h, _⟩ := setOperand_cases r d v
  · rw [e]
  · rw [e]
  · rw [e]
  · omega

theorem operand_setOperand_same (r : Regs) (d : BitVec 7) (v : Vec) (hd : d.toNat ≤ 72) : (r.setOperand d v).operand d = v := by
  obtain ⟨h, e⟩ | ⟨h, h64, e⟩ | ⟨h, e⟩ | ⟨h, _⟩ := setOperand_cases r d v
  · simp [e, Regs.operand, h]
  · have hw : d.toNat < 72 := by omega
    simp [e, Regs.operand, hw, Nat.not_lt.mpr h64]
  · simp [e, Regs.operand, h]
  · omega

/-- A specifier reads as before when its register is neither the one written nor lx. -/
theorem operand_setOperand_other (r : Regs) (d e : BitVec 7) (v : Vec) (he : e ≠ d) (hx : e.toNat ≠ 72) :
    (r.setOperand d v).operand e = r.operand e := by
  have hne : d.toNat ≠ e.toNat := fun h => he (BitVec.eq_of_toNat_eq h.symm)
  obtain ⟨_, e'⟩ | ⟨_, h64, e'⟩ | ⟨_, e'⟩ | ⟨_, e'⟩ := setOperand_cases r d v
  · simp [e', Regs.operand, Regs.sreg, hx, Vector.getElem_set_ne, hne]
  · have hne' (h : ¬ e.toNat < 64) : d.toNat - 64 ≠ e.toNat - 64 := by omega
    simp +contextual [e', Regs.operand, Regs.sreg, hx, Vector.getElem_set_ne, hne']
  · simp [e', Regs.operand, Regs.sreg, hx]
  · rw [e']

/-! ## The state after a vector result -/

/-- The live registers that a vector result leaves, outside a bundle: the flags of the included lanes in STATUS, and the vector
merged under the mask in the destination (R57, R59, R85). -/
theorem putLanes_live (s : State) (d : BitVec 7) (g : BitVec 2) (f : Nat → LaneResult) (h : s.bundle = none) :
    let r := s.me.live
    let m := r.preg g.toNat
    (s.putLanes d g f).me.live = { r with status := setFlags r.status (maskFlags m fun i => (f i).flags) }.setOperand d
      (masked m (r.operand d) (vecOf fun i => (f i).val)) := by
  have hsrc (F : Flags) : (s.orLive F).src = { s.me.live with status := setFlags s.me.live.status F } := by
    rw [src_none _ (by simpa [State.orLive] using h)]; simp [State.orLive]
  simp only [State.putLanes, State.wV, State.dropLoad, State.rP, State.rV, hsrc, src_none s h, me_modLive, me_modMe]
  simp only [State.orLive, me_modLive]
  rfl

end Sys2Proof.Machine

namespace Sys2Proof

open Machine

/-- Settles O5: the registers that a result leaves are one masked vector write over the old ones, and its parts are read off. -/
theorem vectorWriteMerges : Obligations.VectorWriteMerges := by
  intro s d g f i hb hd hi t m new
  have hlive : t.me.live = _ := putLanes_live s d g f hb
  have hmerged : laneOf (masked m (s.me.live.operand d) (vecOf fun i => (f i).val)) i = new := by
    rw [laneOf_masked _ _ _ hi, laneOf_vecOf _ hi]
  refine ⟨?_, ?_, ?_, ?_, ?_, ?_, ?_, ?_, putLanes_mem s d g f⟩
  · rw [hlive, operand_setOperand_same _ _ _ hd, hmerged]
  · rw [hlive, lx_setOperand _ _ _ hd, hmerged]
  · rintro rfl
    exact if_pos (lane_preg_zero _ hi)
  · rw [hlive, status_setOperand]; rfl
  · intro e hed hlx
    rw [hlive, operand_setOperand_other _ _ _ _ hed hlx]; rfl
  · rw [hlive, s_setOperand]
  · rw [hlive, p_setOperand]
  · rw [hlive, q_setOperand]

end Sys2Proof

/-!
SUPPORT. What the scalar words of the control engine compute and where its transfers go (spec/04_control.md R104-R113), and the
statements on them.
-/

namespace Sys2Proof.Machine

/-! ## The values of the arithmetic words -/

theorem ofBool_decide (p : Prop) [Decidable p] : ofBool (decide p) = if p then 1 else 0 := by
  simp [ofBool]

theorem ofBool_beq (x y : Word) : ofBool (x == y) = if x = y then 1 else 0 := by
  simp [ofBool]

theorem divSigned_quotient (x y : Int) :
    (divSigned x y).1 = if y = 0 then -1 else if x = -(2 ^ 31) ∧ y = -1 then -(2 ^ 31) else x.tdiv y := by
  simp only [divSigned, apply_ite Prod.fst]

theorem divSigned_remainder (x y : Int) :
    (divSigned x y).2 = if y = 0 then x else if x = -(2 ^ 31) ∧ y = -1 then 0 else x - x.tdiv y * y := by
  simp only [divSigned, apply_ite Prod.snd]

theorem divNatural_quotient (x y : Nat) : (divNatural x y).1 = if y = 0 then 2 ^ 32 - 1 else x / y := by
  simp only [divNatural, apply_ite Prod.fst]

theorem divNatural_remainder (x y : Nat) : (divNatural x y).2 = if y = 0 then x else x - x / y * y := by
  simp only [divNatural, apply_ite Prod.snd]

theorem clz32_eq (x : Word) : clz32 x = BitVec.ofNat 32 (32 - (if x = 0 then 0 else Nat.log2 x.toNat + 1)) := by
  have hzero : x.toNat = 0 ↔ x = 0 := by rw [BitVec.toNat_eq]; rfl
  simp only [clz32, bitLength, hzero]

/-- A sum of 0s and 1s counts its 1s. -/
theorem foldl_add_toNat_eq_countP (p : Nat → Bool) (l : List Nat) (k : Nat) :
    l.foldl (fun n i => n + (p i).toNat) k = k + l.countP p := by
  induction l generalizing k with
  | nil => rfl
  | cons i l ih =>
    rw [List.foldl_cons, ih, List.countP_cons]
    cases p i <;> simp; omega

theorem popCount_eq (x : Word) : popCount x = BitVec.ofNat 32 ((List.range 32).countP fun k => x.getLsbD k) := by
  have hbit (i : Nat) : x.toNat / 2 ^ i % 2 = (x.getLsbD i).toNat := (Nat.toNat_testBit _ _).symm
  simp only [popCount, hbit, foldl_add_toNat_eq_countP, Nat.zero_add]

/-! ## Words that write on a condition -/

/-- The conditional moves (R104): the word writes when its second source meets the condition, and else only passes. -/
theorem conditionalMove_free (c : Word → Bool) (d a b : BitVec 5) (s : State) (h : s.free (useS [d, a, b])) :
    word (useS [d, a, b]) (fun s => if c (s.rS b) then s.wS d (s.rS a) else s) s
      = if c (s.x b) then .next (s.wS d (s.x a)).passed else .next s.passed := by
  cases hc : c (s.x b) with
  | true => exact word_live s _ _ _ h (Nat.zero_le 2) (if_pos hc)
  | false => exact word_id s _ _ h (Nat.zero_le 2) (if_neg (by simp [hc]))

/-! ## Words that transfer control -/

/-- A word on a free slot whose body leaves a state and, when the transfer is taken, a target in the bundle (spec/02_encoding.md
R49): the slot goes to the target, or on to the next bundle. -/
theorem word_goes (s s' : State) (u : Uses) (body : State → State) (taken : Bool) (t : Word) (hf : s.free u) (hu : u.reads = [])
    (hb : body (s.begun u) = if taken then State.jump { s' with bundle := (s.begun u).bundle } t
      else { s' with bundle := (s.begun u).bundle })
    (hc : s'.cur = s.cur) (h0 : s'.bundle = s.bundle) (hr : s'.me.region = s.me.region) :
    word u body s = .next (s'.ended 1 (if taken then t else s.me.pc + 4)) := by
  have ⟨hbundle, _, _, hlines, heffects, _⟩ := hf
  have hslot : (s'.slot s.cur).region = s.me.region := by rw [← hr, ← hc]; rfl
  have hck : 1 + (u.reads.eraseDups.length - 2) + 0 = 1 := by rw [hu]; rfl
  have ends (target : Option Word)
      (hb : body (s.begun u) = { s' with bundle := some { (s.begun u).bundleD with target := target, extra := 0 } }) :=
    word_ends s s' u body target 0 hf hb hc (by rw [hslot]; exact hlines) (by rw [hslot]; exact heffects) (h0.trans hbundle)
  rw [hck] at ends
  cases taken with
  | true => exact ends (some t) hb
  | false => exact ends none hb

/-- A word that writes a scalar register and transfers control: the link of R113, the count of R112. -/
theorem word_writes_and_goes (s : State) (u : Uses) (body : State → State) (d : BitVec 5) (v : Word) (taken : Bool) (t : Word)
    (hf : s.free u) (hu : u.reads = [])
    (hb : body (s.begun u) = if taken then ((s.begun u).wS d v).jump t else (s.begun u).wS d v) :
    word u body s = .next ((s.wS d v).ended 1 (if taken then t else s.me.pc + 4)) := by
  obtain ⟨hc, h0, hr, -⟩ := wS_keeps s d v
  exact word_goes s (s.wS d v) u body taken t hf hu hb hc h0 hr

/-- The branches on two scalars (R110). -/
theorem branch_free (c : Word → Word → Bool) (d a : BitVec 5) (i : BitVec 14) (s : State) (h : s.free (useS [d, a])) :
    branch c d a i s
      = .next (s.ended 1 (if c (s.x d) (s.x a) then s.me.pc + BitVec.ofInt 32 (4 * i.toInt) else s.me.pc + 4)) :=
  word_goes s s _ _ _ _ h rfl rfl rfl rfl rfl

/-- The conditions of BP: any, all and none (R111). -/
theorem bpTaken_eq (c : BitVec 2) (v : BitVec 16) (h : c ≠ 3) :
    bpTaken c.toNat v = if c = 0 then v != 0 else if c = 1 then v == 0xFFFF else v == 0 := by
  have hc : c = 0 ∨ c = 1 ∨ c = 2 := by revert c; decide
  obtain rfl | rfl | rfl := hc <;> rfl

end Sys2Proof.Machine

namespace Sys2Proof

open Machine

/-- Settles O1: each word is an arithmetic word, a conditional move or a write of one register, of the value that R104 to R106 give
it. -/
theorem scalarArithmetic : Obligations.ScalarArithmetic := by
  refine ⟨?threeRegisters, ?others⟩
  case threeRegisters =>
    intro s d a b h x y wrote
    have alu {f : Word → Word → Word} {v : Word} (hv : f x y = v) : alu3 f d a b s = wrote v := by
      rw [alu3_free f d a b s h, ← hv]
    have move (c : Word → Bool) := conditionalMove_free c d a b s h
    simp only [exec_add, exec_sub, exec_and, exec_or, exec_xor, exec_andn, exec_shl, exec_shr, exec_sra, exec_slt, exec_sltn,
      exec_seq, exec_min, exec_minn, exec_max, exec_maxn, exec_addx4, exec_addx64, exec_mul, exec_mulh, exec_mulhn, exec_div,
      exec_rem, exec_divn, exec_remn, exec_movz, exec_movnz]
    exact ⟨alu rfl, alu rfl, alu rfl, alu rfl, alu rfl, alu rfl, alu rfl, alu rfl, alu rfl,
      alu (ofBool_decide _), alu (ofBool_decide _), alu (ofBool_beq x y),
      alu rfl, alu rfl, alu rfl, alu rfl, alu rfl, alu rfl, alu rfl, alu rfl, alu rfl,
      alu (congrArg _ (divSigned_quotient _ _)), alu (congrArg _ (divSigned_remainder _ _)),
      alu (congrArg _ (divNatural_quotient _ _)), alu (congrArg _ (divNatural_remainder _ _)),
      (move (· == 0)).trans (by simp only [beq_iff_eq]; rfl),
      (move (· != 0)).trans (by simp only [bne_iff_ne, ite_not]; rfl)⟩
  case others =>
    intro s d a n i e x wrote
    simp only [exec_addi, exec_andi, exec_ori, exec_xori, exec_shli, exec_shri, exec_srai, exec_slti, exec_sltni, exec_clz,
      exec_popc, exec_lui, exec_prd, exec_pwr]
    refine ⟨fun h => ?_, fun h => ?_, fun h => ?_⟩
    · have alu {f : Word → Word} {v : Word} (hv : f x = v) : alu2 f d a s = wrote v := by
        rw [alu2_free f d a s h, ← hv]
      exact ⟨alu rfl, alu rfl, alu rfl, alu rfl, alu rfl, alu rfl, alu rfl,
        alu (ofBool_decide _), alu (ofBool_decide _), alu (clz32_eq x), alu (popCount_eq x)⟩
    · exact ⟨word_live s _ _ _ h (Nat.zero_le 2) rfl, word_live s _ _ _ h (Nat.zero_le 2) rfl⟩
    · exact word_live s _ _ _ h (Nat.zero_le 2) rfl

/-- Settles O4: each word is a transfer that its condition takes or leaves, alone or with one scalar register written. -/
theorem branchesAndJumps : Obligations.BranchesAndJumps := by
  intro s d a c p i j x y pc there go
  simp only [exec_beq, exec_bne, exec_blt, exec_bge, exec_bltn, exec_bgen, exec_jalr, exec_bp, exec_j, exec_loop, exec_jal,
    exec_jr]
  refine ⟨fun h => ?branches, fun h => ⟨fun hc => ?bp, ?j⟩, fun h => ?loop, fun h => ?jal, fun h => ?jr⟩
  case branches =>
    have branches (c : Word → Word → Bool) : branch c d a i s = go (c x y) := branch_free c d a i s h
    exact ⟨branches _, branches _, branches _, branches _, branches _, branches _,
      word_writes_and_goes s _ _ d (pc + 4) true y h rfl rfl⟩
  case bp =>
    have hgo : execBp c p i s = go (bpTaken c.toNat (s.me.live.preg p.toNat)) :=
      word_goes s s _ _ _ there h rfl rfl rfl rfl rfl
    rw [hgo, bpTaken_eq c _ hc]
  case j => exact word_goes s s _ _ true _ h rfl rfl rfl rfl rfl
  case loop =>
    have hgo : execLoop d i s = .next ((s.wS d (x - 1)).ended 1 (if x - 1 != 0 then there else pc + 4)) :=
      word_writes_and_goes s _ _ d (x - 1) (x - 1 != 0) there h rfl rfl
    rw [hgo]; simp only [bne_iff_ne]
  case jal => exact word_writes_and_goes s _ _ 31 (pc + 4) true _ h rfl rfl
  case jr => exact word_goes s s _ _ true y h rfl rfl rfl rfl rfl

end Sys2Proof

/-!
SUPPORT. The ck of a word of two sources, the set bits of a predicate below a lane, and the statements on the integer and predicate
words of the vector engine (spec/06_vector.md R173-R176, R180, R181, R191, R192).
-/

namespace Sys2Proof.Machine

/-! ## The ck of main-file reads -/

theorem length_eraseDups_le (l : List Nat) : l.eraseDups.length ≤ l.length := by
  match l with
  | [] => exact le_rfl
  | a :: l =>
    have hrest := List.length_filter_le (fun b => !b == a) l
    have ih := length_eraseDups_le (l.filter fun b => !b == a)
    rw [List.eraseDups_cons, List.length_cons, List.length_cons]
    omega
termination_by l.length
decreasing_by exact Nat.lt_succ_of_le (List.length_filter_le _ _)

/-- A word reads the main file at most once for each source (spec/02_encoding.md R60). -/
theorem length_reads_le (l : List (BitVec 7)) : (useSrc l).reads.eraseDups.length ≤ l.length :=
  calc (useSrc l).reads.eraseDups.length
    _ ≤ (useSrc l).reads.length := length_eraseDups_le _
    _ ≤ (l.map BitVec.toNat).length := List.length_filter_le _ _
    _ = l.length := List.length_map _

/-- A word on a free slot that writes a result from at most two main-file reads takes one ck. -/
theorem word_lanes_one_ck (s : State) (u : Uses) (body : State → State) (d : BitVec 7) (g : BitVec 2) (f : Nat → LaneResult)
    (hf : s.free u) (hr : u.reads.eraseDups.length ≤ 2) (hb : body (s.begun u) = (s.begun u).putLanes d g f) :
    word u body s = .next ((s.putLanes d g f).ended 1 (s.me.pc + 4)) := by
  rw [word_lanes s u body 0 d g f hf (hb.trans (putLanes_bundle s _ d g f hf.1 rfl)), Nat.sub_eq_zero_of_le hr]

/-! ## The predicate words -/

/-- The set bits of a mask below a lane, taken from the lanes that it includes and counted over the lanes below (R191). -/
theorem length_lanesOf_below (m : BitVec 16) (i : Nat) :
    ((lanesOf m).filter fun j => j < i).length = (List.range i).countP fun j => lane m j && j < 16 := by
  have hsame (j : Nat) : j ∈ (lanesOf m).filter (fun j => j < i) ↔ j ∈ (List.range i).filter fun j => lane m j && j < 16 := by
    simp only [lanesOf, List.mem_filter, List.mem_range, Bool.and_eq_true, decide_eq_true_eq]
    tauto
  have hperm := (List.perm_ext_iff_of_nodup ((List.nodup_range.filter _).filter _) (List.nodup_range.filter _)).2 hsame
  rw [List.countP_eq_length_filter]
  exact hperm.length_eq

/-- The words on two predicates (R191). -/
theorem predOp_free (f : BitVec 16 → BitVec 16 → BitVec 16) (d a b : BitVec 7) (s : State) (h : s.free {}) :
    predOp f d a b s = .next (s.wP d.toNat (f (s.me.live.preg a.toNat) (s.me.live.preg b.toNat))).passed :=
  word_live s _ _ _ h (Nat.zero_le 2) rfl

end Sys2Proof.Machine

namespace Sys2Proof

open Machine

/-- Settles O6: each word but MOVWI is lane-wise, in two operands or in one, of the function that R173, R174, R181 and R192 give it. -/
theorem vectorInteger : Obligations.VectorInteger := by
  refine ⟨?twoOperands, ?oneOperand⟩
  case twoOperands =>
    intro s d a b g h x y put two
    have lanewise (f : Word → Word → LaneResult) : lanes2 f d a b g s = two f := lanes2_free f d a b g s h
    simp only [exec_vaddI32, exec_vsubI32, exec_vmulI32, exec_vmulhI32, exec_vmulhN32, exec_vaddsI32, exec_vaddsN32,
      exec_vsubsI32, exec_vsubsN32, exec_vaddsI16, exec_vaddsI8, exec_vaddsN8, exec_vminI32, exec_vminN32, exec_vmaxI32,
      exec_vmaxN32, exec_vand, exec_vor, exec_vxor, exec_vandn, exec_vshl, exec_vshrN32, exec_vshrI32]
    and_intros <;> exact lanewise _
  case oneOperand =>
    intro s d a i n g x put one
    simp only [exec_vshli, exec_vshriN32, exec_vshriI32, exec_vaddiI32, exec_vabsI32, exec_vcvtI32I16, exec_vcvtI32N16,
      exec_vcvtI32I8, exec_vcvtI32N8, exec_vcvtN32I32, exec_vcvtI32N32, exec_vcvtI32F32, exec_vcvtN32F32, exec_movw, exec_movwi]
    refine ⟨fun h => ?lanewise, fun h => word_lanes_one_ck s _ _ d g _ h (Nat.zero_le 2) rfl⟩
    have lanewise (f : Word → LaneResult) : lanes1 f d a g s = one f := by
      rw [lanes1_free f d a g s h, reads_ck_one]
    and_intros <;> exact lanewise _

/-- Settles O9: the compares and the predicate words write one predicate, VSEL and VPCNT the lanes of one vector; the count of VPCNT
is `length_lanesOf_below`. -/
theorem vectorPredicates : Obligations.VectorPredicates := by
  intro s d a b g x y m cmp pred
  simp only [exec_vcmpeqI32, exec_vcmpltI32, exec_vcmpltN32, exec_vcmpeqF32, exec_vcmpltF32, exec_vcmpleF32, exec_vcmpunF32,
    exec_pand, exec_por, exec_pxor, exec_pnot, exec_vsel, exec_vpcnt]
  refine ⟨fun h => ?compares, fun h => ?predicates, fun h => ?vsel, fun h => ?vpcnt⟩
  case compares =>
    have compares (c : Word → Word → Bool) : compare c d a b g s = cmp c := compare_free c d a b g s h
    and_intros <;> exact compares _
  case predicates =>
    have writes (f : BitVec 16 → BitVec 16 → BitVec 16) : predOp f d a b s = pred f := predOp_free f d a b s h
    exact ⟨writes _, writes _, writes _, predOp_free _ d a 0 s h⟩
  case vsel => exact word_lanes_one_ck s _ _ d 0 _ h (length_reads_le [a, b]) rfl
  case vpcnt =>
    simp only [← length_lanesOf_below]
    exact word_lanes_one_ck s _ _ d g _ h (Nat.zero_le 2) rfl

end Sys2Proof
